-- ==== Sys2Proof/Word.lean ====
section
/-! DEFINITION. The word types of the Tladric T9 (R3, R21, R22) and the sparse map that holds every large
piece of its state: a list of (key, value) pairs in one canonical form. -/

namespace Sys2Proof

/-- A 64-bit scalar, index or control register. -/
abbrev Word := BitVec 64

/-- One byte of a memory. -/
abbrev Byte := BitVec 8

/-- A 512-byte vector register (R10). -/
abbrev VReg := BitVec 4096

/-- A 1,024-bit predicate register (R10). -/
abbrev Pred := BitVec 1024

/-- The five sticky floating flags NV, DZ, OF, UF, NX, laid out as in FSTAT [4:0] (R75). -/
abbrev FFlags := BitVec 5

/-- A sparse map: keys strictly rising, no entry equal to what an unlisted key reads as. -/
abbrev SMap (α : Type) := List (Nat × α)

end Sys2Proof
end

