-- ==== Sys2Proof/Syntax.lean ====
section
/-! DEFINITION. The steps of the Tladric T9 as data: one constructor of `Instr` for each row of the opcode table.
The rows are the scalar words (R35), the engine words (R36) and the device's own steps and events
(95_what_each_step_holds), which carry what the event brings with it. -/

namespace Sys2Proof

/-- Element types (R34) and the three 64-bit types that have no type code. -/
inductive Ty where
  | i4 | n4 | i8 | n8 | i16 | n16 | i32 | n32
  | e2m1 | e3m2 | e2m3 | e4m3 | e5m2 | f16 | bf16 | f32
  | f64 | i64 | n64
  deriving DecidableEq, Repr

/-- Types of a scalar register value (R129). -/
inductive STy where
  | f32 | f64 | bf16 | f16 | i32 | n32 | i64 | n64
  deriving DecidableEq, Repr

/-- Precision of a scalar floating word (R130). -/
inductive FP where
  | f32 | f64
  deriving DecidableEq, Repr

/-- Rounding modes (R78). -/
inductive RMode where
  | rne | rtz | rup | rdn | rna | srd
  deriving DecidableEq, Repr

/-- The rounding field of an instruction: a static mode, or the RM field of the governing register (R77). -/
inductive RmSel where
  | stat (m : RMode)
  | dyn
  deriving DecidableEq, Repr

/-- Conditions of FCMP (R130). -/
inductive FCond where
  | eq | ne | lt | le | un
  deriving DecidableEq, Repr

/-- Conditions of EBR (R50). -/
inductive ECond where
  | eq | ne | lt | ge | ltu | geu
  deriving DecidableEq, Repr

/-- Access sizes of LD, LDZ and ST (R116). -/
inductive MSize where
  | b8 | b16 | b32 | b64
  deriving DecidableEq, Repr

/-- Scalar cache policies (R117). -/
inductive Policy where
  | d | b | s | u
  deriving DecidableEq, Repr

/-- AMO operations (R230). -/
inductive AmoOp where
  | swap | add | and | or | xor | min | max | minu | maxu | fadd | fmin | fmax
  deriving DecidableEq, Repr

/-- Access paths (R20, R215). -/
inductive Path where
  | x | l | s | e | n | q | p | h
  deriving DecidableEq, Repr

/-- Scopes (R19, R215). -/
inductive Scope where
  | core | cluster | die | package | system
  deriving DecidableEq, Repr

/-- GSET field codes (R108). -/
inductive GField where
  | base | sbase | n0 | n1 | n2 | n3 | s0 | s1 | s2 | s3 | sstr | swz | dir | pos
  deriving DecidableEq, Repr

/-- Targets of MSAVE and MREST (R197). -/
inductive MTgt where
  | a0 | a1 | a2 | a3 | gp | wp
  deriving DecidableEq, Repr

/-- Head dimension of VSMRG (R158). -/
inductive HeadDim where
  | d64 | d128 | d256
  deriving DecidableEq, Repr

/-- Flag selector of VFLG (R156). -/
inductive FlagSel where
  | nx | uf | of | dz | nv | any
  deriving DecidableEq, Repr

/-- Sub-codes at 0xDC (R159). -/
inductive F64Op where
  | min | max | abs | neg | cmpeq | cmpne | cmplt | cmple | cmpun | redsum | redmax | redmin | scan
  deriving DecidableEq, Repr

/-- Sub-codes at 0xDD (R159), destination first. -/
inductive Cvt64 where
  | f64f32 | f32f64 | f64i64 | f64n64 | i64f64 | n64f64 | i64i32 | n64n32 | i32i64 | n32n64
  deriving DecidableEq, Repr

/-- Elementary functions (R160). -/
inductive Fn where
  | exp | exp2 | expm1 | log | log2 | log1p | rcp | rsqrt | sqrt | div | sin | cos | tanh | erf | sigm
  deriving DecidableEq, Repr

/-- Sub-codes at 0xDF (R159). -/
inductive I64Op where
  | add | sub | mul | min | max | minu | maxu | and | or | xor | sll | srl | sra | cmplt | cmpltu | cmpeq
  deriving DecidableEq, Repr

/-- The synchronisation fields of an engine word (R22). -/
structure Sync where
  wthr : BitVec 5
  wsem : BitVec 8
  sinc : BitVec 2
  ssem : BitVec 8
  tki  : BitVec 2
  tko  : BitVec 2
  deriving DecidableEq, Repr

/-- The vector operand layout of R23. -/
structure VOp where
  ty : Ty
  vd : BitVec 7
  va : BitVec 7
  vb : BitVec 7
  pg : BitVec 4
  deriving DecidableEq, Repr

/-- The vector operand layout of a unary word, whose vb field is zero (R134). -/
structure UOp where
  ty : Ty
  vd : BitVec 7
  va : BitVec 7
  pg : BitVec 4
  deriving DecidableEq, Repr

/-- Operands of a compare (R138). -/
structure COp where
  ty : Ty
  pd : BitVec 4
  va : BitVec 7
  vb : BitVec 7
  pg : BitVec 4
  deriving DecidableEq, Repr

/-- Operands of VCVT and VQUANT (R141, R143). -/
structure CvtOp where
  d  : Ty
  vd : BitVec 7
  va : BitVec 7
  s  : Ty
  rm : RmSel
  pg : BitVec 4
  deriving DecidableEq, Repr

/-- Operands of a 64-bit vector form without a sub-code field (R159). -/
structure WOp where
  vd : BitVec 7
  va : BitVec 7
  vb : BitVec 7
  pg : BitVec 4
  deriving DecidableEq, Repr

/-- Operands of a transfer (R109): descriptor form, alias class, destination and source fields. -/
structure XOp where
  f   : Bool
  ac  : BitVec 4
  d   : BitVec 4
  src : BitVec 5
  deriving DecidableEq, Repr

/-- Operands of GATH and SCAT (R248). -/
structure GOp where
  f  : Bool
  ac : BitVec 4
  d  : BitVec 4
  s  : BitVec 4
  x  : BitVec 4
  deriving DecidableEq, Repr

/-- Operands of MMA beside its mode (R192). -/
structure MmaOp where
  ad : BitVec 2
  ch : Bool
  sa : BitVec 4
  sb : BitVec 4
  im : BitVec 4
  pr : BitVec 4
  pd : BitVec 4
  pc : BitVec 4
  deriving DecidableEq, Repr

/-- Operands of MDRAIN (R195). -/
structure DrainOp where
  t   : Ty
  as  : BitVec 2
  q   : BitVec 3
  ir  : BitVec 4
  z   : Bool
  d64 : Bool
  rm  : RmSel
  deriving DecidableEq, Repr

/-- An engine sequencer: L, C, S of the core in focus, or a copy engine by number (R8, R10). -/
inductive SeqId where
  | l | c | s
  | e (m : Nat)
  deriving DecidableEq, Repr

/-- A unit that runs instructions: X or an engine sequencer. -/
inductive UnitId where
  | x
  | seq (u : SeqId)
  deriving DecidableEq, Repr

/-- The four words of a fused softmax group (R178), with the synchronisation fields they may carry. -/
structure FusedOp where
  ty   : Ty
  pg   : BitVec 4
  vx   : BitVec 7
  vm   : BitVec 7
  vy   : BitVec 7
  ve   : BitVec 7
  vs   : BitVec 7
  two  : Bool
  wthr : BitVec 5
  wsem : BitVec 8
  tki  : BitVec 2
  sinc : BitVec 2
  ssem : BitVec 8
  tko  : BitVec 2
  deriving DecidableEq, Repr

/-- Outcome of the error code of a DRAM read (R268, R376). -/
inductive EccOutcome where
  | ok | corrected | uncorrectable
  deriving DecidableEq, Repr

/-- A Seam message (R341); its KIND is the constructor of `Instr` that carries it. -/
structure SeamMsg where
  aid     : BitVec 16
  rank    : Nat
  count   : Nat
  flags   : BitVec 6
  frank   : Nat
  outcome : Nat
  next    : BitVec 16
  deriving DecidableEq, Repr

/-- What an atomic does at its place (R230): an AMO with its operand, or a CAS with the compared and the new value. -/
inductive Rmw where
  | amo (op : AmoOp) (b : Word)
  | cas (cmp new : Word)
  deriving DecidableEq, Repr

/-- An access or signal that arrives from a peer device (R249, R250, R306). `id` numbers the accesses of a sender that
waits for their answers. -/
inductive PAccess where
  | read   (rank : Nat) (asid : BitVec 12) (id : Nat) (va : Word) (n : Nat)
  /-- bytes with the mask of the bits that are written (R214) -/
  | write  (rank : Nat) (asid : BitVec 12) (id : Nat) (va : Word) (bytes : List (Byte × Byte))
  | atomic (rank : Nat) (asid : BitVec 12) (id : Nat) (va : Word) (n : Nat) (op : Rmw)
  /-- an element of an XFER; `ext` names the byte ranges of the destination extent that its first element declares (R313) -/
  | elem   (rank : Nat) (asid : BitVec 12) (va : Word) (bytes : List Byte) (ext : List (Nat × Nat))
  | signal (rank : Nat) (asid : BitVec 12) (core : Nat) (sem : BitVec 8) (inc : Nat)
  /-- a near-memory operation on a PEER page: 0 add, 1 min, 2 max -/
  | nop    (rank : Nat) (asid : BitVec 12) (id : Nat) (va : Word) (op : Nat) (f32 : Bool) (val : BitVec 32)
  /-- the home has pinned a PEER page (R319) -/
  | pin    (rank : Nat) (asid : BitVec 12) (va : Word)
  deriving DecidableEq, Repr

/-- What a peer answers to an XFER or an RSIG (R249, R250): elements accepted so far, done, or refused with a cause code
at an element, the peer's AID for TXN.ABORTED (R334) or the stack for INTEGRITY.DRAM_UE (R366), and the address that
failed; and that every write of an XFER has been performed (R218). -/
inductive PeerReply where
  | accepted (e : Nat)
  | done
  | refused (code : BitVec 10) (e : Nat) (info : BitVec 16) (va : Word)
  | performed
  deriving DecidableEq, Repr

/-- The answer to a numbered access: the bytes that it read, or a refusal as in `PeerReply`. -/
inductive PAnswer where
  | data (bytes : List Byte)
  | refused (code : BitVec 10) (info : BitVec 16)
  deriving DecidableEq, Repr

/-- What a link flit carries (R226, R374). -/
inductive LinkMsg where
  | access (a : PAccess)
  | reply (core : Nat) (u : SeqId) (r : PeerReply)
  | answer (id : Nat) (r : PAnswer)
  | vote (m : SeamMsg)
  | decision (m : SeamMsg)
  | query (m : SeamMsg)
  | opening (m : SeamMsg)
  /-- every flit before a number has been received (R374) -/
  | ack (next : BitVec 12)
  /-- the partner has installed a page that moved to it: the sender's ASID and the page (R319) -/
  | installed (asid : BitVec 12) (va : Word)
  deriving DecidableEq, Repr

/-- What a host access names: an offset of BAR0, an HBM address through BAR2, or a bus address of the host's own memory,
the far tier (R203, R228, R327). -/
inductive HostAddr where
  | bar0 (off : Nat)
  | bar2 (addr : Nat)
  | far (addr : Nat)
  deriving DecidableEq, Repr

/-- An SPDM request to the SMC (R326): its capabilities, a certificate slot, a measurement block with or without a signature,
a challenge, which is answered with a signature, or any other function. -/
inductive SpdmReq where
  | capabilities
  | certificate (slot : Nat)
  | measurement (index : Nat) (sign : Bool)
  | challenge
  | keyExchange
  | other
  deriving DecidableEq, Repr

/-- The unit whose event starts a targeted self-test (R379). -/
inductive TestUnit where
  | dramRow (stack bank row : Nat)
  | cuffUnit (stack bank : Nat)
  | lane (port lane : Nat)
  | matrixColumn (core column : Nat)
  | residue (core : Nat) (u : UnitId)
  | sram (die : Nat) (kind : Nat) (core : Nat)
  deriving DecidableEq, Repr

/-- What a self-test finds (R379): nothing, a lasting error repaired by a spare, or one with no spare left. -/
inductive TestResult where
  | transient | spared | noSpare
  deriving DecidableEq, Repr

/-- One step of the T9. -/
inductive Instr where
  -- scalar integer words (R124 to R128)
  | add (d a b : BitVec 5) | sub (d a b : BitVec 5) | mul (d a b : BitVec 5) | mulh (d a b : BitVec 5)
  | mulhu (d a b : BitVec 5) | div (d a b : BitVec 5) | divu (d a b : BitVec 5) | rem (d a b : BitVec 5)
  | remu (d a b : BitVec 5) | and (d a b : BitVec 5) | or (d a b : BitVec 5) | xor (d a b : BitVec 5)
  | sll (d a b : BitVec 5) | srl (d a b : BitVec 5) | sra (d a b : BitVec 5) | slt (d a b : BitVec 5)
  | sltu (d a b : BitVec 5) | min (d a b : BitVec 5) | max (d a b : BitVec 5) | minu (d a b : BitVec 5)
  | maxu (d a b : BitVec 5)
  | addi (d a : BitVec 5) (imm : BitVec 16) | andi (d a : BitVec 5) (imm : BitVec 16)
  | ori (d a : BitVec 5) (imm : BitVec 16) | xori (d a : BitVec 5) (imm : BitVec 16)
  | slti (d a : BitVec 5) (imm : BitVec 16)
  | slli (d a : BitVec 5) (sh : BitVec 6) | srli (d a : BitVec 5) (sh : BitVec 6) | srai (d a : BitVec 5) (sh : BitVec 6)
  | adpc (d : BitVec 5) (imm : BitVec 21) | lih (d : BitVec 5) (imm : BitVec 21)
  -- scalar floating words (R130 to R133)
  | fadd (d a b : BitVec 5) (p : FP) (rm : RmSel) | fsub (d a b : BitVec 5) (p : FP) (rm : RmSel)
  | fmul (d a b : BitVec 5) (p : FP) (rm : RmSel) | fdiv (d a b : BitVec 5) (p : FP) (rm : RmSel)
  | fsqrt (d a : BitVec 5) (p : FP) (rm : RmSel)
  | fmin (d a b : BitVec 5) (p : FP) | fmax (d a b : BitVec 5) (p : FP)
  | fcmp (d a b : BitVec 5) (p : FP) (cc : FCond)
  | fcvt (d a : BitVec 5) (dst src : STy) (rm : RmSel)
  | fclass (d a : BitVec 5) (p : FP)
  | fma (d a b c : BitVec 5) (p : FP) (rm : RmSel) | fms (d a b c : BitVec 5) (p : FP) (rm : RmSel)
  | fnma (d a b c : BitVec 5) (p : FP) (rm : RmSel) | fnms (d a b c : BitVec 5) (p : FP) (rm : RmSel)
  -- scalar branches and jumps (R42, R43)
  | beq (a b : BitVec 5) (off : BitVec 16) | bne (a b : BitVec 5) (off : BitVec 16)
  | blt (a b : BitVec 5) (off : BitVec 16) | bge (a b : BitVec 5) (off : BitVec 16)
  | bltu (a b : BitVec 5) (off : BitVec 16) | bgeu (a b : BitVec 5) (off : BitVec 16)
  | jal (off : BitVec 26) | jalr (d a : BitVec 5) (imm : BitVec 16)
  -- scalar memory words (R116, R118)
  | ld (d a : BitVec 5) (sz : MSize) (pol : Policy) (off : BitVec 11)
  | ldz (d a : BitVec 5) (sz : MSize) (pol : Policy) (off : BitVec 11)
  | st (xs a : BitVec 5) (sz : MSize) (pol : Policy) (off : BitVec 11)
  | cinv (xl a : BitVec 5) (off : BitVec 11)
  -- atomics, fences, clasps, windows, near-memory operations (R230 to R247)
  | amo (op : AmoOp) (d a b : BitVec 5) (wide : Bool) | cas (d a b : BitVec 5) (wide : Bool)
  | fence (sc : Scope) | fencex (pa pb : Path) (sc : Scope)
  | cbind (xl a b : BitVec 5) | cunb (a b : BitVec 5) | cacq (a : BitVec 5) | ctry (d a : BitVec 5) | crel (a : BitVec 5)
  | rwin (c a b : BitVec 5) | rwinCancel (a : BitVec 5)
  | redst (k a xs : BitVec 5) (ty : Ty)
  | nmadd (a xs : BitVec 5) (ty : Ty) | nmmin (a xs : BitVec 5) (ty : Ty) | nmmax (a xs : BitVec 5) (ty : Ty)
  | nmfen
  -- command hand-off and tokens (R45 to R48, R300)
  | ecmd (t a b : BitVec 5) | efen (mask : BitVec 3) | eflush (mask : BitVec 3)
  | toks (sq : BitVec 2) | tokr (sq : BitVec 2)
  -- scheduler words (R288 to R298)
  | ssig (a : BitVec 5) (sem inc : BitVec 8) | swait (sem thr : BitVec 8)
  | srd (d : BitVec 5) (sem : BitVec 8) | sset (a : BitVec 5) (sem : BitVec 8) | semcfg (a : BitVec 5) (sem : BitVec 8)
  | wfe (d a : BitVec 5) (mask : BitVec 6)
  | spawn (a : BitVec 5) | join (a : BitVec 5) | ndone (a b : BitVec 5) | yield | texit
  -- transaction words (R350)
  | tbegin (d : BitVec 5) | tflag (a b : BitVec 5) | pflush | svote (a b : BitVec 5) | twait (d a : BitVec 5)
  | tstat (d : BitVec 5)
  -- system words (R368 to R370)
  | csrr (d : BitVec 5) (num : BitVec 12) | csrw (num : BitVec 12) (a : BitVec 5)
  | trap (k : BitVec 8) | tret | tretSkip | pgreq (d a b : BitVec 5)
  -- engine sequencing (R49 to R55)
  | enop (sy : Sync) | estop (sy : Sync) | ejmp (sy : Sync) (off : BitVec 29)
  | ebr (sy : Sync) (cc : ECond) (ia ib : BitVec 4) (off : BitVec 18)
  | eloop (sy : Sync) (i : BitVec 4) (off : BitVec 25) | loop (sy : Sync) (i : BitVec 4) (off : BitVec 25)
  | iset (sy : Sync) (i : BitVec 4) (imm : BitVec 25) | iadd (sy : Sync) (i : BitVec 4) (imm : BitVec 25)
  | ild (sy : Sync) (i ib : BitVec 4) (off : BitVec 21)
  | rbset (sy : Sync) (vrb : BitVec 5) (prb : BitVec 3)
  -- streams and transfers (R107 to R114, R239, R245, R248)
  | gcfg (sy : Sync) (g ib : BitVec 4) (off : BitVec 21) | gset (sy : Sync) (g : BitVec 4) (fld : GField) (ia : BitVec 4)
  | lds (sy : Sync) (o : XOp) | sts (sy : Sync) (o : XOp) | mcast (sy : Sync) (o : XOp) | bcopy (sy : Sync) (o : XOp)
  | gath (sy : Sync) (o : GOp) | scat (sy : Sync) (o : GOp)
  | redstEngine (sy : Sync) (o : XOp) (ik : BitVec 4)
  | nmaddEngine (sy : Sync) (o : XOp) | nmminEngine (sy : Sync) (o : XOp) | nmmaxEngine (sy : Sync) (o : XOp)
  | nmfenEngine (sy : Sync) | fencexEngine (sy : Sync) (pa pb : Path) (sc : Scope)
  -- matrix words (R191 to R197)
  | mwld (sy : Sync) (sw sm : BitVec 4) (sp d64 : Bool)
  | mmaF (sy : Sync) (o : MmaOp) | mmaB (sy : Sync) (o : MmaOp) | mmaG (sy : Sync) (o : MmaOp)
  | mdrain (sy : Sync) (o : DrainOp) | mzero (sy : Sync) (mask : BitVec 5) (f64 : Bool)
  | msave (sy : Sync) (t : MTgt) (g : BitVec 7) | mrest (sy : Sync) (t : MTgt) (g : BitVec 7)
  | matrixWordComplete
  -- vector arithmetic, logic and shifts (R134 to R137)
  | vadd (sy : Sync) (o : VOp) | vsub (sy : Sync) (o : VOp) | vmul (sy : Sync) (o : VOp)
  | vfma (sy : Sync) (o : VOp) | vfms (sy : Sync) (o : VOp) | vfnma (sy : Sync) (o : VOp)
  | vmin (sy : Sync) (o : VOp) | vmax (sy : Sync) (o : VOp)
  | vabs (sy : Sync) (o : UOp) | vneg (sy : Sync) (o : UOp)
  | vsadd (sy : Sync) (o : VOp) | vssub (sy : Sync) (o : VOp) | vmulh (sy : Sync) (o : VOp)
  | vclamp (sy : Sync) (o : VOp) | vcpsgn (sy : Sync) (o : VOp)
  | vand (sy : Sync) (o : VOp) | vor (sy : Sync) (o : VOp) | vxor (sy : Sync) (o : VOp) | vnot (sy : Sync) (o : UOp)
  | vsll (sy : Sync) (o : VOp) | vsrl (sy : Sync) (o : VOp) | vsra (sy : Sync) (o : VOp) | vpopc (sy : Sync) (o : UOp)
  -- compares and predicates (R138 to R140)
  | vcmpeq (sy : Sync) (o : COp) | vcmpne (sy : Sync) (o : COp) | vcmplt (sy : Sync) (o : COp)
  | vcmple (sy : Sync) (o : COp) | vcmpun (sy : Sync) (o : COp)
  | pand (sy : Sync) (pd pa pb : BitVec 4) | por (sy : Sync) (pd pa pb : BitVec 4) | pxor (sy : Sync) (pd pa pb : BitVec 4)
  | pnot (sy : Sync) (pd pa : BitVec 4)
  | pset (sy : Sync) (ty : Ty) (pd i : BitVec 4) | pcnt (sy : Sync) (ty : Ty) (id pa pg : BitVec 4)
  | pfirst (sy : Sync) (ty : Ty) (id pa pg : BitVec 4)
  -- conversions, moves, reductions, sorting (R141 to R158)
  | vcvt (sy : Sync) (o : CvtOp) | vquant (sy : Sync) (o : CvtOp)
  | vmov (sy : Sync) (o : UOp) | vbcast (sy : Sync) (o : UOp) (ib : BitVec 4)
  | vperm (sy : Sync) (o : VOp) | vslide (sy : Sync) (o : VOp) | vsel (sy : Sync) (o : VOp)
  | vredsum (sy : Sync) (o : UOp) | vredmax (sy : Sync) (o : UOp) | vredmin (sy : Sync) (o : UOp)
  | vscan (sy : Sync) (o : UOp) | vsort (sy : Sync) (o : VOp) | vtopk (sy : Sync) (o : VOp)
  | vcompact (sy : Sync) (o : UOp) | viota (sy : Sync) (ty : Ty) (vd : BitVec 7) (ib pg : BitVec 4)
  | vrand (sy : Sync) (ty : Ty) (vd : BitVec 7) (ik ic pg : BitVec 4)
  | vroute (sy : Sync) (ty : Ty) (vd va : BitVec 7) (ic pd : BitVec 4)
  | vchk (sy : Sync) (ty : Ty) (pd : BitVec 4) (va : BitVec 7) (id pg : BitVec 4)
  | vflg (sy : Sync) (pd : BitVec 4) (sel : FlagSel) (pg : BitVec 4)
  | vsmrg (sy : Sync) (vd va : BitVec 7) (hd : HeadDim)
  -- elementary functions (R160)
  | vexp (sy : Sync) (o : UOp) | vexp2 (sy : Sync) (o : UOp) | vexpm1 (sy : Sync) (o : UOp) | vlog (sy : Sync) (o : UOp)
  | vlog2 (sy : Sync) (o : UOp) | vlog1p (sy : Sync) (o : UOp) | vrcp (sy : Sync) (o : UOp) | vrsqrt (sy : Sync) (o : UOp)
  | vsqrt (sy : Sync) (o : UOp) | vdiv (sy : Sync) (o : VOp) | vsin (sy : Sync) (o : UOp) | vcos (sy : Sync) (o : UOp)
  | vtanh (sy : Sync) (o : UOp) | verf (sy : Sync) (o : UOp) | vsigm (sy : Sync) (o : UOp)
  | vexpa (sy : Sync) (o : UOp) | vexp2a (sy : Sync) (o : UOp) | vexpm1a (sy : Sync) (o : UOp) | vloga (sy : Sync) (o : UOp)
  | vlog2a (sy : Sync) (o : UOp) | vlog1pa (sy : Sync) (o : UOp) | vrcpa (sy : Sync) (o : UOp) | vrsqrta (sy : Sync) (o : UOp)
  | vsqrta (sy : Sync) (o : UOp) | vdiva (sy : Sync) (o : VOp) | vsina (sy : Sync) (o : UOp) | vcosa (sy : Sync) (o : UOp)
  | vtanha (sy : Sync) (o : UOp) | verfa (sy : Sync) (o : UOp) | vsigma (sy : Sync) (o : UOp)
  | hemPhaseEnd
  | fusedSoftmaxGroup (o : FusedOp)
  -- 64-bit vector forms (R159)
  | vaddF64 (sy : Sync) (o : WOp) | vsubF64 (sy : Sync) (o : WOp) | vmulF64 (sy : Sync) (o : WOp) | vfmaF64 (sy : Sync) (o : WOp)
  | f64OtherArithmetic (sy : Sync) (op : F64Op) (o : WOp)
  | vcvtF64 (sy : Sync) (op : Cvt64) (vd va : BitVec 7) (rm : RmSel) (pg : BitVec 4)
  | f64Elementary (sy : Sync) (fn : Fn) (o : WOp)
  | i64Arithmetic (sy : Sync) (op : I64Op) (o : WOp)
  -- cuff attention, peers (R249, R250, R260, R263)
  | qpost (sy : Sync) (qa : BitVec 7) (ik il : BitVec 4) (q : BitVec 3)
  | kapp (sy : Sync) (o : XOp) (ij : BitVec 4)
  | xfer (sy : Sync) (o : XOp) (ip : BitVec 4)
  | rsig (sy : Sync) (sem : BitVec 8) (inc : BitVec 2) (ip : BitVec 4)
  -- steps of the units on their own
  | wordRetire (u : SeqId)
  | copyEngineStart (m : Nat)
  | nOperationPerform (k : Nat)
  | kappWriteThrough (k : Nat)
  | bankScanComplete (qid bank : Nat) (ecc : EccOutcome)
  | triplePush (qid : Nat)
  | pAccessReceive (a : PAccess)
  | peerPageInstall (asid : BitVec 12) (va : Word) (bytes : List Byte) (ages : List Nat)
  | pinEnd (asid : BitVec 12) (va : Word)
  | waitTimeout (u : UnitId)
  | wfeTimer
  | trapDelivery (u : SeqId)
  | launchRecordRead (q : Nat)
  | taskDispatch (core region : Nat)
  | cLaunchStart (launch : Nat)
  | checkStartDelay
  | priorityPreemption
  | contextSave
  -- host and device registers
  | qtailWrite (q : Nat) (v : Word)
  | registerWrite (off : Nat) (v : Word) (trusted : Bool)
  | sealFrames (v : Word) (trusted : Bool)
  | unsealFrames (v : Word) (trusted : Bool)
  | sealcmdDone
  | tlbInvalidate (v : Word)
  | tlbInvalidateDone
  | swapPair (v : Word) (trusted : Bool)
  | swapLineExchange
  | swapPairDone
  | pgdone (v : Word) (trusted : Bool)
  | elogtailWrite (v : Word)
  | firmwareLoad (v : Word) (trusted : Bool)
  | firmwareVerifyDone (result : Nat)
  | seamcfgWrite (v : Word) (trusted : Bool)
  | localAbortPassEnd
  | seamres (v : Word) (trusted : Bool)
  | pleatcfgWrite (stack : Nat) (v : Word) (trusted : Bool)
  | pleatInitDone (stack : Nat)
  | pleatScrubPass (stack : Nat)
  -- the Seam (R338 to R346)
  | opening (m : SeamMsg) | vote (m : SeamMsg) | decision (m : SeamMsg) | query (m : SeamMsg)
  | seamVoteTimer | decisionTimeout | twaitDeadline | windowWrapTimer
  -- links (R374, R375, R323)
  | flitReceive (port : Nat) (seqno : BitVec 12) (crcOk : Bool) (m : LinkMsg)
  | flitReplay (port : Nat) (expected : BitVec 12)
  | portRetrain (port : Nat) (ok : Bool)
  | laneRetired (port lane : Nat)
  | peerTimeout (u : UnitId)
  | peerLost (rank : Nat)
  | keyUpdate (port : Nat) (sending : Bool)
  -- security and management controller (R324 to R326)
  | spdmRequest (r : SpdmReq)
  | lockInterface | getDeviceInterfaceReport | getDeviceInterfaceState | startInterface | stopInterface | sealedTeardownDone
  | hostMemoryRead (addr : HostAddr) (n : Nat) (trusted : Bool)
  | hostMemoryWrite (addr : HostAddr) (bytes : List Byte) (trusted : Bool)
  -- memory and machine events (R376 to R381)
  | refresh (stack bank row : Nat)
  | patrolScrub (word : Nat) (ecc : EccOutcome)
  | selfTest (t : TestUnit) (r : TestResult)
  | thermal (celsius : Nat)
  | power
  | firmware
  | reset
  | insnIllegal (u : UnitId) (w : Word)
  | eviction (l1 : Bool) (line : Nat)
  | farTierWriteForward
  | stackTemperatureChange (stack : Nat) (hot : Bool)
  | firmwareReady
  | portLinkUp (port : Nat)
  | ideKmRequest (stream : Nat) (enable : Bool)
  deriving DecidableEq, Repr

end Sys2Proof
end

