-- ==== Sys2Proof/WellFormed.lean ====
section
/-! DEFINITION. Which terms of `Instr` stand for a word: what the encodings of R21 to R37 and the variant tables can
hold. An ill-formed term has no word of its own; the decoder never yields one. -/

namespace Sys2Proof

/-- The type has a 4-bit type code (R34). -/
def Ty.coded : Ty → Bool
  | .f64 | .i64 | .n64 => false
  | _ => true

/-- The rounding field of a scalar word holds no SRD (R79, R130). -/
def RmSel.scalarOk : RmSel → Bool
  | .stat .srd => false
  | _ => true

/-- AMO FADD, FMIN and FMAX exist at size 32 only (R230). -/
def AmoOp.narrowOnly : AmoOp → Bool
  | .fadd | .fmin | .fmax => true
  | _ => false

/-- Whether an 0xDC sub-code writes a predicate and so uses the pd layout (R159). -/
def F64Op.isCmp : F64Op → Bool
  | .cmpeq | .cmpne | .cmplt | .cmple | .cmpun => true
  | _ => false

/-- Whether an 0xDC sub-code has no vb operand. -/
def F64Op.isUnary : F64Op → Bool
  | .abs | .neg | .redsum | .redmax | .redmin | .scan => true
  | _ => false

/-- Whether an 0xDF sub-code writes a predicate. -/
def I64Op.isCmp : I64Op → Bool
  | .cmplt | .cmpltu | .cmpeq => true
  | _ => false

/-- Whether an 0xDD sub-code may round; sub-codes 6 to 9 never round (R159). -/
def Cvt64.rounds : Cvt64 → Bool
  | .i64i32 | .n64n32 | .i32i64 | .n32n64 => false
  | _ => true

/-- A predicate destination sits in the low four bits of the vd field (R138). -/
def pdField (vd : BitVec 7) : Bool := decide (vd.toNat < 16)

/-- The terms that a word of the T9 can hold. A step of the device on its own has no word: it is well-formed
whatever it carries. -/
def Instr.wellFormed : Instr → Bool
  | .fadd _ _ _ _ rm | .fsub _ _ _ _ rm | .fmul _ _ _ _ rm | .fdiv _ _ _ _ rm => rm.scalarOk
  | .fsqrt _ _ _ rm => rm.scalarOk
  | .fcvt _ _ _ _ rm => rm.scalarOk
  | .fma _ _ _ _ _ rm | .fms _ _ _ _ _ rm | .fnma _ _ _ _ _ rm | .fnms _ _ _ _ _ rm => rm.scalarOk
  | .amo op _ _ _ wide => !(op.narrowOnly && wide)
  | .redst _ _ _ ty | .nmadd _ _ ty | .nmmin _ _ ty | .nmmax _ _ ty => ty.coded
  | .gset _ _ .pos ia => ia == 0
  | .bcopy _ o => o.ac == 0
  | .mdrain _ o => o.t.coded
  | .vadd _ o | .vsub _ o | .vmul _ o | .vfma _ o | .vfms _ o | .vfnma _ o | .vmin _ o | .vmax _ o
  | .vsadd _ o | .vssub _ o | .vmulh _ o | .vclamp _ o | .vcpsgn _ o | .vand _ o | .vor _ o | .vxor _ o
  | .vsll _ o | .vsrl _ o | .vsra _ o | .vperm _ o | .vslide _ o | .vsel _ o | .vsort _ o | .vtopk _ o
  | .vdiv _ o | .vdiva _ o => o.ty.coded
  | .vabs _ o | .vneg _ o | .vnot _ o | .vpopc _ o | .vmov _ o | .vbcast _ o _ | .vredsum _ o | .vredmax _ o
  | .vredmin _ o | .vscan _ o | .vcompact _ o | .vexp _ o | .vexp2 _ o | .vexpm1 _ o | .vlog _ o | .vlog2 _ o
  | .vlog1p _ o | .vrcp _ o | .vrsqrt _ o | .vsqrt _ o | .vsin _ o | .vcos _ o | .vtanh _ o | .verf _ o
  | .vsigm _ o | .vexpa _ o | .vexp2a _ o | .vexpm1a _ o | .vloga _ o | .vlog2a _ o | .vlog1pa _ o
  | .vrcpa _ o | .vrsqrta _ o | .vsqrta _ o | .vsina _ o | .vcosa _ o | .vtanha _ o | .verfa _ o
  | .vsigma _ o => o.ty.coded
  | .vcmpeq _ o | .vcmpne _ o | .vcmplt _ o | .vcmple _ o | .vcmpun _ o => o.ty.coded
  | .pset _ ty _ _ | .pcnt _ ty _ _ _ | .pfirst _ ty _ _ _ => ty.coded
  | .vcvt _ o | .vquant _ o => o.d.coded && o.s.coded
  | .viota _ ty _ _ _ | .vrand _ ty _ _ _ _ | .vroute _ ty _ _ _ _ | .vchk _ ty _ _ _ _ => ty.coded
  | .f64OtherArithmetic _ op o => (!op.isCmp || pdField o.vd) && (!op.isUnary || o.vb == 0)
  | .vcvtF64 _ op _ _ rm _ => op.rounds || decide (rm = .stat .rne)
  | .f64Elementary _ fn o => decide (fn = .div) || o.vb == 0
  | .i64Arithmetic _ op o => !op.isCmp || pdField o.vd
  | _ => true

/-- The words of 32 bits (R21). -/
def Instr.isScalar : Instr → Bool
  | .add .. | .sub .. | .mul .. | .mulh .. | .mulhu .. | .div .. | .divu .. | .rem .. | .remu .. | .and .. | .or ..
  | .xor .. | .sll .. | .srl .. | .sra .. | .slt .. | .sltu .. | .min .. | .max .. | .minu .. | .maxu .. | .addi ..
  | .andi .. | .ori .. | .xori .. | .slti .. | .slli .. | .srli .. | .srai .. | .adpc .. | .lih .. | .fadd .. | .fsub ..
  | .fmul .. | .fdiv .. | .fsqrt .. | .fmin .. | .fmax .. | .fcmp .. | .fcvt .. | .fclass .. | .fma .. | .fms ..
  | .fnma .. | .fnms .. | .beq .. | .bne .. | .blt .. | .bge .. | .bltu .. | .bgeu .. | .jal .. | .jalr .. | .ld ..
  | .ldz .. | .st .. | .cinv .. | .amo .. | .cas .. | .fence .. | .fencex .. | .cbind .. | .cunb .. | .cacq ..
  | .ctry .. | .crel .. | .rwin .. | .rwinCancel .. | .redst .. | .nmadd .. | .nmmin .. | .nmmax .. | .nmfen
  | .ecmd .. | .efen .. | .eflush .. | .toks .. | .tokr .. | .ssig .. | .swait .. | .srd .. | .sset .. | .semcfg ..
  | .wfe .. | .spawn .. | .join .. | .ndone .. | .yield | .texit | .tbegin .. | .tflag .. | .pflush | .svote ..
  | .twait .. | .tstat .. | .csrr .. | .csrw .. | .trap .. | .tret | .tretSkip | .pgreq .. => true
  | _ => false

/-- The synchronisation fields of an engine word (R22); none for any other step. -/
def Instr.sync? : Instr → Option Sync
  | .enop y | .estop y | .ejmp y _ | .ebr y _ _ _ _ | .eloop y _ _ | .loop y _ _ | .iset y _ _ | .iadd y _ _
  | .ild y _ _ _ | .rbset y _ _ | .gcfg y _ _ _ | .gset y _ _ _ | .lds y _ | .sts y _ | .mcast y _ | .bcopy y _
  | .gath y _ | .scat y _ | .redstEngine y _ _ | .nmaddEngine y _ | .nmminEngine y _ | .nmmaxEngine y _
  | .nmfenEngine y | .fencexEngine y _ _ _ | .mwld y _ _ _ _ | .mmaF y _ | .mmaB y _ | .mmaG y _ | .mdrain y _
  | .mzero y _ _ | .msave y _ _ | .mrest y _ _ | .vadd y _ | .vsub y _ | .vmul y _ | .vfma y _ | .vfms y _
  | .vfnma y _ | .vmin y _ | .vmax y _ | .vabs y _ | .vneg y _ | .vsadd y _ | .vssub y _ | .vmulh y _ | .vclamp y _
  | .vcpsgn y _ | .vand y _ | .vor y _ | .vxor y _ | .vnot y _ | .vsll y _ | .vsrl y _ | .vsra y _ | .vpopc y _
  | .vcmpeq y _ | .vcmpne y _ | .vcmplt y _ | .vcmple y _ | .vcmpun y _ | .pand y _ _ _ | .por y _ _ _ | .pxor y _ _ _
  | .pnot y _ _ | .pset y _ _ _ | .pcnt y _ _ _ _ | .pfirst y _ _ _ _ | .vcvt y _ | .vquant y _ | .vmov y _
  | .vbcast y _ _ | .vperm y _ | .vslide y _ | .vsel y _ | .vredsum y _ | .vredmax y _ | .vredmin y _ | .vscan y _
  | .vsort y _ | .vtopk y _ | .vcompact y _ | .viota y _ _ _ _ | .vrand y _ _ _ _ _ | .vroute y _ _ _ _ _
  | .vchk y _ _ _ _ _ | .vflg y _ _ _ | .vsmrg y _ _ _ | .vexp y _ | .vexp2 y _ | .vexpm1 y _ | .vlog y _ | .vlog2 y _
  | .vlog1p y _ | .vrcp y _ | .vrsqrt y _ | .vsqrt y _ | .vdiv y _ | .vsin y _ | .vcos y _ | .vtanh y _ | .verf y _
  | .vsigm y _ | .vexpa y _ | .vexp2a y _ | .vexpm1a y _ | .vloga y _ | .vlog2a y _ | .vlog1pa y _ | .vrcpa y _
  | .vrsqrta y _ | .vsqrta y _ | .vdiva y _ | .vsina y _ | .vcosa y _ | .vtanha y _ | .verfa y _ | .vsigma y _
  | .vaddF64 y _ | .vsubF64 y _ | .vmulF64 y _ | .vfmaF64 y _ | .f64OtherArithmetic y _ _ | .vcvtF64 y _ _ _ _ _
  | .f64Elementary y _ _ | .i64Arithmetic y _ _ | .qpost y _ _ _ _ | .kapp y _ _ | .xfer y _ _ | .rsig y _ _ _ => some y
  | _ => none

end Sys2Proof
end

