-- ==== Sys2Proof/Decode.lean ====
section
/-! DEFINITION. The decoder of scalar words (R21, R35) and engine words (R22, R36), total on every bit pattern and
refusing by name what no variant table lists (R37), and the encoder written from the same tables. A word is read as a
number with bit 0 the least significant (R3). -/

namespace Sys2Proof

/-- Why a bit pattern is no instruction (R37). -/
inductive DecodeError where
  /-- the opcode is not assigned -/
  | opcode
  /-- an fn value, sub-code or field value that the variant table does not list -/
  | code
  /-- a reserved bit is set -/
  | reserved
  /-- fewer bytes than the word has -/
  | short
  deriving DecidableEq, Repr

/-- Bits [lo+n-1:lo] of a number. -/
def fld (w lo n : Nat) : Nat := w / 2 ^ lo % 2 ^ n

/-- Bits [lo+n-1:lo] of a number, as a field. -/
def bf (n lo w : Nat) : BitVec n := BitVec.ofNat n (w / 2 ^ lo)

/-- Bit lo of a number. -/
def bit (w lo : Nat) : Bool := w / 2 ^ lo % 2 == 1

/-- 1 for true. -/
def ofBit (b : Bool) : Nat := if b then 1 else 0

/-- Answers the instruction when the reserved bits are zero (R37). -/
def need (c : Bool) (i : Instr) : Except DecodeError Instr := if c then .ok i else .error .reserved

/-! ### Codes of the fields -/

/-- Type codes (R34); the 64-bit types have none and are given 0. -/
def Ty.code : Ty → Nat
  | .i4 => 0 | .n4 => 1 | .i8 => 2 | .n8 => 3 | .i16 => 4 | .n16 => 5 | .i32 => 6 | .n32 => 7
  | .e2m1 => 8 | .e3m2 => 9 | .e2m3 => 10 | .e4m3 => 11 | .e5m2 => 12 | .f16 => 13 | .bf16 => 14 | .f32 => 15
  | .f64 | .i64 | .n64 => 0

/-- The type of a type code (R34). -/
def tyOf : Nat → Ty
  | 0 => .i4 | 1 => .n4 | 2 => .i8 | 3 => .n8 | 4 => .i16 | 5 => .n16 | 6 => .i32 | 7 => .n32
  | 8 => .e2m1 | 9 => .e3m2 | 10 => .e2m3 | 11 => .e4m3 | 12 => .e5m2 | 13 => .f16 | 14 => .bf16 | _ => .f32

/-- Codes of the scalar value types (R129). -/
def STy.code : STy → Nat
  | .f32 => 0 | .f64 => 1 | .bf16 => 2 | .f16 => 3 | .i32 => 4 | .n32 => 5 | .i64 => 6 | .n64 => 7

/-- See `STy.code`. -/
def styOf : Nat → STy
  | 0 => .f32 | 1 => .f64 | 2 => .bf16 | 3 => .f16 | 4 => .i32 | 5 => .n32 | 6 => .i64 | _ => .n64

/-- P of a scalar floating word (R130). -/
def FP.code : FP → Nat
  | .f32 => 0 | .f64 => 1

/-- See `FP.code`. -/
def fpOf : Nat → FP
  | 0 => .f32 | _ => .f64

/-- Codes of the rounding field (R130, R141). -/
def RmSel.code : RmSel → Nat
  | .stat .rne => 0 | .stat .rtz => 1 | .stat .rup => 2 | .stat .rdn => 3 | .stat .rna => 4 | .stat .srd => 5 | .dyn => 7

/-- The rounding field of a word that admits SRD: 6 is not listed (R141, R195). -/
def rmOf : Nat → Option RmSel
  | 0 => some (.stat .rne) | 1 => some (.stat .rtz) | 2 => some (.stat .rup) | 3 => some (.stat .rdn)
  | 4 => some (.stat .rna) | 5 => some (.stat .srd) | 7 => some .dyn | _ => none

/-- The rounding field of a scalar word: 5 and 6 are not listed (R130). -/
def rmScalarOf : Nat → Option RmSel
  | 0 => some (.stat .rne) | 1 => some (.stat .rtz) | 2 => some (.stat .rup) | 3 => some (.stat .rdn)
  | 4 => some (.stat .rna) | 7 => some .dyn | _ => none

/-- Codes of FCMP's condition (R130). -/
def FCond.code : FCond → Nat
  | .eq => 0 | .ne => 1 | .lt => 2 | .le => 3 | .un => 4

/-- See `FCond.code`. -/
def fcondOf : Nat → Option FCond
  | 0 => some .eq | 1 => some .ne | 2 => some .lt | 3 => some .le | 4 => some .un | _ => none

/-- Codes of EBR's condition (R50). -/
def ECond.code : ECond → Nat
  | .eq => 0 | .ne => 1 | .lt => 2 | .ge => 3 | .ltu => 4 | .geu => 5

/-- See `ECond.code`. -/
def econdOf : Nat → Option ECond
  | 0 => some .eq | 1 => some .ne | 2 => some .lt | 3 => some .ge | 4 => some .ltu | 5 => some .geu | _ => none

/-- Size codes (R116). -/
def MSize.code : MSize → Nat
  | .b8 => 0 | .b16 => 1 | .b32 => 2 | .b64 => 3

/-- See `MSize.code`. -/
def sizeOf' : Nat → Option MSize
  | 0 => some .b8 | 1 => some .b16 | 2 => some .b32 | 3 => some .b64 | _ => none

/-- Policy codes (R116). -/
def Policy.code : Policy → Nat
  | .d => 0 | .b => 1 | .s => 2 | .u => 3

/-- See `Policy.code`. -/
def policyOf : Nat → Policy
  | 0 => .d | 1 => .b | 2 => .s | _ => .u

/-- AMO op codes (R230). -/
def AmoOp.code : AmoOp → Nat
  | .swap => 0 | .add => 1 | .and => 2 | .or => 3 | .xor => 4 | .min => 5 | .max => 6 | .minu => 7 | .maxu => 8
  | .fadd => 9 | .fmin => 10 | .fmax => 11

/-- See `AmoOp.code`. -/
def amoOf : Nat → Option AmoOp
  | 0 => some .swap | 1 => some .add | 2 => some .and | 3 => some .or | 4 => some .xor | 5 => some .min
  | 6 => some .max | 7 => some .minu | 8 => some .maxu | 9 => some .fadd | 10 => some .fmin | 11 => some .fmax
  | _ => none

/-- Path codes (R215). -/
def Path.code : Path → Nat
  | .x => 0 | .l => 1 | .s => 2 | .e => 3 | .n => 4 | .q => 5 | .p => 6 | .h => 7

/-- See `Path.code`. -/
def pathOf : Nat → Path
  | 0 => .x | 1 => .l | 2 => .s | 3 => .e | 4 => .n | 5 => .q | 6 => .p | _ => .h

/-- Scope codes (R215). -/
def Scope.code : Scope → Nat
  | .core => 0 | .cluster => 1 | .die => 2 | .package => 3 | .system => 4

/-- See `Scope.code`; codes 5 to 7 are illegal. -/
def scopeOf : Nat → Option Scope
  | 0 => some .core | 1 => some .cluster | 2 => some .die | 3 => some .package | 4 => some .system | _ => none

/-- GSET field codes (R108). -/
def GField.code : GField → Nat
  | .base => 0 | .sbase => 1 | .n0 => 2 | .n1 => 3 | .n2 => 4 | .n3 => 5 | .s0 => 6 | .s1 => 7 | .s2 => 8 | .s3 => 9
  | .sstr => 10 | .swz => 11 | .dir => 12 | .pos => 13

/-- See `GField.code`; 14 and 15 are illegal. -/
def gfieldOf : Nat → Option GField
  | 0 => some .base | 1 => some .sbase | 2 => some .n0 | 3 => some .n1 | 4 => some .n2 | 5 => some .n3
  | 6 => some .s0 | 7 => some .s1 | 8 => some .s2 | 9 => some .s3 | 10 => some .sstr | 11 => some .swz
  | 12 => some .dir | 13 => some .pos | _ => none

/-- Target codes of MSAVE and MREST (R197). -/
def MTgt.code : MTgt → Nat
  | .a0 => 0 | .a1 => 1 | .a2 => 2 | .a3 => 3 | .gp => 4 | .wp => 5

/-- See `MTgt.code`. -/
def mtgtOf : Nat → Option MTgt
  | 0 => some .a0 | 1 => some .a1 | 2 => some .a2 | 3 => some .a3 | 4 => some .gp | 5 => some .wp | _ => none

/-- Head dimension codes (R158). -/
def HeadDim.code : HeadDim → Nat
  | .d64 => 0 | .d128 => 1 | .d256 => 2

/-- See `HeadDim.code`. -/
def headDimOf : Nat → Option HeadDim
  | 0 => some .d64 | 1 => some .d128 | 2 => some .d256 | _ => none

/-- VFLG selector codes (R156). -/
def FlagSel.code : FlagSel → Nat
  | .nx => 0 | .uf => 1 | .of => 2 | .dz => 3 | .nv => 4 | .any => 5

/-- See `FlagSel.code`. -/
def flagSelOf : Nat → Option FlagSel
  | 0 => some .nx | 1 => some .uf | 2 => some .of | 3 => some .dz | 4 => some .nv | 5 => some .any | _ => none

/-- Sub-codes at 0xDC (R159). -/
def F64Op.code : F64Op → Nat
  | .min => 0 | .max => 1 | .abs => 2 | .neg => 3 | .cmpeq => 4 | .cmpne => 5 | .cmplt => 6 | .cmple => 7 | .cmpun => 8
  | .redsum => 9 | .redmax => 10 | .redmin => 11 | .scan => 12

/-- See `F64Op.code`. -/
def f64OpOf : Nat → Option F64Op
  | 0 => some .min | 1 => some .max | 2 => some .abs | 3 => some .neg | 4 => some .cmpeq | 5 => some .cmpne
  | 6 => some .cmplt | 7 => some .cmple | 8 => some .cmpun | 9 => some .redsum | 10 => some .redmax
  | 11 => some .redmin | 12 => some .scan | _ => none

/-- Sub-codes at 0xDD (R159). -/
def Cvt64.code : Cvt64 → Nat
  | .f64f32 => 0 | .f32f64 => 1 | .f64i64 => 2 | .f64n64 => 3 | .i64f64 => 4 | .n64f64 => 5 | .i64i32 => 6
  | .n64n32 => 7 | .i32i64 => 8 | .n32n64 => 9

/-- See `Cvt64.code`. -/
def cvt64Of : Nat → Option Cvt64
  | 0 => some .f64f32 | 1 => some .f32f64 | 2 => some .f64i64 | 3 => some .f64n64 | 4 => some .i64f64
  | 5 => some .n64f64 | 6 => some .i64i32 | 7 => some .n64n32 | 8 => some .i32i64 | 9 => some .n32n64 | _ => none

/-- Sub-codes at 0xDE (R160). -/
def Fn.code : Fn → Nat
  | .exp => 0 | .exp2 => 1 | .expm1 => 2 | .log => 3 | .log2 => 4 | .log1p => 5 | .rcp => 6 | .rsqrt => 7 | .sqrt => 8
  | .div => 9 | .sin => 10 | .cos => 11 | .tanh => 12 | .erf => 13 | .sigm => 14

/-- See `Fn.code`; 15 is illegal. -/
def fnOf : Nat → Option Fn
  | 0 => some .exp | 1 => some .exp2 | 2 => some .expm1 | 3 => some .log | 4 => some .log2 | 5 => some .log1p
  | 6 => some .rcp | 7 => some .rsqrt | 8 => some .sqrt | 9 => some .div | 10 => some .sin | 11 => some .cos
  | 12 => some .tanh | 13 => some .erf | 14 => some .sigm | _ => none

/-- Sub-codes at 0xDF (R159). -/
def I64Op.code : I64Op → Nat
  | .add => 0 | .sub => 1 | .mul => 2 | .min => 3 | .max => 4 | .minu => 5 | .maxu => 6 | .and => 7 | .or => 8
  | .xor => 9 | .sll => 10 | .srl => 11 | .sra => 12 | .cmplt => 13 | .cmpltu => 14 | .cmpeq => 15

/-- See `I64Op.code`. -/
def i64OpOf : Nat → I64Op
  | 0 => .add | 1 => .sub | 2 => .mul | 3 => .min | 4 => .max | 5 => .minu | 6 => .maxu | 7 => .and | 8 => .or
  | 9 => .xor | 10 => .sll | 11 => .srl | 12 => .sra | 13 => .cmplt | 14 => .cmpltu | _ => .cmpeq

/-! ### Scalar words -/

/-- Opcode 0x00 (R124). -/
def decodeXA0 (d a b : BitVec 5) : Nat → Except DecodeError Instr
  | 0 => .ok (.add d a b) | 1 => .ok (.sub d a b) | 2 => .ok (.mul d a b) | 3 => .ok (.mulh d a b)
  | 4 => .ok (.mulhu d a b) | 5 => .ok (.div d a b) | 6 => .ok (.divu d a b) | 7 => .ok (.rem d a b)
  | 8 => .ok (.remu d a b) | 9 => .ok (.and d a b) | 10 => .ok (.or d a b) | 11 => .ok (.xor d a b)
  | 12 => .ok (.sll d a b) | 13 => .ok (.srl d a b) | 14 => .ok (.sra d a b) | 15 => .ok (.slt d a b)
  | 16 => .ok (.sltu d a b) | 17 => .ok (.min d a b) | 18 => .ok (.max d a b) | 19 => .ok (.minu d a b)
  | 20 => .ok (.maxu d a b) | _ => .error .code

/-- Opcode 0x06 (R127). -/
def decodeShiftImm (w : Nat) (d a : BitVec 5) : Except DecodeError Instr :=
  let sh := bf 6 0 w
  match fld w 6 2 with
  | 0 => need (fld w 8 8 == 0) (.slli d a sh)
  | 1 => need (fld w 8 8 == 0) (.srli d a sh)
  | 2 => need (fld w 8 8 == 0) (.srai d a sh)
  | _ => .error .code

/-- Opcode 0x08 (R130, R131). -/
def decodeFloat (w : Nat) (d a b : BitVec 5) : Except DecodeError Instr :=
  let p := fpOf (fld w 0 1)
  let rmN := fld w 4 3
  let pOk := fld w 1 3 == 0
  let bOk := b == 0
  match fld w 7 4 with
  | 0 => match rmScalarOf rmN with | some r => need pOk (.fadd d a b p r) | none => .error .code
  | 1 => match rmScalarOf rmN with | some r => need pOk (.fsub d a b p r) | none => .error .code
  | 2 => match rmScalarOf rmN with | some r => need pOk (.fmul d a b p r) | none => .error .code
  | 3 => match rmScalarOf rmN with | some r => need pOk (.fdiv d a b p r) | none => .error .code
  | 4 => match rmScalarOf rmN with | some r => need (pOk && bOk) (.fsqrt d a p r) | none => .error .code
  | 5 => need (pOk && rmN == 0) (.fmin d a b p)
  | 6 => need (pOk && rmN == 0) (.fmax d a b p)
  | 7 => match fcondOf (fld w 1 3) with | some c => need (rmN == 0) (.fcmp d a b p c) | none => .error .code
  | 8 => match rmScalarOf rmN with
    | some r => need (fld w 3 1 == 0 && fld w 14 2 == 0) (.fcvt d a (styOf (fld w 11 3)) (styOf (fld w 0 3)) r)
    | none => .error .code
  | 9 => need (pOk && rmN == 0 && bOk) (.fclass d a p)
  | _ => .error .code

/-- Opcode 0x09 (R132). -/
def decodeFma (w : Nat) (d a b : BitVec 5) : Except DecodeError Instr :=
  let c := bf 5 6 w
  let p := fpOf (fld w 0 1)
  match rmScalarOf (fld w 1 3), fld w 4 2 with
  | some r, 0 => .ok (.fma d a b c p r)
  | some r, 1 => .ok (.fms d a b c p r)
  | some r, 2 => .ok (.fnma d a b c p r)
  | some r, _ => .ok (.fnms d a b c p r)
  | none, _ => .error .code

/-- Opcodes 0x18 to 0x1B (R116, R118). -/
def decodeMem (op w : Nat) (d a : BitVec 5) : Except DecodeError Instr :=
  let off := bf 11 0 w
  let pol := policyOf (fld w 11 2)
  match op, sizeOf' (fld w 13 3) with
  | 0x18, some sz => .ok (.ld d a sz pol off)
  | 0x19, some sz => .ok (.ldz d a sz pol off)
  | 0x1A, some sz => .ok (.st d a sz pol off)
  | 0x1B, _ => if fld w 11 5 == 0 then .ok (.cinv d a off) else .error .code
  | _, _ => .error .code

/-- Opcode 0x24 (R234). -/
def decodeClasp (w : Nat) (d a b : BitVec 5) : Except DecodeError Instr :=
  let z := fld w 0 8 == 0
  match fld w 8 3 with
  | 0 => need z (.cbind d a b)
  | 1 => need (z && d == 0) (.cunb a b)
  | 2 => need (z && d == 0 && b == 0) (.cacq a)
  | 3 => need (z && b == 0) (.ctry d a)
  | 4 => need (z && d == 0 && b == 0) (.crel a)
  | _ => .error .code

/-- Opcode 0x27 (R245). -/
def decodeNm (w : Nat) (d a b : BitVec 5) : Except DecodeError Instr :=
  let z := fld w 4 4 == 0 && d == 0
  let ty := tyOf (fld w 0 4)
  match fld w 8 3 with
  | 0 => need z (.nmadd a b ty)
  | 1 => need z (.nmmin a b ty)
  | 2 => need z (.nmmax a b ty)
  | 3 => need (z && a == 0 && b == 0 && fld w 0 4 == 0) .nmfen
  | _ => .error .code

/-- Opcodes 0x28 to 0x34 (R45 to R48, R291). -/
def decodeSched (op w : Nat) (d a b : BitVec 5) : Except DecodeError Instr :=
  let fn0 := fld w 0 11 == 0
  let sem := bf 8 0 w
  match op with
  | 0x28 => need fn0 (.ecmd d a b)
  | 0x29 => need (d == 0 && a == 0 && fld w 3 13 == 0) (.efen (bf 3 0 w))
  | 0x2A => need (d == 0 && a == 0 && fld w 3 13 == 0) (.eflush (bf 3 0 w))
  | 0x2B =>
    match fld w 8 3 with
    | 0 => need (d == 0 && a == 0 && b == 0 && fld w 2 6 == 0) (.toks (bf 2 0 w))
    | 1 => need (d == 0 && a == 0 && b == 0 && fld w 2 6 == 0) (.tokr (bf 2 0 w))
    | _ => .error .code
  | 0x2C => need (d == 0) (.ssig a (bf 8 8 w) sem)
  | 0x2D => need (d == 0 && a == 0) (.swait (bf 8 8 w) sem)
  | 0x2E =>
    match fld w 8 3 with
    | 0 => need (a == 0 && b == 0) (.srd d sem)
    | 1 => need (d == 0 && b == 0) (.sset a sem)
    | 2 => need (d == 0 && b == 0) (.semcfg a sem)
    | _ => .error .code
  | 0x2F => need (fld w 6 10 == 0) (.wfe d a (bf 6 0 w))
  | 0x30 => need (d == 0 && b == 0 && fn0) (.spawn a)
  | 0x31 => need (d == 0 && b == 0 && fn0) (.join a)
  | 0x32 => need (d == 0 && fn0) (.ndone a b)
  | 0x33 => need (d == 0 && a == 0 && b == 0 && fn0) .yield
  | 0x34 => need (d == 0 && a == 0 && b == 0 && fn0) .texit
  | _ => .error .opcode

/-- Opcodes 0x38 to 0x3F (R350, R368 to R370). -/
def decodeSys (op w : Nat) (d a b : BitVec 5) : Except DecodeError Instr :=
  let fn0 := fld w 0 11 == 0
  let lo0 := fld w 0 8 == 0
  match op with
  | 0x38 => need (a == 0 && b == 0 && fn0) (.tbegin d)
  | 0x39 => need (d == 0 && fn0) (.tflag a b)
  | 0x3A => need (d == 0 && a == 0 && b == 0 && fn0) .pflush
  | 0x3B =>
    match fld w 8 3 with
    | 0 => need (d == 0 && lo0) (.svote a b)
    | 1 => need (b == 0 && lo0) (.twait d a)
    | 2 => need (a == 0 && b == 0 && lo0) (.tstat d)
    | _ => .error .code
  | 0x3C => need (a == 0 && fld w 12 4 == 0) (.csrr d (bf 12 0 w))
  | 0x3D => need (d == 0 && fld w 12 4 == 0) (.csrw (bf 12 0 w) a)
  | 0x3E =>
    match fld w 8 3 with
    | 0 => need (d == 0 && a == 0 && b == 0) (.trap (bf 8 0 w))
    | 1 => need (d == 0 && a == 0 && b == 0 && lo0) .tret
    | 2 => need (d == 0 && a == 0 && b == 0 && lo0) .tretSkip
    | _ => .error .code
  | 0x3F => need fn0 (.pgreq d a b)
  | _ => .error .opcode

/-- Opcodes 0x20 to 0x26 (R230, R232, R234, R237, R239). -/
def decodeAtomic (op w : Nat) (d a b : BitVec 5) : Except DecodeError Instr :=
  match op with
  | 0x20 =>
    match amoOf (fld w 7 4) with
    | some o => if o.narrowOnly && bit w 6 then .error .code else need (fld w 0 6 == 0) (.amo o d a b (bit w 6))
    | none => .error .code
  | 0x21 => if fld w 7 4 == 0 then need (fld w 0 6 == 0) (.cas d a b (bit w 6)) else .error .code
  | 0x22 =>
    match scopeOf (fld w 0 3) with
    | some s => need (d == 0 && a == 0 && fld w 3 13 == 0) (.fence s)
    | none => .error .code
  | 0x23 =>
    match scopeOf (fld w 0 3) with
    | some s => need (d == 0 && a == 0 && fld w 9 7 == 0) (.fencex (pathOf (fld w 6 3)) (pathOf (fld w 3 3)) s)
    | none => .error .code
  | 0x24 => decodeClasp w d a b
  | 0x25 =>
    match fld w 8 3 with
    | 0 => need (fld w 0 8 == 0) (.rwin d a b)
    | 1 => need (fld w 0 8 == 0 && d == 0 && b == 0) (.rwinCancel a)
    | _ => .error .code
  | 0x26 => need (fld w 4 7 == 0) (.redst d a b (tyOf (fld w 0 4)))
  | 0x27 => decodeNm w d a b
  | _ => .error .opcode

/-- A scalar word (R21, R35). -/
def decodeScalar (w : Nat) : Except DecodeError Instr :=
  let d := bf 5 21 w
  let a := bf 5 16 w
  let b := bf 5 11 w
  let imm := bf 16 0 w
  let op := fld w 26 6
  match op with
  | 0x00 => decodeXA0 d a b (fld w 0 11)
  | 0x01 => .ok (.addi d a imm)
  | 0x02 => .ok (.andi d a imm)
  | 0x03 => .ok (.ori d a imm)
  | 0x04 => .ok (.xori d a imm)
  | 0x05 => .ok (.slti d a imm)
  | 0x06 => decodeShiftImm w d a
  | 0x07 => .ok (.adpc d (bf 21 0 w))
  | 0x08 => decodeFloat w d a b
  | 0x09 => decodeFma w d a b
  | 0x0A => .ok (.lih d (bf 21 0 w))
  | 0x10 => .ok (.beq d a imm)
  | 0x11 => .ok (.bne d a imm)
  | 0x12 => .ok (.blt d a imm)
  | 0x13 => .ok (.bge d a imm)
  | 0x14 => .ok (.bltu d a imm)
  | 0x15 => .ok (.bgeu d a imm)
  | 0x16 => .ok (.jal (bf 26 0 w))
  | 0x17 => .ok (.jalr d a imm)
  | 0x18 | 0x19 | 0x1A | 0x1B => decodeMem op w d a
  | 0x20 | 0x21 | 0x22 | 0x23 | 0x24 | 0x25 | 0x26 | 0x27 => decodeAtomic op w d a b
  | 0x28 | 0x29 | 0x2A | 0x2B | 0x2C | 0x2D | 0x2E | 0x2F | 0x30 | 0x31 | 0x32 | 0x33 | 0x34 => decodeSched op w d a b
  | 0x38 | 0x39 | 0x3A | 0x3B | 0x3C | 0x3D | 0x3E | 0x3F => decodeSys op w d a b
  | _ => .error .opcode

/-! ### Engine words -/

/-- The synchronisation fields (R22). -/
def decodeSync (w : Nat) : Sync :=
  { wthr := bf 5 51 w, wsem := bf 8 43 w, sinc := bf 2 41 w, ssem := bf 8 33 w, tki := bf 2 31 w, tko := bf 2 29 w }

/-- The vector operand layout (R23). -/
def decodeVOp (w : Nat) : VOp :=
  { ty := tyOf (fld w 25 4), vd := bf 7 18 w, va := bf 7 11 w, vb := bf 7 4 w, pg := bf 4 0 w }

/-- The vector operand layout without vb. -/
def decodeUOp (w : Nat) : UOp :=
  { ty := tyOf (fld w 25 4), vd := bf 7 18 w, va := bf 7 11 w, pg := bf 4 0 w }

/-- The layout of the 64-bit forms. -/
def decodeWOp (w : Nat) : WOp := { vd := bf 7 18 w, va := bf 7 11 w, vb := bf 7 4 w, pg := bf 4 0 w }

/-- The compare layout (R138). -/
def decodeCOp (w : Nat) : COp :=
  { ty := tyOf (fld w 25 4), pd := bf 4 18 w, va := bf 7 11 w, vb := bf 7 4 w, pg := bf 4 0 w }

/-- The transfer layout (R109). -/
def decodeXOp (w : Nat) : XOp := { f := bit w 28, ac := bf 4 24 w, d := bf 4 20 w, src := bf 5 15 w }

/-- The gather and scatter layout (R248). -/
def decodeGOp (w : Nat) : GOp := { f := bit w 28, ac := bf 4 24 w, d := bf 4 20 w, s := bf 4 16 w, x := bf 4 12 w }

/-- Opcodes 0x00 to 0x09 (R49 to R55). -/
def decodeSeqWord (op w : Nat) (y : Sync) : Except DecodeError Instr :=
  let i := bf 4 25 w
  match op with
  | 0x00 => need (fld w 0 29 == 0) (.enop y)
  | 0x01 => need (fld w 0 29 == 0) (.estop y)
  | 0x02 => .ok (.ejmp y (bf 29 0 w))
  | 0x03 =>
    match econdOf (fld w 26 3) with
    | some c => .ok (.ebr y c (bf 4 22 w) (bf 4 18 w) (bf 18 0 w))
    | none => .error .code
  | 0x04 => .ok (.eloop y i (bf 25 0 w))
  | 0x05 => .ok (.loop y i (bf 25 0 w))
  | 0x06 => .ok (.iset y i (bf 25 0 w))
  | 0x07 => .ok (.iadd y i (bf 25 0 w))
  | 0x08 => .ok (.ild y i (bf 4 21 w) (bf 21 0 w))
  | 0x09 => need (fld w 0 21 == 0) (.rbset y (bf 5 24 w) (bf 3 21 w))
  | _ => .error .opcode

/-- Opcodes 0x20 to 0x2B (R107 to R111, R232, R239, R245, R248). -/
def decodeTransfer (op w : Nat) (y : Sync) : Except DecodeError Instr :=
  let o := decodeXOp w
  let g := decodeGOp w
  match op with
  | 0x20 => .ok (.gcfg y (bf 4 25 w) (bf 4 21 w) (bf 21 0 w))
  | 0x21 =>
    match gfieldOf (fld w 21 4) with
    | some .pos => need (fld w 0 17 == 0 && fld w 17 4 == 0) (.gset y (bf 4 25 w) .pos 0)
    | some f => need (fld w 0 17 == 0) (.gset y (bf 4 25 w) f (bf 4 17 w))
    | none => .error .code
  | 0x22 => need (fld w 0 15 == 0) (.lds y o)
  | 0x23 => need (fld w 0 15 == 0) (.sts y o)
  | 0x24 => need (fld w 0 15 == 0) (.mcast y o)
  | 0x25 => need (fld w 0 15 == 0 && fld w 24 4 == 0) (.bcopy y o)
  | 0x26 => need (fld w 0 12 == 0) (.gath y g)
  | 0x27 => need (fld w 0 12 == 0) (.scat y g)
  | 0x28 => need (fld w 0 11 == 0) (.redstEngine y o (bf 4 11 w))
  | 0x29 =>
    match fld w 13 2 with
    | 0 => need (fld w 0 13 == 0) (.nmaddEngine y o)
    | 1 => need (fld w 0 13 == 0) (.nmminEngine y o)
    | 2 => need (fld w 0 13 == 0) (.nmmaxEngine y o)
    | _ => .error .code
  | 0x2A => need (fld w 0 29 == 0) (.nmfenEngine y)
  | 0x2B =>
    match scopeOf (fld w 20 3) with
    | some s => need (fld w 0 20 == 0) (.fencexEngine y (pathOf (fld w 26 3)) (pathOf (fld w 23 3)) s)
    | none => .error .code
  | _ => .error .opcode

/-- Opcodes 0x60 to 0x65 (R191 to R197). -/
def decodeMatrix (op w : Nat) (y : Sync) : Except DecodeError Instr :=
  let m : MmaOp := { ad := bf 2 25 w, ch := bit w 24, sa := bf 4 20 w, sb := bf 4 16 w, im := bf 4 12 w,
                     pr := bf 4 8 w, pd := bf 4 4 w, pc := bf 4 0 w }
  match op with
  | 0x60 => need (fld w 0 19 == 0) (.mwld y (bf 4 25 w) (bf 4 21 w) (bit w 20) (bit w 19))
  | 0x61 =>
    match fld w 27 2 with
    | 0 => .ok (.mmaF y m)
    | 1 => .ok (.mmaB y m)
    | 2 => .ok (.mmaG y m)
    | _ => .error .code
  | 0x62 =>
    match rmOf (fld w 11 3) with
    | some r => need (fld w 0 11 == 0)
        (.mdrain y { t := tyOf (fld w 25 4), as := bf 2 23 w, q := bf 3 20 w, ir := bf 4 16 w, z := bit w 15,
                     d64 := bit w 14, rm := r })
    | none => .error .code
  | 0x63 => need (fld w 0 23 == 0) (.mzero y (bf 5 24 w) (bit w 23))
  | 0x64 =>
    match mtgtOf (fld w 26 3) with
    | some t => need (fld w 0 19 == 0) (.msave y t (bf 7 19 w))
    | none => .error .code
  | 0x65 =>
    match mtgtOf (fld w 26 3) with
    | some t => need (fld w 0 19 == 0) (.mrest y t (bf 7 19 w))
    | none => .error .code
  | _ => .error .opcode

/-- Opcodes 0x80 to 0x97 (R134 to R137). -/
def decodeVecArith (op w : Nat) (y : Sync) : Except DecodeError Instr :=
  let o := decodeVOp w
  let u := decodeUOp w
  let vb0 := fld w 4 7 == 0
  match op with
  | 0x80 => .ok (.vadd y o) | 0x81 => .ok (.vsub y o) | 0x82 => .ok (.vmul y o) | 0x83 => .ok (.vfma y o)
  | 0x84 => .ok (.vfms y o) | 0x85 => .ok (.vfnma y o) | 0x86 => .ok (.vmin y o) | 0x87 => .ok (.vmax y o)
  | 0x88 => need vb0 (.vabs y u) | 0x89 => need vb0 (.vneg y u) | 0x8A => .ok (.vsadd y o) | 0x8B => .ok (.vssub y o)
  | 0x8C => .ok (.vmulh y o) | 0x8D => .ok (.vclamp y o) | 0x8E => .ok (.vcpsgn y o)
  | 0x90 => .ok (.vand y o) | 0x91 => .ok (.vor y o) | 0x92 => .ok (.vxor y o) | 0x93 => need vb0 (.vnot y u)
  | 0x94 => .ok (.vsll y o) | 0x95 => .ok (.vsrl y o) | 0x96 => .ok (.vsra y o) | 0x97 => need vb0 (.vpopc y u)
  | _ => .error .opcode

/-- Opcodes 0x98 to 0xA3 (R138 to R140). -/
def decodeVecPred (op w : Nat) (y : Sync) : Except DecodeError Instr :=
  let c := decodeCOp w
  let pd0 := fld w 22 3 == 0
  let ty := tyOf (fld w 25 4)
  let pd := bf 4 18 w
  let pa := bf 4 11 w
  let pb := bf 4 4 w
  let pg := bf 4 0 w
  let ppp := fld w 22 7 == 0 && fld w 15 3 == 0 && fld w 8 3 == 0 && fld w 0 4 == 0
  match op with
  | 0x98 => need pd0 (.vcmpeq y c) | 0x99 => need pd0 (.vcmpne y c) | 0x9A => need pd0 (.vcmplt y c)
  | 0x9B => need pd0 (.vcmple y c) | 0x9C => need pd0 (.vcmpun y c)
  | 0x9D => need ppp (.pand y pd pa pb) | 0x9E => need ppp (.por y pd pa pb) | 0x9F => need ppp (.pxor y pd pa pb)
  | 0xA0 => need (ppp && fld w 4 4 == 0) (.pnot y pd pa)
  | 0xA1 => need (pd0 && fld w 15 3 == 0 && fld w 0 11 == 0) (.pset y ty pd pa)
  | 0xA2 => need (pd0 && fld w 15 3 == 0 && fld w 4 7 == 0) (.pcnt y ty pd pa pg)
  | 0xA3 => need (pd0 && fld w 15 3 == 0 && fld w 4 7 == 0) (.pfirst y ty pd pa pg)
  | _ => .error .opcode

/-- Opcodes 0xA4 to 0xB7 (R141 to R158). -/
def decodeVecMisc (op w : Nat) (y : Sync) : Except DecodeError Instr :=
  let o := decodeVOp w
  let u := decodeUOp w
  let vb0 := fld w 4 7 == 0
  let ty := tyOf (fld w 25 4)
  let hi0 := fld w 8 3 == 0
  match op with
  | 0xA4 =>
    match rmOf (fld w 4 3) with
    | some r => .ok (.vcvt y { d := ty, vd := o.vd, va := o.va, s := tyOf (fld w 7 4), rm := r, pg := o.pg })
    | none => .error .code
  | 0xA5 =>
    match rmOf (fld w 4 3) with
    | some r => .ok (.vquant y { d := ty, vd := o.vd, va := o.va, s := tyOf (fld w 7 4), rm := r, pg := o.pg })
    | none => .error .code
  | 0xA6 => need vb0 (.vmov y u)
  | 0xA7 => need hi0 (.vbcast y u (bf 4 4 w))
  | 0xA8 => .ok (.vperm y o)
  | 0xA9 => .ok (.vslide y o)
  | 0xAA => .ok (.vsel y o)
  | 0xAB => need vb0 (.vredsum y u)
  | 0xAC => need vb0 (.vredmax y u)
  | 0xAD => need vb0 (.vredmin y u)
  | 0xAE => need vb0 (.vscan y u)
  | 0xAF => .ok (.vsort y o)
  | 0xB0 => .ok (.vtopk y o)
  | 0xB1 => need vb0 (.vcompact y u)
  | 0xB2 => need (fld w 11 7 == 0 && hi0) (.viota y ty o.vd (bf 4 4 w) o.pg)
  | 0xB3 => need (fld w 15 3 == 0 && hi0) (.vrand y ty o.vd (bf 4 11 w) (bf 4 4 w) o.pg)
  | 0xB4 => need (fld w 4 3 == 0) (.vroute y ty o.vd o.va (bf 4 7 w) o.pg)
  | 0xB5 => need (fld w 22 3 == 0 && hi0) (.vchk y ty (bf 4 18 w) o.va (bf 4 4 w) o.pg)
  | 0xB6 =>
    match flagSelOf (fld w 11 3) with
    | some s => need (fld w 22 7 == 0 && fld w 14 4 == 0 && vb0) (.vflg y (bf 4 18 w) s o.pg)
    | none => .error .code
  | 0xB7 =>
    match headDimOf (fld w 9 2) with
    | some h => if fld w 25 4 == 15 then need (fld w 0 9 == 0) (.vsmrg y o.vd o.va h) else .error .code
    | none => .error .code
  | _ => .error .opcode

/-- Opcodes 0xB8 to 0xD6 (R160, R161). -/
def decodeElem (op w : Nat) (y : Sync) : Except DecodeError Instr :=
  let u := decodeUOp w
  let vb0 := fld w 4 7 == 0
  match op with
  | 0xB8 => need vb0 (.vexp y u) | 0xB9 => need vb0 (.vexp2 y u) | 0xBA => need vb0 (.vexpm1 y u)
  | 0xBB => need vb0 (.vlog y u) | 0xBC => need vb0 (.vlog2 y u) | 0xBD => need vb0 (.vlog1p y u)
  | 0xBE => need vb0 (.vrcp y u) | 0xBF => need vb0 (.vrsqrt y u) | 0xC0 => need vb0 (.vsqrt y u)
  | 0xC1 => .ok (.vdiv y (decodeVOp w)) | 0xC2 => need vb0 (.vsin y u) | 0xC3 => need vb0 (.vcos y u)
  | 0xC4 => need vb0 (.vtanh y u) | 0xC5 => need vb0 (.verf y u) | 0xC6 => need vb0 (.vsigm y u)
  | 0xC8 => need vb0 (.vexpa y u) | 0xC9 => need vb0 (.vexp2a y u) | 0xCA => need vb0 (.vexpm1a y u)
  | 0xCB => need vb0 (.vloga y u) | 0xCC => need vb0 (.vlog2a y u) | 0xCD => need vb0 (.vlog1pa y u)
  | 0xCE => need vb0 (.vrcpa y u) | 0xCF => need vb0 (.vrsqrta y u) | 0xD0 => need vb0 (.vsqrta y u)
  | 0xD1 => .ok (.vdiva y (decodeVOp w)) | 0xD2 => need vb0 (.vsina y u) | 0xD3 => need vb0 (.vcosa y u)
  | 0xD4 => need vb0 (.vtanha y u) | 0xD5 => need vb0 (.verfa y u) | 0xD6 => need vb0 (.vsigma y u)
  | _ => .error .opcode

/-- Opcodes 0xD8 to 0xDF (R159, R160). -/
def decodeWide (op w : Nat) (y : Sync) : Except DecodeError Instr :=
  let o := decodeWOp w
  let sub := fld w 25 4
  let vb0 := fld w 4 7 == 0
  match op with
  | 0xD8 => need (sub == 0) (.vaddF64 y o)
  | 0xD9 => need (sub == 0) (.vsubF64 y o)
  | 0xDA => need (sub == 0) (.vmulF64 y o)
  | 0xDB => need (sub == 0) (.vfmaF64 y o)
  | 0xDC =>
    match f64OpOf sub with
    | some f => need ((!f.isCmp || fld w 22 3 == 0) && (!f.isUnary || vb0)) (.f64OtherArithmetic y f o)
    | none => .error .code
  | 0xDD =>
    match cvt64Of sub, rmOf (fld w 4 3) with
    | some c, some r =>
      if c.rounds || fld w 4 3 == 0 then need (fld w 7 4 == 0) (.vcvtF64 y c o.vd o.va r o.pg) else .error .code
    | _, _ => .error .code
  | 0xDE =>
    match fnOf sub with
    | some .div => .ok (.f64Elementary y .div o)
    | some f => need vb0 (.f64Elementary y f o)
    | none => .error .code
  | 0xDF => need (!(i64OpOf sub).isCmp || fld w 22 3 == 0) (.i64Arithmetic y (i64OpOf sub) o)
  | _ => .error .opcode

/-- Opcodes 0xE0 to 0xE3 (R249, R250, R260, R263). -/
def decodeRemote (op w : Nat) (y : Sync) : Except DecodeError Instr :=
  match op with
  | 0xE0 => need (fld w 0 11 == 0) (.qpost y (bf 7 22 w) (bf 4 18 w) (bf 4 14 w) (bf 3 11 w))
  | 0xE1 => need (fld w 0 11 == 0) (.kapp y (decodeXOp w) (bf 4 11 w))
  | 0xE2 => need (fld w 0 11 == 0) (.xfer y (decodeXOp w) (bf 4 11 w))
  | 0xE3 => need (fld w 0 15 == 0) (.rsig y (bf 8 21 w) (bf 2 19 w) (bf 4 15 w))
  | _ => .error .opcode

/-- An engine word (R22, R36, R37). -/
def decodeEngine (w : Nat) : Except DecodeError Instr :=
  let y := decodeSync w
  let op := fld w 56 8
  if op < 0x0A then decodeSeqWord op w y
  else if op < 0x20 then .error .opcode
  else if op < 0x2C then decodeTransfer op w y
  else if op < 0x60 then .error .opcode
  else if op < 0x66 then decodeMatrix op w y
  else if op < 0x80 then .error .opcode
  else if op < 0x98 then decodeVecArith op w y
  else if op < 0xA4 then decodeVecPred op w y
  else if op < 0xB8 then decodeVecMisc op w y
  else if op < 0xD7 then decodeElem op w y
  else if op < 0xD8 then .error .opcode
  else if op < 0xE0 then decodeWide op w y
  else if op < 0xE4 then decodeRemote op w y
  else .error .opcode

/-! ### The encoder -/

/-- Fields of a scalar word (R21). -/
def xa (op : Nat) (d a b : BitVec 5) (fn : Nat) : Nat :=
  op * 2 ^ 26 + d.toNat * 2 ^ 21 + a.toNat * 2 ^ 16 + b.toNat * 2 ^ 11 + fn

/-- Format XI. -/
def xi (op : Nat) (d a : BitVec 5) (imm : Nat) : Nat := op * 2 ^ 26 + d.toNat * 2 ^ 21 + a.toNat * 2 ^ 16 + imm

/-- Format XL. -/
def xl (op : Nat) (d : BitVec 5) (imm : BitVec 21) : Nat := op * 2 ^ 26 + d.toNat * 2 ^ 21 + imm.toNat

/-- Format XM. -/
def xm (op : Nat) (d a : BitVec 5) (sz : MSize) (pol : Policy) (off : BitVec 11) : Nat :=
  op * 2 ^ 26 + d.toNat * 2 ^ 21 + a.toNat * 2 ^ 16 + sz.code * 2 ^ 13 + pol.code * 2 ^ 11 + off.toNat

/-- fn of opcode 0x08 (R130). -/
def ffn (op : Nat) (rm : Nat) (lo : Nat) : Nat := op * 2 ^ 7 + rm * 2 ^ 4 + lo

/-- fn of opcode 0x09 (R132). -/
def mfn (c : BitVec 5) (op : Nat) (rm : RmSel) (p : FP) : Nat := c.toNat * 2 ^ 6 + op * 2 ^ 4 + rm.code * 2 + p.code

/-- Opcode and synchronisation fields of an engine word (R22). -/
def ew (op : Nat) (y : Sync) (operand : Nat) : Nat :=
  op * 2 ^ 56 + y.wthr.toNat * 2 ^ 51 + y.wsem.toNat * 2 ^ 43 + y.sinc.toNat * 2 ^ 41 + y.ssem.toNat * 2 ^ 33
    + y.tki.toNat * 2 ^ 31 + y.tko.toNat * 2 ^ 29 + operand

/-- The layout of R23. -/
def VOp.enc (o : VOp) : Nat :=
  o.ty.code * 2 ^ 25 + o.vd.toNat * 2 ^ 18 + o.va.toNat * 2 ^ 11 + o.vb.toNat * 2 ^ 4 + o.pg.toNat

/-- See `VOp.enc`. -/
def UOp.enc (o : UOp) : Nat := o.ty.code * 2 ^ 25 + o.vd.toNat * 2 ^ 18 + o.va.toNat * 2 ^ 11 + o.pg.toNat

/-- See `VOp.enc`; `sub` is the sub-code of R159. -/
def WOp.enc (o : WOp) (sub : Nat) : Nat :=
  sub * 2 ^ 25 + o.vd.toNat * 2 ^ 18 + o.va.toNat * 2 ^ 11 + o.vb.toNat * 2 ^ 4 + o.pg.toNat

/-- The layout of R138. -/
def COp.enc (o : COp) : Nat :=
  o.ty.code * 2 ^ 25 + o.pd.toNat * 2 ^ 18 + o.va.toNat * 2 ^ 11 + o.vb.toNat * 2 ^ 4 + o.pg.toNat

/-- The layout of R141. -/
def CvtOp.enc (o : CvtOp) : Nat :=
  o.d.code * 2 ^ 25 + o.vd.toNat * 2 ^ 18 + o.va.toNat * 2 ^ 11 + o.s.code * 2 ^ 7 + o.rm.code * 2 ^ 4 + o.pg.toNat

/-- The layout of R109. -/
def XOp.enc (o : XOp) : Nat := ofBit o.f * 2 ^ 28 + o.ac.toNat * 2 ^ 24 + o.d.toNat * 2 ^ 20 + o.src.toNat * 2 ^ 15

/-- The layout of R248. -/
def GOp.enc (o : GOp) : Nat :=
  ofBit o.f * 2 ^ 28 + o.ac.toNat * 2 ^ 24 + o.d.toNat * 2 ^ 20 + o.s.toNat * 2 ^ 16 + o.x.toNat * 2 ^ 12

/-- The layout of R192. -/
def MmaOp.enc (o : MmaOp) (mode : Nat) : Nat :=
  mode * 2 ^ 27 + o.ad.toNat * 2 ^ 25 + ofBit o.ch * 2 ^ 24 + o.sa.toNat * 2 ^ 20 + o.sb.toNat * 2 ^ 16
    + o.im.toNat * 2 ^ 12 + o.pr.toNat * 2 ^ 8 + o.pd.toNat * 2 ^ 4 + o.pc.toNat

/-- The layout of R195. -/
def DrainOp.enc (o : DrainOp) : Nat :=
  o.t.code * 2 ^ 25 + o.as.toNat * 2 ^ 23 + o.q.toNat * 2 ^ 20 + o.ir.toNat * 2 ^ 16 + ofBit o.z * 2 ^ 15
    + ofBit o.d64 * 2 ^ 14 + o.rm.code * 2 ^ 11

/-- The word of a scalar instruction; 0 for any other step. -/
def encodeScalar : Instr → Nat
  | .add d a b => xa 0 d a b 0 | .sub d a b => xa 0 d a b 1 | .mul d a b => xa 0 d a b 2 | .mulh d a b => xa 0 d a b 3
  | .mulhu d a b => xa 0 d a b 4 | .div d a b => xa 0 d a b 5 | .divu d a b => xa 0 d a b 6 | .rem d a b => xa 0 d a b 7
  | .remu d a b => xa 0 d a b 8 | .and d a b => xa 0 d a b 9 | .or d a b => xa 0 d a b 10 | .xor d a b => xa 0 d a b 11
  | .sll d a b => xa 0 d a b 12 | .srl d a b => xa 0 d a b 13 | .sra d a b => xa 0 d a b 14 | .slt d a b => xa 0 d a b 15
  | .sltu d a b => xa 0 d a b 16 | .min d a b => xa 0 d a b 17 | .max d a b => xa 0 d a b 18
  | .minu d a b => xa 0 d a b 19 | .maxu d a b => xa 0 d a b 20
  | .addi d a i => xi 1 d a i.toNat | .andi d a i => xi 2 d a i.toNat | .ori d a i => xi 3 d a i.toNat
  | .xori d a i => xi 4 d a i.toNat | .slti d a i => xi 5 d a i.toNat
  | .slli d a s => xi 6 d a s.toNat | .srli d a s => xi 6 d a (2 ^ 6 + s.toNat) | .srai d a s => xi 6 d a (2 * 2 ^ 6 + s.toNat)
  | .adpc d i => xl 7 d i | .lih d i => xl 10 d i
  | .fadd d a b p r => xa 8 d a b (ffn 0 r.code p.code) | .fsub d a b p r => xa 8 d a b (ffn 1 r.code p.code)
  | .fmul d a b p r => xa 8 d a b (ffn 2 r.code p.code) | .fdiv d a b p r => xa 8 d a b (ffn 3 r.code p.code)
  | .fsqrt d a p r => xa 8 d a 0 (ffn 4 r.code p.code)
  | .fmin d a b p => xa 8 d a b (ffn 5 0 p.code) | .fmax d a b p => xa 8 d a b (ffn 6 0 p.code)
  | .fcmp d a b p c => xa 8 d a b (ffn 7 0 (c.code * 2 + p.code))
  | .fcvt d a t s r => xi 8 d a (t.code * 2 ^ 11 + ffn 8 r.code s.code)
  | .fclass d a p => xa 8 d a 0 (ffn 9 0 p.code)
  | .fma d a b c p r => xa 9 d a b (mfn c 0 r p) | .fms d a b c p r => xa 9 d a b (mfn c 1 r p)
  | .fnma d a b c p r => xa 9 d a b (mfn c 2 r p) | .fnms d a b c p r => xa 9 d a b (mfn c 3 r p)
  | .beq a b o => xi 0x10 a b o.toNat | .bne a b o => xi 0x11 a b o.toNat | .blt a b o => xi 0x12 a b o.toNat
  | .bge a b o => xi 0x13 a b o.toNat | .bltu a b o => xi 0x14 a b o.toNat | .bgeu a b o => xi 0x15 a b o.toNat
  | .jal o => 0x16 * 2 ^ 26 + o.toNat | .jalr d a i => xi 0x17 d a i.toNat
  | .ld d a z p o => xm 0x18 d a z p o | .ldz d a z p o => xm 0x19 d a z p o | .st d a z p o => xm 0x1A d a z p o
  | .cinv l a o => xi 0x1B l a o.toNat
  | .amo op d a b w => xa 0x20 d a b (op.code * 2 ^ 7 + ofBit w * 2 ^ 6) | .cas d a b w => xa 0x21 d a b (ofBit w * 2 ^ 6)
  | .fence s => xi 0x22 0 0 s.code | .fencex p q s => xi 0x23 0 0 (p.code * 2 ^ 6 + q.code * 2 ^ 3 + s.code)
  | .cbind l a b => xa 0x24 l a b 0 | .cunb a b => xa 0x24 0 a b (1 * 2 ^ 8) | .cacq a => xa 0x24 0 a 0 (2 * 2 ^ 8)
  | .ctry d a => xa 0x24 d a 0 (3 * 2 ^ 8) | .crel a => xa 0x24 0 a 0 (4 * 2 ^ 8)
  | .rwin c a b => xa 0x25 c a b 0 | .rwinCancel a => xa 0x25 0 a 0 (1 * 2 ^ 8)
  | .redst k a s t => xa 0x26 k a s t.code
  | .nmadd a s t => xa 0x27 0 a s t.code | .nmmin a s t => xa 0x27 0 a s (1 * 2 ^ 8 + t.code)
  | .nmmax a s t => xa 0x27 0 a s (2 * 2 ^ 8 + t.code) | .nmfen => xa 0x27 0 0 0 (3 * 2 ^ 8)
  | .ecmd t a b => xa 0x28 t a b 0 | .efen m => xi 0x29 0 0 m.toNat | .eflush m => xi 0x2A 0 0 m.toNat
  | .toks q => xa 0x2B 0 0 0 q.toNat | .tokr q => xa 0x2B 0 0 0 (1 * 2 ^ 8 + q.toNat)
  | .ssig a s k => xi 0x2C 0 a (s.toNat * 2 ^ 8 + k.toNat) | .swait s k => xi 0x2D 0 0 (s.toNat * 2 ^ 8 + k.toNat)
  | .srd d s => xa 0x2E d 0 0 s.toNat | .sset a s => xa 0x2E 0 a 0 (1 * 2 ^ 8 + s.toNat)
  | .semcfg a s => xa 0x2E 0 a 0 (2 * 2 ^ 8 + s.toNat) | .wfe d a m => xi 0x2F d a m.toNat
  | .spawn a => xa 0x30 0 a 0 0 | .join a => xa 0x31 0 a 0 0 | .ndone a b => xa 0x32 0 a b 0
  | .yield => xa 0x33 0 0 0 0 | .texit => xa 0x34 0 0 0 0
  | .tbegin d => xa 0x38 d 0 0 0 | .tflag a b => xa 0x39 0 a b 0 | .pflush => xa 0x3A 0 0 0 0
  | .svote a b => xa 0x3B 0 a b 0 | .twait d a => xa 0x3B d a 0 (1 * 2 ^ 8) | .tstat d => xa 0x3B d 0 0 (2 * 2 ^ 8)
  | .csrr d n => xi 0x3C d 0 n.toNat | .csrw n a => xi 0x3D 0 a n.toNat
  | .trap k => xa 0x3E 0 0 0 k.toNat | .tret => xa 0x3E 0 0 0 (1 * 2 ^ 8) | .tretSkip => xa 0x3E 0 0 0 (2 * 2 ^ 8)
  | .pgreq d a b => xa 0x3F d a b 0
  | _ => 0

/-- The word of an engine instruction; 0 for any other step. -/
def encodeEngine : Instr → Nat
  | .enop y => ew 0 y 0 | .estop y => ew 1 y 0 | .ejmp y o => ew 2 y o.toNat
  | .ebr y c ia ib o => ew 3 y (c.code * 2 ^ 26 + ia.toNat * 2 ^ 22 + ib.toNat * 2 ^ 18 + o.toNat)
  | .eloop y i o => ew 4 y (i.toNat * 2 ^ 25 + o.toNat) | .loop y i o => ew 5 y (i.toNat * 2 ^ 25 + o.toNat)
  | .iset y i m => ew 6 y (i.toNat * 2 ^ 25 + m.toNat) | .iadd y i m => ew 7 y (i.toNat * 2 ^ 25 + m.toNat)
  | .ild y i b o => ew 8 y (i.toNat * 2 ^ 25 + b.toNat * 2 ^ 21 + o.toNat)
  | .rbset y v p => ew 9 y (v.toNat * 2 ^ 24 + p.toNat * 2 ^ 21)
  | .gcfg y g b o => ew 0x20 y (g.toNat * 2 ^ 25 + b.toNat * 2 ^ 21 + o.toNat)
  | .gset y g f a => ew 0x21 y (g.toNat * 2 ^ 25 + f.code * 2 ^ 21 + a.toNat * 2 ^ 17)
  | .lds y o => ew 0x22 y o.enc | .sts y o => ew 0x23 y o.enc | .mcast y o => ew 0x24 y o.enc | .bcopy y o => ew 0x25 y o.enc
  | .gath y o => ew 0x26 y o.enc | .scat y o => ew 0x27 y o.enc
  | .redstEngine y o k => ew 0x28 y (o.enc + k.toNat * 2 ^ 11)
  | .nmaddEngine y o => ew 0x29 y o.enc | .nmminEngine y o => ew 0x29 y (o.enc + 1 * 2 ^ 13)
  | .nmmaxEngine y o => ew 0x29 y (o.enc + 2 * 2 ^ 13) | .nmfenEngine y => ew 0x2A y 0
  | .fencexEngine y p q s => ew 0x2B y (p.code * 2 ^ 26 + q.code * 2 ^ 23 + s.code * 2 ^ 20)
  | .mwld y w m sp d => ew 0x60 y (w.toNat * 2 ^ 25 + m.toNat * 2 ^ 21 + ofBit sp * 2 ^ 20 + ofBit d * 2 ^ 19)
  | .mmaF y o => ew 0x61 y (o.enc 0) | .mmaB y o => ew 0x61 y (o.enc 1) | .mmaG y o => ew 0x61 y (o.enc 2)
  | .mdrain y o => ew 0x62 y o.enc | .mzero y m f => ew 0x63 y (m.toNat * 2 ^ 24 + ofBit f * 2 ^ 23)
  | .msave y t g => ew 0x64 y (t.code * 2 ^ 26 + g.toNat * 2 ^ 19)
  | .mrest y t g => ew 0x65 y (t.code * 2 ^ 26 + g.toNat * 2 ^ 19)
  | .vadd y o => ew 0x80 y o.enc | .vsub y o => ew 0x81 y o.enc | .vmul y o => ew 0x82 y o.enc | .vfma y o => ew 0x83 y o.enc
  | .vfms y o => ew 0x84 y o.enc | .vfnma y o => ew 0x85 y o.enc | .vmin y o => ew 0x86 y o.enc | .vmax y o => ew 0x87 y o.enc
  | .vabs y o => ew 0x88 y o.enc | .vneg y o => ew 0x89 y o.enc | .vsadd y o => ew 0x8A y o.enc | .vssub y o => ew 0x8B y o.enc
  | .vmulh y o => ew 0x8C y o.enc | .vclamp y o => ew 0x8D y o.enc | .vcpsgn y o => ew 0x8E y o.enc
  | .vand y o => ew 0x90 y o.enc | .vor y o => ew 0x91 y o.enc | .vxor y o => ew 0x92 y o.enc | .vnot y o => ew 0x93 y o.enc
  | .vsll y o => ew 0x94 y o.enc | .vsrl y o => ew 0x95 y o.enc | .vsra y o => ew 0x96 y o.enc | .vpopc y o => ew 0x97 y o.enc
  | .vcmpeq y o => ew 0x98 y o.enc | .vcmpne y o => ew 0x99 y o.enc | .vcmplt y o => ew 0x9A y o.enc
  | .vcmple y o => ew 0x9B y o.enc | .vcmpun y o => ew 0x9C y o.enc
  | .pand y d a b => ew 0x9D y (d.toNat * 2 ^ 18 + a.toNat * 2 ^ 11 + b.toNat * 2 ^ 4)
  | .por y d a b => ew 0x9E y (d.toNat * 2 ^ 18 + a.toNat * 2 ^ 11 + b.toNat * 2 ^ 4)
  | .pxor y d a b => ew 0x9F y (d.toNat * 2 ^ 18 + a.toNat * 2 ^ 11 + b.toNat * 2 ^ 4)
  | .pnot y d a => ew 0xA0 y (d.toNat * 2 ^ 18 + a.toNat * 2 ^ 11)
  | .pset y t d i => ew 0xA1 y (t.code * 2 ^ 25 + d.toNat * 2 ^ 18 + i.toNat * 2 ^ 11)
  | .pcnt y t d a g => ew 0xA2 y (t.code * 2 ^ 25 + d.toNat * 2 ^ 18 + a.toNat * 2 ^ 11 + g.toNat)
  | .pfirst y t d a g => ew 0xA3 y (t.code * 2 ^ 25 + d.toNat * 2 ^ 18 + a.toNat * 2 ^ 11 + g.toNat)
  | .vcvt y o => ew 0xA4 y o.enc | .vquant y o => ew 0xA5 y o.enc | .vmov y o => ew 0xA6 y o.enc
  | .vbcast y o b => ew 0xA7 y (o.enc + b.toNat * 2 ^ 4) | .vperm y o => ew 0xA8 y o.enc | .vslide y o => ew 0xA9 y o.enc
  | .vsel y o => ew 0xAA y o.enc | .vredsum y o => ew 0xAB y o.enc | .vredmax y o => ew 0xAC y o.enc
  | .vredmin y o => ew 0xAD y o.enc | .vscan y o => ew 0xAE y o.enc | .vsort y o => ew 0xAF y o.enc
  | .vtopk y o => ew 0xB0 y o.enc | .vcompact y o => ew 0xB1 y o.enc
  | .viota y t d b g => ew 0xB2 y (t.code * 2 ^ 25 + d.toNat * 2 ^ 18 + b.toNat * 2 ^ 4 + g.toNat)
  | .vrand y t d k c g => ew 0xB3 y (t.code * 2 ^ 25 + d.toNat * 2 ^ 18 + k.toNat * 2 ^ 11 + c.toNat * 2 ^ 4 + g.toNat)
  | .vroute y t d a c p => ew 0xB4 y (t.code * 2 ^ 25 + d.toNat * 2 ^ 18 + a.toNat * 2 ^ 11 + c.toNat * 2 ^ 7 + p.toNat)
  | .vchk y t d a i g => ew 0xB5 y (t.code * 2 ^ 25 + d.toNat * 2 ^ 18 + a.toNat * 2 ^ 11 + i.toNat * 2 ^ 4 + g.toNat)
  | .vflg y d s g => ew 0xB6 y (d.toNat * 2 ^ 18 + s.code * 2 ^ 11 + g.toNat)
  | .vsmrg y d a h => ew 0xB7 y (15 * 2 ^ 25 + d.toNat * 2 ^ 18 + a.toNat * 2 ^ 11 + h.code * 2 ^ 9)
  | .vexp y o => ew 0xB8 y o.enc | .vexp2 y o => ew 0xB9 y o.enc | .vexpm1 y o => ew 0xBA y o.enc | .vlog y o => ew 0xBB y o.enc
  | .vlog2 y o => ew 0xBC y o.enc | .vlog1p y o => ew 0xBD y o.enc | .vrcp y o => ew 0xBE y o.enc
  | .vrsqrt y o => ew 0xBF y o.enc | .vsqrt y o => ew 0xC0 y o.enc | .vdiv y o => ew 0xC1 y o.enc | .vsin y o => ew 0xC2 y o.enc
  | .vcos y o => ew 0xC3 y o.enc | .vtanh y o => ew 0xC4 y o.enc | .verf y o => ew 0xC5 y o.enc | .vsigm y o => ew 0xC6 y o.enc
  | .vexpa y o => ew 0xC8 y o.enc | .vexp2a y o => ew 0xC9 y o.enc | .vexpm1a y o => ew 0xCA y o.enc
  | .vloga y o => ew 0xCB y o.enc | .vlog2a y o => ew 0xCC y o.enc | .vlog1pa y o => ew 0xCD y o.enc
  | .vrcpa y o => ew 0xCE y o.enc | .vrsqrta y o => ew 0xCF y o.enc | .vsqrta y o => ew 0xD0 y o.enc
  | .vdiva y o => ew 0xD1 y o.enc | .vsina y o => ew 0xD2 y o.enc | .vcosa y o => ew 0xD3 y o.enc | .vtanha y o => ew 0xD4 y o.enc
  | .verfa y o => ew 0xD5 y o.enc | .vsigma y o => ew 0xD6 y o.enc
  | .vaddF64 y o => ew 0xD8 y (o.enc 0) | .vsubF64 y o => ew 0xD9 y (o.enc 0) | .vmulF64 y o => ew 0xDA y (o.enc 0)
  | .vfmaF64 y o => ew 0xDB y (o.enc 0) | .f64OtherArithmetic y f o => ew 0xDC y (o.enc f.code)
  | .vcvtF64 y c d a r g => ew 0xDD y (c.code * 2 ^ 25 + d.toNat * 2 ^ 18 + a.toNat * 2 ^ 11 + r.code * 2 ^ 4 + g.toNat)
  | .f64Elementary y f o => ew 0xDE y (o.enc f.code) | .i64Arithmetic y f o => ew 0xDF y (o.enc f.code)
  | .qpost y a k l q => ew 0xE0 y (a.toNat * 2 ^ 22 + k.toNat * 2 ^ 18 + l.toNat * 2 ^ 14 + q.toNat * 2 ^ 11)
  | .kapp y o j => ew 0xE1 y (o.enc + j.toNat * 2 ^ 11) | .xfer y o p => ew 0xE2 y (o.enc + p.toNat * 2 ^ 11)
  | .rsig y s k p => ew 0xE3 y (s.toNat * 2 ^ 21 + k.toNat * 2 ^ 19 + p.toNat * 2 ^ 15)
  | _ => 0

/-- The word of an instruction, as a number; 0 for a step that has no word. -/
def encode (i : Instr) : Nat := if i.isScalar then encodeScalar i else encodeEngine i

/-! ### Bytes -/

/-- The number that little-endian bytes hold (R3). -/
def ofBytesLE : List Byte → Nat
  | [] => 0
  | b :: bs => b.toNat + 256 * ofBytesLE bs

/-- The n low bytes of a number, little-endian (R3). -/
def toBytesLE : Nat → Nat → List Byte
  | 0, _ => []
  | n + 1, v => BitVec.ofNat 8 v :: toBytesLE n (v / 256)

/-- The scalar instruction at the head of some bytes, and the rest. -/
def decodeScalarBytes (bs : List Byte) : Except DecodeError (Instr × List Byte) :=
  if bs.length < 4 then .error .short
  else match decodeScalar (ofBytesLE (bs.take 4)) with
    | .ok i => .ok (i, bs.drop 4)
    | .error e => .error e

/-- The engine instruction at the head of some bytes, and the rest. -/
def decodeEngineBytes (bs : List Byte) : Except DecodeError (Instr × List Byte) :=
  if bs.length < 8 then .error .short
  else match decodeEngine (ofBytesLE (bs.take 8)) with
    | .ok i => .ok (i, bs.drop 8)
    | .error e => .error e

/-- The instruction that the decoder reads from a word numbered as the opcode table numbers it: 32 bits or fewer
are a scalar word, more are an engine word, each laid out little-endian as the hardware stores it. -/
def decodeTableWord (nbits w : Nat) : Option Instr :=
  if nbits ≤ 32 then
    match decodeScalarBytes (toBytesLE 4 w) with
    | .ok (i, _) => some i
    | .error _ => none
  else
    match decodeEngineBytes (toBytesLE 8 w) with
    | .ok (i, _) => some i
    | .error _ => none

end Sys2Proof
end

