-- ==== Sys2Proof/Machine/Num.lean ====
section
/-! DEFINITION. Number formats, exact values, rounding, special values, overflow, underflow and conversions
(R64 to R89, R153). An exact real is a sign, a natural magnitude and a power of two; a real that is no such dyadic is
given as one that lies strictly between the same rounding boundaries. -/

namespace Sys2Proof.Machine

/-! ### Flags (R75, R84) -/

/-- NX. -/
def fNX : FFlags := 0b00001
/-- UF. -/
def fUF : FFlags := 0b00010
/-- OF. -/
def fOF : FFlags := 0b00100
/-- DZ. -/
def fDZ : FFlags := 0b01000
/-- NV. -/
def fNV : FFlags := 0b10000

/-! ### Formats (R67, R68) -/

/-- How a format spends its top exponent code. -/
inductive Special where
  /-- infinity and NaNs -/
  | ieee
  /-- one NaN code per sign, no infinity (E4M3) -/
  | nanOnly
  /-- neither -/
  | none
  deriving DecidableEq, Repr

/-- A floating format (R67). -/
structure Fmt where
  w    : Nat
  eb   : Nat
  fb   : Nat
  bias : Int
  sp   : Special
  deriving DecidableEq, Repr

/-- The floating formats that a type code or a scalar type names, and ACC48. -/
inductive FKind where
  | f64 | f32 | bf16 | f16 | e5m2 | e4m3 | e3m2 | e2m3 | e2m1 | acc48
  deriving DecidableEq, Repr

/-- The table of R67. -/
def FKind.fmt : FKind → Fmt
  | .f64 => ⟨64, 11, 52, 1023, .ieee⟩
  | .f32 => ⟨32, 8, 23, 127, .ieee⟩
  | .bf16 => ⟨16, 8, 7, 127, .ieee⟩
  | .f16 => ⟨16, 5, 10, 15, .ieee⟩
  | .e5m2 => ⟨8, 5, 2, 15, .ieee⟩
  | .e4m3 => ⟨8, 4, 3, 7, .nanOnly⟩
  | .e3m2 => ⟨6, 3, 2, 3, .none⟩
  | .e2m3 => ⟨6, 2, 3, 1, .none⟩
  | .e2m1 => ⟨4, 2, 1, 1, .none⟩
  | .acc48 => ⟨48, 10, 37, 511, .ieee⟩

/-- Types whose subnormals FTZ flushes (R83). -/
def FKind.ftz : FKind → Bool
  | .f64 | .f32 | .bf16 | .f16 => true
  | _ => false

/-- Exponent of the smallest normal (R68). -/
def Fmt.emin (f : Fmt) : Int := 1 - f.bias

/-- Exponent of the largest finite value. -/
def Fmt.emax (f : Fmt) : Int :=
  match f.sp with
  | .ieee => 2 ^ f.eb - 2 - f.bias
  | _ => 2 ^ f.eb - 1 - f.bias

/-- Integer significand of the largest finite value (R68). -/
def Fmt.maxSig (f : Fmt) : Nat :=
  match f.sp with
  | .nanOnly => 2 ^ (f.fb + 1) - 2
  | _ => 2 ^ (f.fb + 1) - 1

/-- The sign bit of a format, as a number. -/
def Fmt.sign (f : Fmt) (neg : Bool) : Nat := if neg then 2 ^ (f.w - 1) else 0

/-- Encoding of the largest finite value (R68). -/
def Fmt.largest (f : Fmt) (neg : Bool) : Nat :=
  f.sign neg + (match f.sp with
    | .ieee => (2 ^ f.eb - 2) * 2 ^ f.fb + (2 ^ f.fb - 1)
    | .nanOnly => (2 ^ f.eb - 1) * 2 ^ f.fb + (2 ^ f.fb - 2)
    | .none => (2 ^ f.eb - 1) * 2 ^ f.fb + (2 ^ f.fb - 1))

/-- Encoding of an infinity of an ieee format. -/
def Fmt.infinity (f : Fmt) (neg : Bool) : Nat := f.sign neg + (2 ^ f.eb - 1) * 2 ^ f.fb

/-- The canonical NaN (R68); +0 in a format that has none (R80). -/
def Fmt.nan (f : Fmt) (neg : Bool) : Nat :=
  match f.sp with
  | .ieee => f.sign neg + (2 ^ f.eb - 1) * 2 ^ f.fb + 2 ^ (f.fb - 1)
  | .nanOnly => f.sign neg + (2 ^ f.eb - 1) * 2 ^ f.fb + (2 ^ f.fb - 1)
  | .none => 0

/-! ### Values -/

/-- What a floating encoding stands for: the number (-1)^neg × m × 2^x, an infinity or a NaN. -/
inductive FVal where
  | nan (neg : Bool)
  | inf (neg : Bool)
  | num (neg : Bool) (m : Nat) (x : Int)
  deriving DecidableEq, Repr

/-- Zero of a sign. -/
def FVal.zero (neg : Bool) : FVal := .num neg 0 0

/-- Sign of a value. -/
def FVal.neg : FVal → Bool
  | .nan n | .inf n | .num n _ _ => n

/-- The value with its sign inverted. -/
def FVal.flip : FVal → FVal
  | .nan n => .nan (!n)
  | .inf n => .inf (!n)
  | .num n m x => .num (!n) m x

/-- Whether a value is NaN. -/
def FVal.isNan : FVal → Bool
  | .nan _ => true
  | _ => false

/-- Whether a value is infinite. -/
def FVal.isInf : FVal → Bool
  | .inf _ => true
  | _ => false

/-- Whether a value is a zero. -/
def FVal.isZero : FVal → Bool
  | .num _ 0 _ => true
  | _ => false

/-- What an encoding stands for (R67). -/
def Fmt.value (f : Fmt) (b : Nat) : FVal :=
  let neg := b / 2 ^ (f.w - 1) % 2 == 1
  let e := b / 2 ^ f.fb % 2 ^ f.eb
  let fr := b % 2 ^ f.fb
  let top := e == 2 ^ f.eb - 1
  match f.sp with
  | .ieee =>
    if top then (if fr == 0 then .inf neg else .nan neg)
    else if e == 0 then .num neg fr (f.emin - f.fb)
    else .num neg (2 ^ f.fb + fr) (e - f.bias - f.fb)
  | .nanOnly =>
    if top && fr == 2 ^ f.fb - 1 then .nan neg
    else if e == 0 then .num neg fr (f.emin - f.fb)
    else .num neg (2 ^ f.fb + fr) (e - f.bias - f.fb)
  | .none =>
    if e == 0 then .num neg fr (f.emin - f.fb)
    else .num neg (2 ^ f.fb + fr) (e - f.bias - f.fb)

/-- An operand read: with FTZ, a subnormal of the types of R83 is zero of its sign. -/
def FKind.read (k : FKind) (ftz : Bool) (b : Nat) : FVal :=
  let f := k.fmt
  if ftz && k.ftz && b / 2 ^ f.fb % 2 ^ f.eb == 0 then .zero (b / 2 ^ (f.w - 1) % 2 == 1) else f.value b

/-! ### Rounding (R78, R79, R82, R83) -/

/-- What governs a rounding: mode, FTZ, SAT and the draw r of R79. -/
structure RCtx where
  mode : RMode
  ftz  : Bool := false
  sat  : Bool := false
  draw : Nat := 0
  deriving DecidableEq, Repr

/-- Whether the upper neighbour is chosen, for a remainder rem of 2^k above the lower neighbour q (R78, R79). -/
def roundUp (mode : RMode) (neg : Bool) (draw q rem k : Nat) : Bool :=
  match mode with
  | .rne => 2 * rem > 2 ^ k || (2 * rem == 2 ^ k && q % 2 == 1)
  | .rtz => false
  | .rup => !neg
  | .rdn => neg
  | .rna => 2 * rem ≥ 2 ^ k
  | .srd => 2 ^ 32 * rem / 2 ^ k + draw ≥ 2 ^ 32

/-- m × 2^x rounded to a multiple of 2^q: the multiple and whether it differs. -/
def roundAt (c : RCtx) (neg : Bool) (m : Nat) (x q : Int) : Nat × Bool :=
  if q ≤ x then (m * 2 ^ (x - q).toNat, false)
  else
    let k := (q - x).toNat
    let n := m / 2 ^ k
    let rem := m % 2 ^ k
    if rem == 0 then (n, false) else (if roundUp c.mode neg c.draw n rem k then n + 1 else n, true)

/-- Whether n × 2^q exceeds m × 2^x. -/
def magGt (n : Nat) (q : Int) (m : Nat) (x : Int) : Bool :=
  let lo := min q x
  decide (n * 2 ^ (q - lo).toNat > m * 2 ^ (x - lo).toNat)

/-- The result of an overflow (R82). -/
def Fmt.overflow (f : Fmt) (c : RCtx) (neg : Bool) : Nat :=
  match f.sp with
  | .none => f.largest neg
  | .nanOnly => if c.sat then f.largest neg else f.nan neg
  | .ieee =>
    if f.w == 8 then (if c.sat then f.largest neg else f.nan neg)
    else match c.mode with
      | .rtz => f.largest neg
      | .rup => if neg then f.largest true else f.infinity false
      | .rdn => if neg then f.infinity true else f.largest false
      | _ => f.infinity neg

/-- The encoding of n × 2^q, which the format holds exactly. -/
def Fmt.pack (f : Fmt) (neg : Bool) (n : Nat) (q : Int) : Nat :=
  if n == 0 then f.sign neg
  else
    let e := (Nat.log2 n : Int) + q
    if e < f.emin then f.sign neg + n * 2 ^ (q - (f.emin - f.fb)).toNat
    else
      let l := Nat.log2 n
      let sig := if l ≤ f.fb then n * 2 ^ (f.fb - l) else n / 2 ^ (l - f.fb)
      f.sign neg + (e + f.bias).toNat * 2 ^ f.fb + (sig - 2 ^ f.fb)

/-- Round(v, T, M) of a nonzero dyadic (R78 to R83): the encoding and the flags. -/
def roundNum (k : FKind) (c : RCtx) (neg : Bool) (m : Nat) (x : Int) : Nat × FFlags :=
  let f := k.fmt
  let q := (Nat.log2 m : Int) + x - f.fb
  let (n, inexact) := roundAt c neg m x q
  if magGt n q f.maxSig (f.emax - f.fb) then (f.overflow c neg, fOF ||| fNX)
  else if magGt 1 f.emin n q then
    if c.ftz && k.ftz then (f.sign neg, fUF ||| fNX)
    else
      let (n', inx) := roundAt c neg m x (f.emin - f.fb)
      (f.pack neg n' (f.emin - f.fb), if inx then fUF ||| fNX else 0)
  else
    (f.pack neg n q, if inexact then fNX else 0)

/-- The encoding and flags of a value in a format (R78 to R83): NaN and infinity where the format has them. -/
def deliver (k : FKind) (c : RCtx) (v : FVal) : Nat × FFlags :=
  let f := k.fmt
  match v with
  | .nan neg => if f.sp = .none then (0, fNV) else (f.nan neg, 0)
  | .inf neg =>
    if f.sp = .ieee then
      if f.w == 8 && c.sat then (f.largest neg, fOF ||| fNX) else (f.infinity neg, 0)
    else (f.overflow c neg, fOF ||| fNX)
  | .num neg m x => if m == 0 then (f.sign neg, 0) else roundNum k c neg m x

/-! ### Exact arithmetic (R80, R81, R84, R132) -/

/-- An exact result and the NV or DZ that it raises. -/
structure FRes where
  val : FVal
  fl  : FFlags := 0
  deriving DecidableEq, Repr

/-- The NaN of the first NaN operand, if any (R80). -/
def firstNan : List FVal → Option FVal
  | [] => none
  | .nan n :: _ => some (.nan n)
  | _ :: vs => firstNan vs

/-- The exact sum of two numbers, with the zero sign of R81. -/
def addNum (mode : RMode) (n1 : Bool) (m1 : Nat) (x1 : Int) (n2 : Bool) (m2 : Nat) (x2 : Int) : FVal :=
  if m1 == 0 && m2 == 0 then .zero (if n1 == n2 then n1 else mode == .rdn)
  else if m1 == 0 then .num n2 m2 x2
  else if m2 == 0 then .num n1 m1 x1
  else
    let lo := min x1 x2
    let a : Nat := m1 * 2 ^ (x1 - lo).toNat
    let b : Nat := m2 * 2 ^ (x2 - lo).toNat
    if n1 == n2 then .num n1 (a + b) lo
    else if a == b then .zero (mode == .rdn)
    else if a > b then .num n1 (a - b) lo
    else .num n2 (b - a) lo

/-- Exact(a + b) of values that are no NaN. -/
def addVal (mode : RMode) (a b : FVal) : FRes :=
  match a, b with
  | .nan n, _ => ⟨.nan n, 0⟩
  | _, .nan n => ⟨.nan n, 0⟩
  | .inf n, .inf n' => if n == n' then ⟨.inf n, 0⟩ else ⟨.nan false, fNV⟩
  | .inf n, _ => ⟨.inf n, 0⟩
  | _, .inf n => ⟨.inf n, 0⟩
  | .num n1 m1 x1, .num n2 m2 x2 => ⟨addNum mode n1 m1 x1 n2 m2 x2, 0⟩

/-- Exact(a × b). -/
def mulVal (a b : FVal) : FRes :=
  match a, b with
  | .nan n, _ => ⟨.nan n, 0⟩
  | _, .nan n => ⟨.nan n, 0⟩
  | .inf n, .inf n' => ⟨.inf (n != n'), 0⟩
  | .inf n, .num n' m _ => if m == 0 then ⟨.nan false, fNV⟩ else ⟨.inf (n != n'), 0⟩
  | .num n m _, .inf n' => if m == 0 then ⟨.nan false, fNV⟩ else ⟨.inf (n != n'), 0⟩
  | .num n m x, .num n' m' x' => ⟨.num (n != n') (m * m') (x + x'), 0⟩

/-- Exact(±a × b ± c), a NaN operand fixing the result with its sign in the order a, b, c (R80, R132). -/
def fmaVal (mode : RMode) (negProd negC : Bool) (a b c : FVal) : FRes :=
  let prod := mulVal a b
  match firstNan [a, b, c] with
  | some v => ⟨v, prod.fl &&& (if a.isNan || b.isNan then 0 else fNV)⟩
  | none =>
    if prod.fl ≠ 0 then prod
    else addVal mode (if negProd then prod.val.flip else prod.val) (if negC then c.flip else c)

/-- m1 / m2 with enough bits below any rounding boundary, the last one sticky. -/
def divSticky (m1 m2 : Nat) (x : Int) : Nat × Int :=
  let k := 200 + Nat.log2 m2
  let n := m1 * 2 ^ k
  (2 * (n / m2) + (if n % m2 == 0 then 0 else 1), x - k - 1)

/-- Exact(a / b) (R130, R164): 0/0 and ∞/∞ are invalid, a finite nonzero value over zero is a pole. -/
def divVal (a b : FVal) : FRes :=
  match a, b with
  | .nan n, _ => ⟨.nan n, 0⟩
  | _, .nan n => ⟨.nan n, 0⟩
  | .inf _, .inf _ => ⟨.nan false, fNV⟩
  | .inf n, .num n' _ _ => ⟨.inf (n != n'), 0⟩
  | .num n _ _, .inf n' => ⟨.zero (n != n'), 0⟩
  | .num n m x, .num n' m' x' =>
    if m' == 0 then (if m == 0 then ⟨.nan false, fNV⟩ else ⟨.inf (n != n'), fDZ⟩)
    else if m == 0 then ⟨.zero (n != n'), 0⟩
    else
      let (q, e) := divSticky m m' (x - x')
      ⟨.num (n != n') q e, 0⟩

/-- Integer square root by Newton steps from above, on fuel. -/
def isqrtStep (n : Nat) : Nat → Nat → Nat
  | 0, r => r
  | k + 1, r =>
    let r' := (r + n / r) / 2
    if r' < r then isqrtStep n k r' else r

/-- Floor of the square root. -/
def isqrt (n : Nat) : Nat :=
  if n == 0 then 0 else isqrtStep n (Nat.log2 n + 4) (2 ^ (Nat.log2 n / 2 + 1))

/-- √(m × 2^x) with enough bits, the last one sticky. -/
def sqrtSticky (m : Nat) (x : Int) : Nat × Int :=
  -- an even exponent with 400 bits more
  let odd := x % 2 != 0
  let m' := (if odd then 2 * m else m) * 2 ^ 400
  let x' := (if odd then x - 1 else x) - 400
  let r := isqrt m'
  (2 * r + (if r * r == m' then 0 else 1), x' / 2 - 1)

/-- √a (R130, R163): √(-0) = -0, a negative operand is invalid. -/
def sqrtVal (a : FVal) : FRes :=
  match a with
  | .nan n => ⟨.nan n, 0⟩
  | .inf n => if n then ⟨.nan false, fNV⟩ else ⟨.inf false, 0⟩
  | .num n m x =>
    if m == 0 then ⟨.zero n, 0⟩
    else if n then ⟨.nan false, fNV⟩
    else
      let (r, e) := sqrtSticky m x
      ⟨.num false r e, 0⟩

/-- Delivers an exact result, joining its own flags. -/
def deliverRes (k : FKind) (c : RCtx) (r : FRes) : Nat × FFlags :=
  let (b, fl) := deliver k c r.val
  (b, fl ||| r.fl)

/-! ### Comparison (R136, R138, R150) -/

/-- a < b by value, for values that are no NaN; -0 equals +0. -/
def ltVal (a b : FVal) : Bool :=
  match a, b with
  | .nan _, _ | _, .nan _ => false
  | .inf n, .inf n' => n && !n'
  | .inf n, .num .. => n
  | .num .., .inf n => !n
  | .num n1 m1 x1, .num n2 m2 x2 =>
    let z1 := m1 == 0
    let z2 := m2 == 0
    if z1 && z2 then false
    else if z1 then !n2
    else if z2 then n1
    else if n1 != n2 then n1
    else if n1 then magGt m1 x1 m2 x2 else magGt m2 x2 m1 x1

/-- a = b by value; NaN equals nothing. -/
def eqVal (a b : FVal) : Bool := !a.isNan && !b.isNan && !ltVal a b && !ltVal b a

/-- a < b with -0 below +0 (R136). -/
def ltValZ (a b : FVal) : Bool :=
  if a.isZero && b.isZero then a.neg && !b.neg else ltVal a b

/-- Minimum of two values (R136). -/
def minVal (a b : FVal) : FVal := (firstNan [a, b]).getD (if ltValZ b a then b else a)

/-- Maximum of two values (R136). -/
def maxVal (a b : FVal) : FVal := (firstNan [a, b]).getD (if ltValZ a b then b else a)

/-! ### Integers (R71) -/

/-- Smallest value of an integer type of w bits. -/
def intMin (signed : Bool) (w : Nat) : Int := if signed then -(2 ^ (w - 1)) else 0

/-- Largest value of an integer type of w bits. -/
def intMax (signed : Bool) (w : Nat) : Int := if signed then 2 ^ (w - 1) - 1 else 2 ^ w - 1

/-- The value of a pattern. -/
def intOf (signed : Bool) (w b : Nat) : Int :=
  let v := b % 2 ^ w
  if signed && v ≥ 2 ^ (w - 1) then (v : Int) - 2 ^ w else v

/-- The pattern of a value, wrapped to w bits. -/
def intPat (w : Nat) (v : Int) : Nat := (v % (2 ^ w : Int)).toNat

/-- A value clamped to a type's range (R6). -/
def intSat (signed : Bool) (w : Nat) (v : Int) : Int := max (intMin signed w) (min (intMax signed w) v)

/-! ### Types -/

/-- What a type's elements are: a floating kind, or an integer of a signedness and width. -/
inductive Num where
  | flt (k : FKind)
  | int (signed : Bool) (w : Nat)
  deriving DecidableEq, Repr

/-- What an element type holds (R34, R71). -/
def numOf : Ty → Num
  | .i4 => .int true 4 | .n4 => .int false 4 | .i8 => .int true 8 | .n8 => .int false 8
  | .i16 => .int true 16 | .n16 => .int false 16 | .i32 => .int true 32 | .n32 => .int false 32
  | .e2m1 => .flt .e2m1 | .e3m2 => .flt .e3m2 | .e2m3 => .flt .e2m3 | .e4m3 => .flt .e4m3 | .e5m2 => .flt .e5m2
  | .f16 => .flt .f16 | .bf16 => .flt .bf16 | .f32 => .flt .f32 | .f64 => .flt .f64
  | .i64 => .int true 64 | .n64 => .int false 64

/-- What a scalar type holds (R129). -/
def snumOf : STy → Num
  | .f32 => .flt .f32 | .f64 => .flt .f64 | .bf16 => .flt .bf16 | .f16 => .flt .f16
  | .i32 => .int true 32 | .n32 => .int false 32 | .i64 => .int true 64 | .n64 => .int false 64

/-- Bits of the value of an element. -/
def Num.bits : Num → Nat
  | .flt k => k.fmt.w
  | .int _ w => w

/-! ### Philox (R153) -/

/-- One round of Philox-4×32, then the key schedule, on fuel. -/
def philoxRounds : Nat → Nat × Nat → Nat × Nat × Nat × Nat → Nat × Nat × Nat × Nat
  | 0, _, c => c
  | n + 1, (k0, k1), (c0, c1, c2, c3) =>
    let m0 := 0xD2511F53 * c0
    let m1 := 0xCD9E8D57 * c2
    philoxRounds n ((k0 + 0x9E3779B9) % 2 ^ 32, (k1 + 0xBB67AE85) % 2 ^ 32)
      ((m1 / 2 ^ 32) ^^^ c1 ^^^ k0, m1 % 2 ^ 32, (m0 / 2 ^ 32) ^^^ c3 ^^^ k1, m0 % 2 ^ 32)

/-- Philox-4×32-10 (R153). -/
def philox (k0 k1 c0 c1 c2 c3 : Nat) : Nat × Nat × Nat × Nat :=
  philoxRounds 10 (k0 % 2 ^ 32, k1 % 2 ^ 32) (c0 % 2 ^ 32, c1 % 2 ^ 32, c2 % 2 ^ 32, c3 % 2 ^ 32)

/-- The draw r of SRD (R79). -/
def srdDraw (seed tensor index : Nat) : Nat := (philox seed tensor index (index / 2 ^ 32) 0 0).1

/-! ### Conversions (R86) -/

/-- Every value of format s is a value of format d. -/
def Fmt.covers (d s : Fmt) : Bool :=
  decide (s.fb ≤ d.fb) && decide (s.emax ≤ d.emax) && decide (d.emin - d.fb ≤ s.emin - s.fb)
    && (s.sp = .none || d.sp = s.sp || (d.sp = .ieee && s.sp = .nanOnly))
    && (d.sp ≠ .nanOnly || s.maxSig * 2 ^ (d.fb - s.fb) ≤ d.maxSig || s.emax < d.emax)

/-- A dyadic rounded to an integer type (R78, R86): Sat on a result out of range, with NV; NX when inexact in range. -/
def toInt (signed : Bool) (w : Nat) (c : RCtx) (neg : Bool) (m : Nat) (x : Int) : Nat × FFlags :=
  let (n, inx) := roundAt c neg m x 0
  let v : Int := if neg then -(n : Int) else n
  let s := intSat signed w v
  (intPat w s, if s ≠ v then fNV else if inx then fNX else 0)

/-- The conversion table of R86 between any two types. -/
def convert (src dst : Num) (c : RCtx) (b : Nat) : Nat × FFlags :=
  match src, dst with
  | .flt s, .flt d =>
    let exact := d.fmt.covers s.fmt
    deliver d { c with ftz := c.ftz && !exact, sat := c.sat && !exact } (s.read c.ftz (b % 2 ^ s.fmt.w))
  | .flt s, .int sg w =>
    match s.read c.ftz (b % 2 ^ s.fmt.w) with
    | .nan _ => (0, fNV)
    | .inf neg => (intPat w (if neg then intMin sg w else intMax sg w), fNV)
    | .num neg m x => if m == 0 then (0, 0) else toInt sg w c neg m x
  | .int sg w, .flt d =>
    let v := intOf sg w b
    if v = 0 then (0, 0) else deliver d c (.num (v < 0) v.natAbs 0)
  | .int sg w, .int sg' w' =>
    let v := intOf sg w b
    let s := intSat sg' w' v
    (intPat w' s, if s ≠ v then fNV else 0)

end Sys2Proof.Machine
end

