-- ==== Sys2Proof/Machine/SparseMap.lean ====
section
/-! DEFINITION. Reading and writing a sparse map in canonical form: keys strictly rising, no entry equal to what an
unlisted key reads as, so that equal maps are equal lists; and tables of fixed length. -/

namespace Sys2Proof.Machine

/-- The value at a key; `d` where the key is not listed. -/
def sget {α : Type} (d : α) : SMap α → Nat → α
  | [], _ => d
  | (k, v) :: m, i => if k = i then v else sget d m i

/-- Puts a value at a key, keeping the keys rising. -/
def sput {α : Type} (v : α) : SMap α → Nat → SMap α
  | [], i => [(i, v)]
  | (k, w) :: m, i => if i < k then (i, v) :: (k, w) :: m else if i = k then (i, v) :: m else (k, w) :: sput v m i

/-- Removes a key. -/
def sdel {α : Type} : SMap α → Nat → SMap α
  | [], _ => []
  | (k, w) :: m, i => if k = i then sdel m i else (k, w) :: sdel m i

/-- Writes a value at a key; writing the default removes the entry. -/
def sset {α : Type} [DecidableEq α] (d : α) (m : SMap α) (i : Nat) (v : α) : SMap α :=
  if v = d then sdel m i else sput v m i

/-- The canonical form: every key exceeds `lo`, keys rise, no value is the default. -/
def swfFrom {α : Type} [DecidableEq α] (d : α) : Nat → SMap α → Bool
  | _, [] => true
  | lo, (k, v) :: m => decide (lo ≤ k) && decide (v ≠ d) && swfFrom d (k + 1) m

/-- The canonical form of a sparse map. -/
def swf {α : Type} [DecidableEq α] (d : α) (m : SMap α) : Bool := swfFrom d 0 m

/-- A map from the values of keys lo, lo + 1, …, with default entries left out. -/
def sfrom {α : Type} [DecidableEq α] (d : α) : Nat → List α → SMap α
  | _, [] => []
  | k, v :: vs => if v = d then sfrom d (k + 1) vs else (k, v) :: sfrom d (k + 1) vs

/-- Writes consecutive keys. -/
def ssetAll {α : Type} [DecidableEq α] (d : α) (m : SMap α) : Nat → List α → SMap α
  | _, [] => m
  | k, v :: vs => ssetAll d (sset d m k v) (k + 1) vs

/-! ### Tables of fixed length -/

/-- Applies a function to each entry. -/
def vmap {α β : Type} {n : Nat} (f : α → β) (v : Vector α n) : Vector β n := ⟨⟨v.toList.map f⟩, by simp⟩

/-- The table of a function. -/
def vtab {α : Type} {n : Nat} (f : Fin n → α) : Vector α n := ⟨⟨List.ofFn f⟩, by simp⟩

end Sys2Proof.Machine
end

