-- ==== Sys2Proof/Config.lean ====
section
/-! DEFINITION. What one implementation fixes, and the values the manual leaves open. An `opaque` constant has no
body: nothing constrains it, so a statement about it holds whatever it is. -/

namespace Sys2Proof.Config

/-- Cycles that one step of the model takes, beyond the first; the manual fixes no step timing (R65).
DESIGN CHOICE: a free value (log entry 3). -/
opaque freeCycles : Nat → Nat

/-- A 64-bit value that depends on timing (R65): the wait count CYC of WSTATE, a time stamp, a random key.
DESIGN CHOICE: a free value (log entry 3). -/
opaque freeWord : Nat → Word

/-- A byte that arrives from outside the device, such as a read performed at a peer (R319).
DESIGN CHOICE: a free value (log entry 4). -/
opaque freeByte : Nat → Byte

/-- The home slice of a 128-byte line within its die; R15 leaves the placement open.
DESIGN CHOICE: a free value (log entry 5). -/
opaque homeSlice : Nat → Fin 64

/-- AES-256-XTS of a 16-byte block under a key pair, at the block's address: what the tweak and the block's place in its
64-byte data unit make of it is a permutation of the blocks (R323). The keys are random, so the permutation of a key number
is a free value: DESIGN CHOICE (log entry 28). -/
opaque xts : Nat → Nat → Equiv.Perm (BitVec 128)

/-- Which line leaves a full L1, instruction store or L2 slice: its place among those held (R1, R12). DESIGN CHOICE: a free
value (log entry 5). -/
opaque victim : Nat → Nat

/-- The link port through which the device reaches a rank until system software writes the route anew (R385): it sets the rank
routes (R226, R341) through no register that the manual gives. DESIGN CHOICE: a free value (log entry 18). -/
opaque route : Nat → Fin 24

/-- The bank of a 32-byte HBM word in its stack, and its row in that bank: the manual does not give the layout of rows within
a stack (R378). DESIGN CHOICE: free values (log entry 19). -/
opaque dramBank : Nat → Fin 4096
/-- See `dramBank`. -/
opaque dramRow : Nat → Nat

/-- The filter into which the retention test of a boot puts a row: 0 none, 1 F64, 2 F32 (R378). DESIGN CHOICE: a free value
(log entry 19). -/
opaque retentionTest : Nat → Nat → Fin 3

/-- The signature of a firmware image verifies: its header and what follows the payload (R325, HSS under the fused key).
DESIGN CHOICE: a free value (log entry 83). -/
opaque signatureOk : List Byte → List Byte → Bool

/-- The digest in a measurement block whose input the manual does not lay out: of an index, and of the facts of the device that
it measures (R326). DESIGN CHOICE: a free value (log entry 84). -/
opaque measured : Nat → List Nat → List Byte

/-- Which of the old and the new bytes a fetch takes from a code line that has changed (R56). DESIGN CHOICE: a free value
(log entry 79). -/
opaque takesNew : Nat → Bool

/-- What a byte of memory that nothing has written reads as. The manual gives no power-on contents of DRAM.
DESIGN CHOICE (log entry 1). -/
def powerOnByte : Byte := 0

/-- Number of cores of the package (R1). -/
def cores : Nat := 288

/-- The global core number of the core in focus after reset. The manual gives 288 alike cores.
DESIGN CHOICE (log entry 2). -/
def bootCore : Nat := 0

/-- Capacity of a core's result queue in 512-byte vectors (R190). -/
def queueVectors : Nat := 128

/-- Tokens one token queue holds (R10, R48). -/
def tokenSlots : Nat := 16

/-- Pending commands of an engine sequencer besides the running one (R44). -/
def commandSlots : Nat := 4

/-- Posts one copy engine queues (R251). -/
def postSlots : Nat := 8

/-- Accepted QPOSTs of one core and of one stack (R262), and pending appends of one stack (R263). -/
def qpostsPerCore : Nat := 16
/-- See `qpostsPerCore`. -/
def qpostsPerStack : Nat := 64
/-- See `qpostsPerCore`. -/
def appendsPerStack : Nat := 256

/-- Parking lines of one L2 slice (R242) and open windows per die (R238). -/
def parkingLines : Nat := 512
/-- See `parkingLines`. -/
def windowsPerDie : Nat := 64

/-- Lines of 64 bytes of the L1 and of the instruction store of a core (R12), lines of 128 bytes of an L2 slice (R1), and
entries of an X's own TLB, of a cluster TLB and of a stream TLB (R311). -/
def l1Lines : Nat := 1024
/-- See `l1Lines`. -/
def codeLines : Nat := 2048
/-- See `l1Lines`: lines of the resident region. -/
def residentLines : Nat := 256
/-- See `l1Lines`. -/
def sliceLines : Nat := 32768
/-- See `l1Lines`. -/
def coreTlb : Nat := 64
/-- See `l1Lines`. -/
def clusterTlb : Nat := 2048
/-- See `l1Lines`. -/
def streamTlb : Nat := 32

/-- SRAM counters of one die, and live graphs of one die (R289). -/
def graphCounters : Nat := 65536
/-- See `graphCounters`. -/
def liveGraphs : Nat := 256

end Sys2Proof.Config
end

