-- ==== Sys2Proof/Machine/State.lean ====
section
/-! DEFINITION. The state of the Tladric T9 as plain data: one core in focus with its four sequencers, the other cores
of the package, and the device around them. Every item that the manual gives the machine is a field, with the rule
that names it. `State.reset` is the machine right after reset. -/

namespace Sys2Proof.Machine

/-- Why the machine stops. -/
inductive Fault where
  /-- Raised by the unit accessors when a copy-engine number is 48 or more: R8 numbers the copy engines 0 to 47, so
  no such unit exists. Safe: the T9 cannot reach it. -/
  | noSuchUnit
  deriving DecidableEq, Repr

/-- Why a step has no meaning. -/
inductive Refusal where
  /-- Answered by an arm of `exec` whose instruction has no meaning yet. Safe. -/
  | notModelled (mnemonic : String)
  /-- Answered by the meaning of a device step in a state in which the manual does not let that step occur, such as
  the retirement of a word when none is in flight. Safe: the T9 takes no such step there. -/
  | cannotOccur (step : String)
  deriving DecidableEq, Repr

/-- The causes of the cause table (R359). -/
inductive Cause where
  | illegal | priv | seqMismatch | operand | alignPc | brk
  | invalid | divzero | overflow | underflow | inexact | intDivzero | residue
  | unmapped | perm | align | swizzle | windowConflict | sealed | pleatAttr | cuffAttr
  | queueOvf | queueUnf | semOvf | tokenOvf | tokenUnf | waitTimeout | graphOvf
  | aborted | noAttempt | voteTimeout | windowWrap
  | peerTimeout | replayExhausted | laneRetired | peerLost
  | dramUe | cuffBankUe | sramUe | residuePersist
  | thermal | power | attest | firmware
  deriving DecidableEq, Repr

/-- Why an access is not performed yet: it goes to the home of a PEER page, at a rank, and waits for the answer (R319); or
the metadata of its pleat region is being initialised (R347). -/
inductive Await where
  | ask (rank : Nat) (acc : PAccess)
  | busy
  deriving DecidableEq, Repr

/-- A raised cause with what the trap registers take from it (R366) and what its unit needs to resume (R362). -/
structure CauseRec where
  cause  : Cause
  /-- the failing address, for a cause that has one -/
  addr   : Option Word := none
  write  : Bool := false
  fetch  : Bool := false
  info   : Word := 0
  /-- the element at which the word stops (R114) -/
  e      : Nat := 0
  /-- the word raised it after issue and keeps its issue actions -/
  issued : Bool := false
  /-- raised by a refused signal of an ESTOP: resuming completes the command (R27) -/
  estop  : Bool := false
  /-- address of the stopped word -/
  pc     : Word := 0
  /-- groups that a stopped BCOPY has read and not written: element, bytes, scale (R113) -/
  keep   : List (Nat × List Byte × Option Byte) := []
  /-- the descriptors that the word took at its issue (R102) -/
  descs  : List Nat := []
  /-- no cause: the access waits -/
  await  : Option Await := none
  /-- a leaf that the refused access reached: the walker has set its A bit (R310) -/
  leaf   : Option Nat := none
  /-- words with an error within one symbol that the walk read: they have been corrected (R376) -/
  soft   : List Nat := []
  /-- address of the DRAM word that failed, whose row is demoted (R378) -/
  dram   : Option Nat := none
  /-- a pleat controller found it in the metadata of a block (R331) -/
  ctl    : Bool := false
  deriving DecidableEq, Repr

/-- A stream register (R96): the 512 descriptor bits and the position POS. -/
structure StreamReg where
  desc : BitVec 512
  pos  : Nat
  deriving DecidableEq, Repr

/-- An accumulator tile or the gradient plane (R181): format, sticky status, entry (m, j) at key 128 m + j. An entry
that is not listed is +0. ACC48 entries use the low 48 bits. -/
structure Tile where
  f64 : Bool
  nv  : Bool
  of  : Bool
  ent : SMap (BitVec 64)
  deriving DecidableEq, Repr

/-- The stationary panel (R181, R182): element (k, n) at key 1024 n + k, scale b of column n at key 32 n + b, and the
keys 1024 n + k of the pruned elements. -/
structure Panel where
  ty    : Ty
  mx    : Bool
  f64   : Bool
  sp    : Bool
  elems : SMap (BitVec 64)
  scales : SMap Byte
  prune : SMap Bool
  deriving DecidableEq, Repr

/-- A vector held in a result queue (R190). `ue` marks the head vector of a triple with STAT = 2 that nothing has yet
tried to pop, with the head lane 3 that the trap reports (R268). -/
structure QVec where
  data : VReg
  ue   : Option (BitVec 32)
  /-- the queue array holds it with an uncorrectable error (R377) -/
  bad  : Bool := false
  deriving DecidableEq, Repr

/-- A result queue (R190): its vectors from the head, vectors popped by unretired words that still count as held, and
slots reserved by issued pushes and QPOSTs. -/
structure RQueue where
  vecs : List QVec
  held : Nat
  rsvd : Nat
  deriving DecidableEq, Repr

/-- What an issued word still waits for before it is complete: nothing, the matrix pipeline (R198), the hem unit
(R171), a peer (R249), or what a fence (R216) or an NMFEN (R247) waits for when it retires. -/
inductive FlightKind where
  | plain | matrix | hem | peer
  | fence (a : Path) (sc : Scope)
  | nmfen
  deriving DecidableEq, Repr

/-- The own state of a sequencer before the first confined word that issued past an incomplete word (R363): index registers and
PC, and in C also the vector and predicate registers, their bases, the lane-flag record, the tiles, the panel and the
positions of the streams. -/
structure Undo where
  idx    : Vector Word 16
  pc     : Word
  v      : Vector VReg 64
  p      : Vector Pred 16
  vrb    : BitVec 5
  prb    : BitVec 3
  lflags : SMap FFlags
  a      : Vector Tile 4
  gp     : Tile
  wp     : Option Panel
  pos    : List Nat
  deriving DecidableEq, Repr

/-- What an elementary-function word of C writes when its hem phase ends (R171, R173): registers, a push to a stream,
by the register as the word found it (R102), with the active lanes of each vector, the lane-flag record and flags; or the
cause that it raises then, with its TRAP_INFO, and the old positions of the streams that it names. -/
structure Late where
  regs   : List (Nat × VReg) := []
  push   : Option (StreamReg × Ty × List (Nat × Nat)) := none
  lflags : SMap FFlags := []
  flags  : FFlags := 0
  cause  : Option Cause := none
  info   : Word := 0
  pos    : List (BitVec 4 × Nat) := []
  deriving DecidableEq, Repr

/-- An issued, unretired engine word (R24, R25): the signal and token that its retirement applies, the flags that it
adds to VFSTAT at retirement (R40), and the vectors that it popped. -/
structure Flight where
  kind  : FlightKind
  done  : Bool
  pc    : Word
  word  : Word
  sinc  : BitVec 2
  ssem  : BitVec 8
  tko   : Option Nat
  estop : Bool
  flags : FFlags
  held  : List (Nat × List QVec)
  /-- for each popped vector of an XFER, the element after its last -/
  ends  : List Nat
  e     : Nat
  rank  : Nat
  late  : Option Late := none
  /-- the cause at which an XFER stops once its peer has accepted the elements before it, and the descriptors that it keeps -/
  stop  : Option CauseRec := none
  descs : List Nat := []
  /-- of a word that issued past an incomplete one: what is restored of the words after it when it stops -/
  back  : Option Undo := none
  deriving DecidableEq, Repr

/-- An accepted QPOST whose triples are not all pushed (R260 to R264). -/
structure QPost where
  id     : Nat
  /-- the core that runs the task; 288 while the task is saved (R262) -/
  core   : Nat
  asid   : BitVec 12
  q      : Nat
  stack  : Nat
  group  : Nat
  banks  : Nat
  dim    : Nat
  bf16   : Bool
  tag    : BitVec 16
  len    : Nat
  sigma  : BitVec 32
  query  : List (BitVec 16)
  /-- physical base and PSCALE of each page, and the entry size -/
  pages  : List (Nat × BitVec 32)
  entry  : Nat
  /-- pending appends below L at acceptance, by home address -/
  holds  : List Nat
  /-- finished triples by bank: vectors, and whether STAT = 2 -/
  ready  : SMap (List VReg × Bool)
  /-- the next bank whose triple is pushed -/
  next   : Nat
  cmd    : Bool := false
  fenced : Bool := false
  deriving DecidableEq, Repr

/-- The first unmet issue condition of a sequencer's next word (R24, R297). -/
inductive SWait where
  | none
  | sem (n : BitVec 8) (thr : BitVec 5)
  | pop (src dst : BitVec 2)
  | push (src dst : BitVec 2)
  /-- a counted wait of another kind: a waiting pop, KAPP acceptance, a REDST refusal (R299) -/
  | counted
  /-- QPOST waits for acceptance with what it has read, and where its query stream goes on (R260) -/
  | post (p : QPost) (pos : Nat)
  /-- a wait that the watchdog does not count -/
  | uncounted
  deriving DecidableEq, Repr

/-- How a stopped or waiting word goes on (R114, R362): its element, whether it keeps its issue actions, the vectors that
it holds while it waits (R190), and the groups that a BCOPY has read (R113). -/
structure Resume where
  e      : Nat
  issued : Bool
  held   : List (Nat × List QVec) := []
  keep   : List (Nat × List Byte × Option Byte) := []
  /-- the descriptors that the word took at its issue (R102) -/
  descs  : List Nat := []
  /-- the popped vector whose elements the word has yet to use up (R190) -/
  cur    : Option QVec := none
  /-- a frozen fence, which is executed again once its sequencer goes on (R219, R247) -/
  again  : Bool := false
  deriving DecidableEq, Repr

/-- An engine sequencer (R10, R44 to R46): index registers, PC, the running command and the pending ones, the word in
flight, a raised cause, the resumption of a stopped word, and the wait of the next word. -/
structure Seq where
  idx     : Vector Word 16
  pc      : Word
  running : Bool
  queue   : List (Word × Word)
  flight  : Option Flight
  /-- confined words that issued past the word in flight, and what is restored of them when it stops (R363) -/
  early   : List Flight := []
  undo    : Option Undo := none
  /-- EFLUSH has discarded its commands; its issued words complete, and it is idle then (R300) -/
  flushed : Bool := false
  cause   : Option CauseRec
  /-- the raised cause has been delivered to X and not yet resumed -/
  delivered : Bool
  resume  : Option Resume
  wait    : SWait
  /-- a Drain of R365 has reached the point from which it acts as Freeze -/
  drained : Bool
  deriving DecidableEq, Repr

/-- The waiting instruction of X, if any (R364). -/
inductive XWait where
  | none | efen | ecmd | swait | cacq | join | tbegin | eflush | pflush | svote | nmfen | texit
  | fence (sc : Scope)
  /-- TWAIT, with its destination and the AID that it waits for (R345, R355) -/
  | twait (r : BitVec 5) (a : BitVec 16)
  | redst
  /-- an access that is not performed yet (R319, R347) -/
  | access
  /-- WFE, and whether its MASK has bit 5 -/
  | wfe (timed : Bool)
  deriving DecidableEq, Repr

/-- A line of X's L1 (R12, R117): the physical line is the key; VA, ASID, 64 bytes and their dirty bits, and for a far-tier
line the XTS key of its accesses (R323). -/
structure L1Line where
  va    : Word
  asid  : BitVec 12
  data  : BitVec 512
  dirty : BitVec 64
  key   : Nat := 0
  deriving DecidableEq, Repr

/-- Where a residue fails its check (R90): a chunk of a register, an entry of a tile, a chunk of the next vector popped from a
stream or from a result queue, or the output of a unit. -/
inductive ResPlace where
  | x (n : Nat)
  | idx (u : SeqId) (n : Nat)
  | v (n chunk : Nat)
  | p (n chunk : Nat)
  | tile (n entry : Nat)
  | stream (g chunk : Nat)
  | queue (n chunk : Nat)
  | path (u : UnitId) (chunk : Nat)
  deriving DecidableEq, Repr

/-- A residue mismatch that the next unit to check the place meets, and whether a second execution meets it again (R91). -/
structure ResMark where
  place   : ResPlace
  lasting : Bool
  deriving DecidableEq, Repr

/-- What the scheduler knows of a task (R280 to R290, R357). -/
structure Task where
  launch  : Nat
  tnum    : Nat
  /-- the task runs a graph node -/
  node    : Bool
  cls     : Nat
  region  : Nat
  prio    : Nat
  /-- a spawned or node task carries the join counter of its continuation; 0 for none -/
  join    : Word
  spbase  : Nat
  spsize  : Nat
  /-- pool base and slot of the context frame -/
  ctxBase : Word
  slot    : Nat
  /-- run of a checking launch: 0 when not checked, else 1 or 2 -/
  run     : Nat
  /-- a checking task still holds its random start delay -/
  hold    : Bool
  /-- bytes written to PLEAT pages so far by X and S, copy-engine programs posted, and what these wrote there: program
  number in posting order, virtual address and bytes (R358) -/
  ordX    : Nat
  ordS    : Nat
  posted  : Nat
  ceWrites : List (Nat × Nat × List Byte)
  pagePending : Bool
  pgSem   : BitVec 8
  deriving DecidableEq, Repr

/-- Why a context save is under way (R371). -/
inductive SaveReason where
  | yield | join (counter : Word) | joinDone | preempt | retire
  deriving DecidableEq, Repr

/-- The program-visible state of one core (R10) and what the scheduler holds of it. -/
structure Core where
  gcore     : Nat
  -- X
  x         : Vector Word 32
  pc        : Word
  xwait     : XWait
  /-- the WFE timer of R298 has elapsed -/
  wfeHit    : Bool
  /-- a TWAIT was issued when the attempt was already in doubt (R355) -/
  twaitLate : Bool
  handler   : Bool
  /-- the delivered cause that no TRET has resumed, and the unit that raised it (R369) -/
  delivered : Option (UnitId × CauseRec)
  -- control and status registers (R39)
  fctl      : Word
  fstat     : Word
  vfctl     : Word
  vfstat    : Word
  seqno     : Vector Word 8
  snapshot  : Option (Vector Word 8)
  /-- AID of the last attempt the task joined (R349) -/
  txnAid    : Option (BitVec 16)
  /-- that attempt was decided aborted (R334) -/
  txnDead   : Bool
  taskFrame : Word
  regionId  : Word
  asid      : BitVec 12
  sealBit   : Bool
  trapCause : Word
  trapPc    : Word
  trapAddr  : Word
  trapInfo  : Word
  trapVec   : Word
  wdogLimit : Word
  ev        : BitVec 6
  -- L, C, S
  l         : Seq
  c         : Seq
  s         : Seq
  g         : Vector StreamReg 16
  v         : Vector VReg 64
  p         : Vector Pred 16
  vrb       : BitVec 5
  prb       : BitVec 3
  lflags    : SMap FFlags
  a         : Vector Tile 4
  gp        : Tile
  wp        : Option Panel
  q         : Vector RQueue 8
  /-- token counts of tq.xl, xc, xs, lx, lc, ls, cx, cl, cs, sx, sl, sc (R372) -/
  tok       : Vector Nat 12
  sem       : Vector (BitVec 16) 256
  semMask   : Vector (BitVec 7) 256
  l1        : SMap L1Line
  /-- 8-byte words of L1 lines that hold an uncorrectable error, by physical address / 8 (R377) -/
  badL1     : List Nat
  /-- the instruction store of X: lines of 64 bytes that it has fetched, by physical address / 64, and those of them that stand
  in the resident region (R12, R56) -/
  code      : SMap (BitVec 512)
  resident  : List Nat
  /-- engine words that the task's sequencers have fetched, by physical address / 8 (R56) -/
  fetched   : SMap Word
  /-- lines of the instruction store that hold an uncorrectable error (R377) -/
  badCode   : List Nat
  /-- chunks whose residue does not match them, and faults of a unit's data path (R90, R91) -/
  residues  : List ResMark
  -- scheduling
  task      : Option Task
  saving    : Option SaveReason
  retired   : Bool
  deriving DecidableEq, Repr

/-- A post in a copy engine's queue (R251): the record's address and the posting core. -/
structure Post where
  addr : Word
  core : Nat
  /-- its number among the posts of its task (R358) -/
  num  : Nat := 0
  deriving DecidableEq, Repr

/-- A copy engine (R251, R252): its sequencer, its posts in acceptance order, and the core whose program runs. -/
structure CopyEngine where
  seq   : Seq
  posts : List Post
  prog  : Option Nat
  /-- number of the running program among the posts of its task -/
  num   : Nat := 0
  deriving DecidableEq, Repr

/-- An entry of a TLB (R311): the TLB, ASID and 4 KiB page, and the level, address and value of the leaf as the walk found
it. -/
structure TlbEnt where
  key    : Nat
  asid   : BitVec 12
  page   : Nat
  level  : Nat
  leafPa : Nat
  leaf   : Nat
  deriving DecidableEq, Repr

/-- An access that a unit has sent to the home of a PEER page, and its answer once it has come (R319). -/
structure PReq where
  id   : Nat
  core : Nat
  unit : UnitId
  rank : Nat
  acc  : PAccess
  ans  : Option PAnswer
  deriving DecidableEq, Repr

/-- An accepted, unperformed near-memory operation (R224, R246). -/
structure NOp where
  core  : Nat
  unit  : UnitId
  pa    : Nat
  op    : Nat
  f32   : Bool
  val   : BitVec 32
  pleat : Bool
  /-- the match set taken at acceptance -/
  mset  : List (BitVec 16)
  /-- the attempt under which the operation folds -/
  foldAid : BitVec 16
  /-- the command that issued it has completed (R217) -/
  cmd   : Bool := false
  /-- the fence in which X waits covers it -/
  fenced : Bool := false
  deriving DecidableEq, Repr

/-- An XFER whose writes the peer has yet to report as performed (R218): core, sequencer and rank, and what a fence asks. -/
structure PeerOut where
  core   : Nat
  unit   : SeqId
  rank   : Nat
  cmd    : Bool := false
  fenced : Bool := false
  deriving DecidableEq, Repr

/-- A pending append of a stack's coordinator (R263): the entry's home address and length, the task whose KAPP writes it, and
whether it has written the entry whole. -/
structure Append where
  stack : Nat
  pa    : Nat
  len   : Nat
  frame : Word := 0
  whole : Bool := false
  deriving DecidableEq, Repr

/-- An open reduction window (R237 to R244). -/
structure RWin where
  asid  : BitVec 12
  base  : Word
  lines : List Nat
  n     : Nat
  ty    : Ty
  note  : Bool
  sem   : BitVec 8
  core  : Nat
  next  : Nat
  /-- keys of which a word has had an element accepted -/
  claimed : List Nat
  /-- keys accepted whole -/
  acc   : List Nat
  /-- parked contributions: key, physical address, value -/
  parked : List (Nat × Nat × BitVec 32)
  deriving DecidableEq, Repr

/-- The outcome of an attempt in a pleat controller's window (R332). -/
inductive PleatOutcome where
  | undecided | committed | aborted
  deriving DecidableEq, Repr

/-- A pleat controller (R331 to R337): PLEATCFG, block metadata (SEL, AID) by block index, outcomes by AID mod 4,096. -/
structure Pleat where
  en      : Bool
  busy    : Bool
  nframes : Nat
  first   : Nat
  /-- a metadata entry that is not listed is SEL = 0, AID = 0 -/
  blocks  : SMap (Bool × BitVec 16)
  /-- an outcome that is not listed is aborted -/
  window  : SMap PleatOutcome
  /-- blocks whose metadata hold an uncorrectable error (R331) -/
  badMeta : List Nat
  /-- the local-abort pass of R338 has yet to end -/
  passDue : Bool
  /-- the AID of R339 at which the scrubber's current pass began (R337) -/
  began   : BitVec 16
  deriving DecidableEq, Repr

/-- The effective values of a region (R272, R273). -/
structure Eff where
  /-- physical address of the region's RCB -/
  rcb      : Nat
  cores    : Nat
  nodes    : Nat
  qslots   : Nat
  rqbase   : Word
  spbase   : Nat
  spsize   : Nat
  ctxbase  : Word
  ctxslots : Nat
  prio     : Nat
  maxclass : Nat
  det      : BitVec 2
  fdom     : BitVec 16
  asid     : BitVec 12
  tvec     : Word
  wdog     : BitVec 32
  deriving DecidableEq, Repr

/-- An opened task graph (R289): node table, die, SRAM counters, and the nodes that have ended. -/
structure Graph where
  table    : Word
  die      : Nat
  /-- nodes whose counters the die's SRAM holds -/
  sram     : Nat
  counters : List Nat
  ended    : Nat
  deriving DecidableEq, Repr

/-- An accepted launch (R278 to R282, R357, R358). -/
structure Launch where
  id      : Nat
  recVa   : Word
  recAsid : BitVec 12
  region  : Nat
  queue   : Nat
  entry   : Word
  frame   : Word
  fstr    : Nat
  cls     : Nat
  check   : Bool
  total   : Nat
  /-- the region and its ancestors, the region first -/
  path    : List Eff
  /-- the paths of the regions below it, as they stood at acceptance (R273) -/
  subs    : List (Nat × List Eff) := []
  /-- GRAPH = 1: the launch has a node table, whose graph opens when a table and the budgets allow -/
  nodes   : Bool
  graph   : Option Graph
  /-- the attempt in which a checking launch was accepted or started -/
  aid     : Option (BitVec 16)
  /-- tasks accepted or spawned and not ended -/
  live    : Nat
  started : Bool
  run     : Nat
  dkey    : Word
  d1      : BitVec 128
  d2      : BitVec 128
  status  : Nat
  deriving DecidableEq, Repr

/-- A continuation (R285). -/
structure Cont where
  code   : Word
  frame  : Word
  join   : Word
  region : Nat
  prio   : Nat
  deriving DecidableEq, Repr

/-- What an item of ready work starts or resumes (R286). Task 0 of a C launch stands for all its tasks (R282). -/
inductive WorkKind where
  | launchTask (t : Nat)
  | spawned (k : Cont)
  | node (n : Nat) (k : Cont)
  | resume (taskFrame : Word)
  deriving DecidableEq, Repr

/-- An item of ready work, in FIFO order of the list that holds it (R286). -/
structure Work where
  launch : Nat
  region : Nat
  prio   : Nat
  /-- a started P task that is ready comes first in its region (R280) -/
  first  : Bool
  kind   : WorkKind
  deriving DecidableEq, Repr

/-- A saved task (R371): its frame identity and the scheduler's record of it. -/
structure Saved where
  taskFrame : Word
  task      : Task
  /-- parked by a YIELD while page-pending, or waiting at a join counter -/
  parked    : Bool
  /-- the task waits at the join counter that its JOIN names (R288) -/
  joined    : Bool
  /-- its unfinished QPOSTs (R262) -/
  qids      : List Nat
  /-- what its sequencers hold for the resumption of their words (R362), in the order L, C, S -/
  seqs      : List Seq
  /-- copy engines that hold its stopped programs (R252) -/
  ces       : List Nat
  /-- the delivered cause that no TRET has resumed, as X holds it -/
  dlv       : Option (UnitId × CauseRec)
  /-- for each queue, the marks of its vectors (R268) -/
  marks     : List (List (Option (BitVec 32)))
  txn       : Option (BitVec 16)
  txnDead   : Bool
  regionId  : Word
  asid      : BitVec 12
  sealBit   : Bool
  deriving DecidableEq, Repr

/-- The registers of a host work queue (R276). -/
structure QRegs where
  qbase : Word
  qctl  : Word
  qhead : BitVec 32
  qtail : BitVec 32
  deriving DecidableEq, Repr

/-- The device's attempt state (R338). -/
inductive SeamState where
  | disabled | waitnext | idle | opened | voted | indoubt
  deriving DecidableEq, Repr

/-- The running vote of a rank (R343). -/
structure Collect where
  count : Nat
  flags : BitVec 6
  frank : Nat
  own   : Bool
  kids  : List Nat
  deriving DecidableEq, Repr

/-- The Seam node (R338 to R348). -/
structure Seam where
  cfg     : Word
  tmo     : Word
  state   : SeamState
  aid     : BitVec 16
  flags   : BitVec 6
  lAid    : BitVec 16
  lOut    : BitVec 2
  lFlags  : BitVec 6
  frank   : Nat
  collect : Option Collect
  /-- the vote for the current AID has been sent -/
  sent    : Bool
  queries : Nat
  deriving DecidableEq, Repr

/-- An SPDM response (R326): the capabilities, a certificate chain by its subjects (none for an empty slot), the value of a
measurement block, a signed answer with what it signs, ERROR (Unspecified), or another answer. -/
inductive SpdmResp where
  | capabilities (l : List String)
  | certificate (chain : Option (List String))
  | measurement (index : Nat) (value : List Byte)
  | signed (index : Nat) (value : List Byte)
  | keyExchange
  | error
  | other
  deriving DecidableEq, Repr

/-- A PEER page that moves to its partner (R319): the local ASID and page, the sender's ASID, the address of its descriptor,
the partner, the accesses that have arrived since, and the units whose fences wait for these (R218). -/
structure PMove where
  asid : BitVec 12
  va   : Word
  peer : BitVec 12
  desc : Nat
  rank : Nat
  pend : List PAccess
  fences : List (Nat × UnitId) := []
  deriving DecidableEq, Repr

/-- A byte that the far-tier port has accepted and not forwarded (R204): its address and value, the path of the access that
wrote it, and the units whose fences wait for it (R217). -/
structure FarW where
  pa     : Nat
  b      : Byte
  path   : Path := .x
  fences : List (Nat × UnitId) := []
  deriving DecidableEq, Repr

/-- What the device sends out of the package: to a rank over the links (R226, R341), or to the host. -/
inductive OutMsg where
  | seamVote (rank : Nat) (m : SeamMsg)
  | seamDecide (rank : Nat) (m : SeamMsg)
  | seamQuery (rank : Nat) (m : SeamMsg)
  | seamOpen (rank : Nat) (m : SeamMsg)
  | xferElem (rank : Nat) (core : Nat) (u : SeqId) (asid : BitVec 12) (va : Word) (bytes : List Byte) (ext : List (Nat × Nat))
  | rsig (rank : Nat) (core : Nat) (u : SeqId) (asid : BitVec 12) (target : Nat) (sem : BitVec 8) (inc : Nat)
  | access (rank : Nat) (a : PAccess)
  | reply (rank : Nat) (code : Option (BitVec 10)) (data : List Byte)
  | answer (rank : Nat) (id : Nat) (a : PAnswer)
  | pin (rank : Nat) (asid : BitVec 12) (va : Word)
  | pageMove (rank : Nat) (asid : BitVec 12) (va : Word) (bytes : List Byte) (ages : List Nat)
  | nack (port : Nat) (expected : BitVec 12)
  | keyUpdate (port : Nat)
  | msix (vector : Nat)
  | hostRead (bytes : List Byte)
  | hostAbort
  | spdm (r : SpdmResp)
  | installed (rank : Nat) (asid : BitVec 12) (va : Word)
  | report (bars : List Nat)
  | ifaceState (code : Nat)
  deriving DecidableEq, Repr

/-- A Phondor link port (R374, R375, R323): whether it is trained and keyed, its retired lanes, the number that it
expects, the number of its next flit, the flits kept for replay, replays without progress, flits and key updates of
either direction. -/
structure Port where
  up      : Bool
  keyed   : Bool
  lanes   : List Nat
  expect  : BitVec 12
  send    : BitVec 12
  unacked : List (BitVec 12 × OutMsg)
  /-- messages that wait for keys, or for room among the kept flits -/
  waiting : List OutMsg
  replays : Nat
  rxFlits : Nat
  txFlits : Nat
  rxKeys  : Nat
  txKeys  : Nat
  deriving DecidableEq, Repr

/-- The TDISP interface state (R324). -/
inductive Iface where
  | unlocked | locked | run | error
  deriving DecidableEq, Repr

/-- A swap pair under way (R317). -/
structure Swap where
  asid   : BitVec 12
  near   : Nat
  far    : Nat
  leafA  : Nat
  leafB  : Nat
  /-- lines exchanged so far: bits 0 to done - 1 of the progress bitmap -/
  done   : Nat
  /-- pages of MIGA and MIGB as the pair started -/
  pages  : Nat × Nat := (0, 0)
  deriving DecidableEq, Repr

/-- Everything of the device outside the cores. -/
structure Dev where
  -- memory
  hbm       : List Host.Cell
  /-- dirty bytes held in L2, by physical address -/
  l2        : SMap Byte
  /-- writes accepted at the far-tier port and not yet forwarded, oldest first -/
  farPort   : List FarW
  far       : List Host.Cell
  /-- 32-byte HBM words that hold an uncorrectable error (R376) -/
  badWords  : List Nat
  /-- 32-byte HBM words that hold an error within one symbol (R376) -/
  softWords : List Nat
  /-- 8-byte words that hold an uncorrectable error in an L2 slice, by physical address / 8, and in a scratchpad, by
  window key / 8 (R377) -/
  badL2     : List Nat
  badWin    : List Nat
  /-- the TLBs (R311), newest entry first, and the walker's copy of the ASID table (R305): an entry that it could not read
  is 2^256 -/
  tlb       : List TlbEnt
  asidTab   : SMap Nat
  /-- cluster windows: byte w of cluster k (of 36) at key 2^23 k + w, and the swizzle tag of line n at key 2^16 k + n -/
  win       : SMap Byte
  tags      : SMap (BitVec 3)
  -- units
  ce        : Vector CopyEngine 48
  nops      : List NOp
  peerOut   : List PeerOut
  /-- accesses to PEER pages that await or hold the answer of their home, and the number of the next one -/
  reqs      : List PReq
  nextReq   : Nat
  /-- PEER pages that move to their partners -/
  moves     : List PMove
  appends   : List Append
  qposts    : List QPost
  nextQid   : Nat
  /-- CACQs waiting, in arrival order: physical address of the clasp and core (R235) -/
  claspWait : List (Nat × Nat)
  rwins     : List RWin
  pleats    : Vector Pleat 16
  -- scheduler
  queues    : SMap QRegs
  launches  : List Launch
  nextLaunch : Nat
  ready     : List Work
  saved     : List Saved
  /-- the queue whose record the dispatcher read last (R277) -/
  lastQ     : Nat
  /-- records that the ready ring at an address has taken (R285, R288) -/
  rings     : SMap Nat
  /-- dispatches that went to other regions since a region's last one, by key 16 region + priority (R286) -/
  passed    : SMap Nat
  -- host-visible registers (R327)
  rtbase    : Word
  asidbase  : Word
  sealbase  : Word
  sealcmd   : Word
  tlbinva   : Word
  tlbinvc   : Word
  /-- the first page that the invalidation under way names: TLBINVA as it stood at its start (R312) -/
  tlbPage   : Nat
  miga      : Word
  migb      : Word
  migc      : Word
  swap      : Option Swap
  herrlog   : Word
  fwaddr    : Word
  fwlen     : Word
  fwstat    : Word
  rollback  : Nat
  fwSvn     : Nat
  fwAdvance : Bool
  /-- digest of the header and payload of the running firmware (R326) -/
  fwHash    : List Byte
  /-- the compute dies are held in reset after a loss of power-good (R381) -/
  powerLost : Bool
  elogbase  : Word
  eloghead  : Word
  elogtail  : Word
  elogCount : List (BitVec 10 × Nat × Nat)
  /-- request counts of the page-request rings, by ASID (R315) -/
  pgCount   : SMap Nat
  seam      : Seam
  ports     : Vector Port 24
  /-- rank routes that system software has written since reset (R385) -/
  routes    : SMap (Fin 24)
  lostRanks : List Nat
  iface     : Iface
  teardown  : Bool
  /-- IDE streams that are keyed and enabled (R323) -/
  ide       : List Nat
  /-- ASIDs whose XTS keys the far-tier port holds, with the number of the key (R323) -/
  xts       : List (Nat × Nat)
  /-- ASIDs with a key whose SEAL a trusted write has cleared since, and the key drawn if another has set it again: from the
  next invalidation of the whole ASID on these stand (R305, R323) -/
  xtsDue    : List (Nat × Option Nat)
  /-- number of the next XTS key, and the key under which a far-tier line is encrypted, by physical address / 64; a line
  that is not listed is plaintext, key 0 -/
  nextKey   : Nat
  farKey    : SMap Nat
  bootCount : Nat
  spdmLeaf  : Nat
  /-- demotions of a row since boot by key: each moves it into the next stricter filter (R378) -/
  retention : SMap Nat
  hot       : Vector Bool 16
  /-- spare rows used per bank, by key 4,096 stack + bank, and retired cuff units (R379) -/
  spareRows : SMap Nat
  cuffOut   : List Nat
  /-- matrix columns replaced per core, by global core number -/
  columns   : SMap Nat
  /-- SRAM arrays out of use (R379): kind (0 an L2 way, 1 to 8 result queue kind - 1), die and core -/
  sramOut   : List (Nat × Nat × Nat)
  throttle  : Nat
  outbox    : List OutMsg
  deriving DecidableEq, Repr

/-- A fault of storage or of a data path, as it strikes (R90, R331, R376, R377): a symbol, or more than the code corrects, of
a 32-byte HBM word; a pleat block's metadata; an 8-byte word of a core's L1, of an L2 slice or of a scratchpad, or a line
of an instruction store, by address / 8, / 8, / 8 and / 64; a queue vector; a link buffer of a port; one bit of an SRAM array at
a place; a residue. -/
inductive Upset where
  | dram (word : Nat) (lasting : Bool)
  | blockMeta (stack block : Nat)
  | l1 (core word : Nat)
  | code (core line : Nat)
  | l2 (word : Nat)
  | scratchpad (word : Nat)
  | queue (core q slot : Nat)
  | linkBuffer (port : Nat)
  | oneBit (place : Nat)
  | residue (core : Nat) (place : ResPlace) (lasting : Bool)
  deriving DecidableEq, Repr

/-- Which unit of which core moves, or which event of the device or its surroundings comes next. A transfer may move only so
many groups in its turn (R11), and a sequencer may issue a confined word past the one in flight (R363). System software may
write the route of a rank (R385). -/
inductive Turn where
  | unit (core : Nat) (u : UnitId)
  | part (core : Nat) (u : UnitId) (n : Nat)
  | early (core : Nat) (u : SeqId)
  | upset (f : Upset)
  | route (rank : Nat) (port : Fin 24)
  | event (i : Instr)
  deriving DecidableEq, Repr

/-- The machine. `core` is the core in focus, on which `exec` runs an instruction word; `unit` is the engine sequencer
on which it runs an engine word. `sched` says which unit or event moves next; when it is empty the units take turns.
`free` numbers the free values drawn so far, and `part` bounds the groups that a transfer moves in the turn under way (R11,
log entry 7): they are the model's own fields. -/
structure State where
  core   : Core
  others : SMap Core
  dev    : Dev
  unit   : UnitId
  sched  : List Turn
  cycle  : Word
  free   : Nat
  part   : Option Nat
  deriving DecidableEq, Repr

/-- An idle sequencer with every register zero. -/
def Seq.init : Seq :=
  { idx := Vector.replicate 16 0, pc := 0, running := false, queue := [], flight := none, cause := none,
    delivered := false, resume := none, wait := .none, drained := false }

/-- A tile at reset and at task start: ACC48 format, every entry +0, clear status (R181). -/
def Tile.init : Tile := { f64 := false, nv := false, of := false, ent := [] }

/-- An empty result queue. -/
def RQueue.init : RQueue := { vecs := [], held := 0, rsvd := 0 }

/-- A core after reset. WDOG_LIMIT resets to 0x0100_0000 (R299); stream registers, tiles, panel, queues and semaphores
as R96, R181 and R284 give them; semaphore masks 0x7F. Registers for which the manual gives no reset value are zero:
DESIGN CHOICE (log entry 6). -/
def Core.init (gcore : Nat) : Core :=
  { gcore, x := Vector.replicate 32 0, pc := 0, xwait := .none, wfeHit := false, twaitLate := false, handler := false,
    delivered := none, fctl := 0, fstat := 0, vfctl := 0, vfstat := 0, seqno := Vector.replicate 8 0, snapshot := none,
    txnAid := none, txnDead := false, taskFrame := 0, regionId := 0, asid := 0, sealBit := false, trapCause := 0, trapPc := 0, trapAddr := 0,
    trapInfo := 0, trapVec := 0, wdogLimit := 0x01000000, ev := 0, l := Seq.init, c := Seq.init, s := Seq.init,
    g := Vector.replicate 16 { desc := 0, pos := 0 }, v := Vector.replicate 64 0, p := Vector.replicate 16 0,
    vrb := 0, prb := 0, lflags := [], a := Vector.replicate 4 Tile.init, gp := Tile.init, wp := none,
    q := Vector.replicate 8 RQueue.init, tok := Vector.replicate 12 0, sem := Vector.replicate 256 0,
    semMask := Vector.replicate 256 0x7F, l1 := [], badL1 := [], code := [], resident := [], fetched := [],
    badCode := [], residues := [], task := none, saving := none, retired := false }

/-- A pleat controller after reset: region off, every outcome aborted (R332, R347). -/
def Pleat.init : Pleat :=
  { en := false, busy := false, nframes := 0, first := 0, blocks := [], window := [], badMeta := [], passDue := false, began := 0 }

/-- The Seam node after reset (R338, R347). -/
def Seam.init : Seam :=
  { cfg := 0, tmo := 0x07D001F4, state := .disabled, aid := 0, flags := 0, lAid := 0, lOut := 0, lFlags := 0, frank := 0,
    collect := none, sent := false, queries := 0 }

/-- A link port after reset: not trained, no keys (R323). -/
def Port.init : Port :=
  { up := false, keyed := false, lanes := [], expect := 0, send := 0, unacked := [], waiting := [], replays := 0, rxFlits := 0,
    txFlits := 0, rxKeys := 0, txKeys := 0 }

/-- The device after reset: memory with nothing listed, the registers of R327 and R347 at their reset values. -/
def Dev.init : Dev :=
  { hbm := [], l2 := [], farPort := [], far := [], badWords := [], softWords := [], badL2 := [], badWin := [], tlb := [], asidTab := [], win := [], tags := [],
    ce := Vector.replicate 48 { seq := Seq.init, posts := [], prog := none }, nops := [], peerOut := [], reqs := [], nextReq := 0, moves := [], appends := [], qposts := [],
    nextQid := 0, claspWait := [], rwins := [], pleats := Vector.replicate 16 Pleat.init, queues := [], launches := [],
    nextLaunch := 0, ready := [], saved := [], lastQ := 1023, rings := [], passed := [], rtbase := 0, asidbase := 0, sealbase := 0, sealcmd := 0, tlbinva := 0,
    tlbinvc := 0, tlbPage := 0, miga := 0, migb := 0, migc := 0, swap := none, herrlog := 0, fwaddr := 0, fwlen := 0, fwstat := 0,
    rollback := 0, fwSvn := 0, fwAdvance := false, fwHash := [], powerLost := false, elogbase := 0, eloghead := 0, elogtail := 0, elogCount := [],
    pgCount := [], seam := Seam.init, ports := Vector.replicate 24 Port.init, routes := [], lostRanks := [], iface := .unlocked,
    teardown := false, ide := [], xts := [], xtsDue := [], nextKey := 1, farKey := [], bootCount := 0, spdmLeaf := 0, retention := [],
    hot := Vector.replicate 16 false, spareRows := [], cuffOut := [], columns := [], sramOut := [], throttle := 0, outbox := [] }

/-- The machine right after reset: no task is resident, the compute dies are held in reset (FWSTAT = 0, R325), and
CYCLE is 0 (R39). -/
def State.reset : State :=
  { core := Core.init Config.bootCore, others := [], dev := Dev.init, unit := .x, sched := [], cycle := 0, free := 0, part := none }

end Sys2Proof.Machine
end

