-- ==== Sys2Proof/Machine/Mem.lean ====
section
/-! DEFINITION. Memory: the physical map and its levels (R203 to R205, R307), pleat blocks (R331 to R336), page tables
and sealing (R305 to R313, R321), and reads and writes at a virtual address by a unit. -/

namespace Sys2Proof.Machine

/-- A result, or the cause that stops the access. -/
abbrev Res (α : Type) := Except CauseRec α

/-- Raises a cause that has no address. -/
def raise {α : Type} (c : Cause) (info : Word := 0) : Res α := .error { cause := c, info }

/-- Raises a cause at an address. -/
def raiseAt {α : Type} (c : Cause) (a : Nat) (write : Bool := false) (fetch : Bool := false) (info : Word := 0) : Res α :=
  .error { cause := c, addr := some (BitVec.ofNat 64 a), write, fetch, info }

/-- Class and detail of a cause. -/
def causeCD : Cause → Nat × Nat
  | .illegal => (0, 0) | .priv => (0, 1) | .seqMismatch => (0, 2) | .operand => (0, 3) | .alignPc => (0, 4) | .brk => (0, 5)
  | .invalid => (1, 0) | .divzero => (1, 1) | .overflow => (1, 2) | .underflow => (1, 3) | .inexact => (1, 4)
  | .intDivzero => (1, 5) | .residue => (1, 6)
  | .unmapped => (2, 0) | .perm => (2, 1) | .align => (2, 2) | .swizzle => (2, 3) | .windowConflict => (2, 4)
  | .sealed => (2, 5) | .pleatAttr => (2, 6) | .cuffAttr => (2, 7)
  | .queueOvf => (3, 0) | .queueUnf => (3, 1) | .semOvf => (3, 2) | .tokenOvf => (3, 3) | .tokenUnf => (3, 4)
  | .waitTimeout => (3, 5) | .graphOvf => (3, 6)
  | .aborted => (4, 0) | .noAttempt => (4, 1) | .voteTimeout => (4, 2) | .windowWrap => (4, 3)
  | .peerTimeout => (5, 0) | .replayExhausted => (5, 1) | .laneRetired => (5, 2) | .peerLost => (5, 3)
  | .dramUe => (6, 0) | .cuffBankUe => (6, 1) | .sramUe => (6, 2) | .residuePersist => (6, 3)
  | .thermal => (7, 0) | .power => (7, 1) | .attest => (7, 2) | .firmware => (7, 3)

/-- Class of a cause. -/
def causeClass (c : Cause) : Nat := (causeCD c).1

/-- The 10-bit cause code. -/
def causeCode (c : Cause) (unit : Nat) : BitVec 10 := BitVec.ofNat 10 ((causeCD c).1 * 128 + unit * 16 + (causeCD c).2)

/-- Every cause of the cause table. -/
def allCauses : List Cause :=
  [Cause.illegal, .priv, .seqMismatch, .operand, .alignPc, .brk, .invalid, .divzero, .overflow, .underflow, .inexact,
    .intDivzero, .residue, .unmapped, .perm, .align, .swizzle, .windowConflict, .sealed, .pleatAttr, .cuffAttr, .queueOvf,
    .queueUnf, .semOvf, .tokenOvf, .tokenUnf, .waitTimeout, .graphOvf, .aborted, .noAttempt, .voteTimeout, .windowWrap,
    .peerTimeout, .replayExhausted, .laneRetired, .peerLost, .dramUe, .cuffBankUe, .sramUe, .residuePersist, .thermal,
    .power, .attest, .firmware]

/-- Changes the device. -/
def State.onDev (s : State) (f : Dev → Dev) : State := { s with dev := f s.dev }

/-- Changes the core in focus. -/
def State.onCore (s : State) (f : Core → Core) : State := { s with core := f s.core }

/-! ### Messages out of the package -/

/-- The rank that a message goes to over the links. -/
def linkRank : OutMsg → Option Nat
  | .seamVote r _ | .seamDecide r _ | .seamQuery r _ | .seamOpen r _ => some r
  | .xferElem r _ _ _ _ _ _ | .rsig r _ _ _ _ _ _ => some r
  | .access r _ | .reply r _ _ | .answer r _ _ | .pin r _ _ | .pageMove r _ _ _ _ | .installed r _ _ => some r
  | _ => none

/-- A port may send a flit now: it carries P and Seam traffic once it is trained and keyed (R323), and keeps at most 512
flits for replay (R374). -/
def Port.open (p : Port) : Bool := p.up && p.keyed && decide (p.unacked.length < 512) && p.waiting.isEmpty

/-- A port sends a flit: it is numbered, counted, and kept for replay. How messages fill the 256-byte flits is the model's
choice, which the spec leaves open (log 93): every message is one numbered flit, whatever its bytes. -/
def Port.push (p : Port) (m : OutMsg) : Port :=
  { p with send := p.send + 1, unacked := p.unacked ++ [(p.send, m)], txFlits := p.txFlits + 1 }

/-- The port through which a rank is reached: the route that system software has written, or the one of its set-up (R385). -/
def Dev.routeOf (d : Dev) (r : Nat) : Fin 24 := sget (Config.route r) d.routes r

/-- Sends a message out of the package; one for a rank goes through the port of its route, or waits there. -/
def Dev.send (d : Dev) (m : OutMsg) : Dev :=
  match linkRank m with
  | none => { d with outbox := d.outbox ++ [m] }
  | some r =>
    let k := d.routeOf r
    let p := d.ports[k.val]'(k.isLt)
    if p.open then { d with outbox := d.outbox ++ [m], ports := d.ports.set k.val (p.push m) (k.isLt) }
    else { d with ports := d.ports.set k.val { p with waiting := p.waiting ++ [m] } (k.isLt) }

/-- The messages that wait at a port go out while it may send, on fuel. -/
def releaseWaiting (k : Fin 24) : Nat → Dev → Dev
  | 0, d => d
  | n + 1, d =>
    let p := d.ports[k.val]'(k.isLt)
    match p.waiting with
    | [] => d
    | m :: ms =>
      if Port.open { p with waiting := [] } then
        releaseWaiting k n { d with outbox := d.outbox ++ [m], ports := d.ports.set k.val (Port.push { p with waiting := ms } m) (k.isLt) }
      else d

/-! ### Bytes of the physical map (R307) -/

/-- The value at a key, if listed. -/
def slook {α : Type} : SMap α → Nat → Option α
  | [], _ => none
  | (k, v) :: m, i => if k = i then some v else slook m i

/-- First address beyond HBM. -/
def hbmEnd : Nat := 2 ^ 40

/-- First address of the far tier. -/
def farBase : Nat := 2 ^ 48

/-- A memory is in canonical form: addresses strictly rise, and no entry equals what an unlisted address reads as. -/
def Memory.wf (m : List Host.Cell) : Bool := swf Config.powerOnByte m

/-- A byte of home memory. -/
def hbmByte (d : Dev) (pa : Nat) : Byte := sget Config.powerOnByte d.hbm pa

/-- The word of 32 bytes has an uncorrectable error that no dirty copy hides (R376). -/
def wordBad (d : Dev) (pa : Nat) : Bool :=
  d.badWords.contains (pa / 32) && !(List.range 32).all (fun i => (slook d.l2 (pa / 32 * 32 + i)).isSome)

/-- A byte as the home L2 slice holds it. -/
def l2Byte (d : Dev) (pa : Nat) : Byte := (slook d.l2 pa).getD (hbmByte d pa)

/-- An L2 slice holds an uncorrectable error in bytes (R377). -/
def l2Bad (d : Dev) (pa n : Nat) : Bool := d.badL2.any fun w => decide (8 * w < pa + n) && decide (pa < 8 * w + 8)

/-- Bytes read at the home L2 slice; none for an uncorrectable error of the slice or of home memory (R376, R377). -/
def l2Read (d : Dev) (pa n : Nat) : Option (List Byte) :=
  if l2Bad d pa n || (List.range n).any (fun i => wordBad d (pa + i)) then none
  else some ((List.range n).map (fun i => l2Byte d (pa + i)))

/-- A write performed at the home L2 slice. -/
def l2Write (d : Dev) : Nat → List Byte → Dev
  | _, [] => d
  | pa, b :: bs => l2Write { d with l2 := sput b d.l2 pa } (pa + 1) bs

/-- A number joins a list once. -/
def addOnce (l : List Nat) (n : Nat) : List Nat := if l.contains n then l else l ++ [n]

/-- 8-byte words that a write does not cover whole keep their errors (R377). -/
def keepBad (l : List Nat) (lo n : Nat) : List Nat := l.filter fun w => !(decide (lo ≤ 8 * w) && decide (8 * w + 8 ≤ lo + n))

/-- Slice of a line of 128 bytes: its die and its number there (R1, R15). -/
def lineSlice (l : Nat) : Nat × Nat := (128 * l / 2 ^ 38 % 4, (Config.homeSlice l).val)

/-- The lines of 128 bytes that a slice holds bytes of. -/
def sliceHolds (d : Dev) (sl : Nat × Nat) : List Nat := ((d.l2.map fun c => c.1 / 128).filter fun l => lineSlice l == sl).eraseDups

/-- The write-back of the dirty L2 bytes that a predicate selects. -/
def wbWhere (d : Dev) (f : Nat → Bool) : Dev :=
  let out := d.l2.filter (fun c => f c.1)
  { d with
    hbm := out.foldl (fun m c => sset Config.powerOnByte m c.1 c.2) d.hbm
    l2 := d.l2.filter (fun c => !f c.1)
    badWords := d.badWords.filter (fun w => !(List.range 32).all (fun i => (slook out (32 * w + i)).isSome)) }

/-- A write performed at home memory; the L2 copy is dropped (R204). -/
def homeWrite (d : Dev) : Nat → List Byte → Dev
  | _, [] => d
  | pa, b :: bs => homeWrite { d with l2 := sdel d.l2 pa, hbm := sset Config.powerOnByte d.hbm pa b } (pa + 1) bs

/-- The slice of a line, where it holds more lines than it can, writes another one back, outside open windows (R1, R238). -/
def lineRoom (d : Dev) (line : Nat) : Dev :=
  let ls := sliceHolds d (lineSlice line)
  let free := ls.filter fun l => !(d.rwins.any fun w => w.lines.contains l) && l != line
  if ls.length ≤ Config.sliceLines then d
  else match free[Config.victim free.length % free.length]? with
    | some v => wbWhere d fun p => p / 128 == v
    | none => d

/-- Each slice that a write of n bytes has given a line makes room for it. -/
def l2Room (d : Dev) (pa n : Nat) : Dev :=
  if d.l2.length ≤ Config.sliceLines then d
  else ((List.range (n / 128 + 2)).map (pa / 128 + ·)).foldl (fun d l => if 128 * l < pa + n then lineRoom d l else d) d

/-- The bytes lie in the entries of the ASID table that a range of n bytes touches: their request counts become 0 (R315). -/
def clearCounts (d : Dev) (pa n : Nat) : Dev :=
  if pa + n ≤ d.asidbase.toNat || d.asidbase.toNat + 131072 ≤ pa then d
  else { d with pgCount := d.pgCount.filter fun e =>
    !(decide (d.asidbase.toNat + 32 * e.1 < pa + n) && decide (pa < d.asidbase.toNat + 32 * e.1 + 32)) }

/-- A store performed at the home L2 slice: whole 8-byte words lose their errors, and the slices keep to their size. -/
def l2Store (d : Dev) (pa : Nat) (bs : List Byte) : Dev :=
  let d := l2Write (clearCounts d pa bs.length) pa bs
  l2Room { d with badL2 := keepBad d.badL2 pa bs.length } pa bs.length

/-- A store performed at home memory: whole 32-byte words lose their errors (R376). -/
def homeStore (d : Dev) (pa : Nat) (bs : List Byte) : Dev :=
  let d := homeWrite (clearCounts d pa bs.length) pa bs
  let keep (w : Nat) : Bool := !(decide (pa ≤ 32 * w) && decide (32 * w + 32 ≤ pa + bs.length))
  { d with badWords := d.badWords.filter keep, softWords := d.softWords.filter keep, badL2 := keepBad d.badL2 pa bs.length }

/-- The writes waiting at the far-tier port reach far memory in order (R204). -/
def farForward (d : Dev) : Dev :=
  { d with far := d.farPort.foldl (fun m c => sset Config.powerOnByte m c.pa c.b) d.far, farPort := [] }

/-- A byte of the far tier, decrypted: the latest write that the port accepted. -/
def farByte (d : Dev) (pa : Nat) : Byte :=
  match d.farPort.reverse.find? (fun c => c.pa == pa) with
  | some c => c.b
  | none => sget Config.powerOnByte d.far pa

/-- Writes of a path accepted at the far-tier port. -/
def farWrite (d : Dev) (ph : Path) : Nat → List Byte → Dev
  | _, [] => d
  | pa, b :: bs => farWrite { d with farPort := d.farPort ++ [{ pa, b, path := ph }] } ph (pa + 1) bs

/-- The XTS key of an ASID (R323); 0 where the port holds none for it. -/
def xtsKey (d : Dev) (asid : BitVec 12) : Nat :=
  match d.xts.find? fun k => k.1 == asid.toNat with
  | some k => k.2
  | none => 0

/-- The key of a far-tier line. -/
def lineKey (d : Dev) (pa : Nat) : Nat := sget 0 d.farKey (pa / 64)

/-- A block under a key, at its address: plaintext under key 0 (R323). -/
def xtsPerm (key blk : Nat) : Equiv.Perm (BitVec 128) := if key = 0 then Equiv.refl _ else Config.xts key blk

/-- The i-th byte of a 16-byte block as a reader with one key finds it when it was encrypted under another. -/
def decipher (rd wr blk : Nat) (plain : List Byte) (i : Nat) : Byte :=
  ((xtsPerm rd blk).symm (xtsPerm wr blk (BitVec.ofNat 128 (ofBytesLE plain)))).extractLsb' (8 * i) 8

/-- A byte of the far tier as a reader with a key finds it. -/
def farByteAs (d : Dev) (key pa : Nat) : Byte :=
  if lineKey d pa = key then farByte d pa
  else decipher key (lineKey d pa) (pa / 16) ((List.range 16).map fun i => farByte d (pa / 16 * 16 + i)) (pa % 16)

/-- A line of the far tier comes under a key: what stood there under another one reads as that reader finds it. It is
forwarded at once, so that far memory holds each line under its key. -/
def rekeyLine (d : Dev) (ph : Path) (key pa : Nat) : Dev :=
  if lineKey d pa = key then d
  else
    let base := pa / 64 * 64
    let d' := farForward (farWrite d ph base ((List.range 64).map fun i => farByteAs d key (base + i)))
    { d' with farKey := sset 0 d'.farKey (pa / 64) key }

/-- A store of a path accepted at the far-tier port, encrypted under a key: each line is one data unit (R323). -/
def farStore (d : Dev) (ph : Path) (key pa : Nat) (bs : List Byte) : Dev :=
  let d := (List.range (bs.length / 64 + 2)).foldl
    (fun d i => if pa / 64 + i ≤ (pa + bs.length - 1) / 64 then rekeyLine d ph key (64 * (pa / 64 + i)) else d) d
  farWrite d ph pa bs

/-! ### Pleat blocks (R331 to R336) -/

/-- The stack of an HBM address (R307). -/
def stackOf (pa : Nat) : Nat := pa / 2 ^ 36 % 16

/-- A pleat controller by stack. -/
def pleatAt (d : Dev) (stack : Nat) : Pleat := d.pleats[stack % 16]'(Nat.mod_lt _ (by decide))

/-- Changes a pleat controller. -/
def pleatSet (d : Dev) (stack : Nat) (p : Pleat) : Dev :=
  { d with pleats := d.pleats.set (stack % 16) p (Nat.mod_lt _ (by decide)) }

/-- The frame of an address within its stack, PA[35:12]. -/
def frameIn (pa : Nat) : Nat := pa / 4096 % 2 ^ 24

/-- The address lies in a region whose metadata are being initialised (R347). -/
def regionBusy (d : Dev) (pa : Nat) : Bool :=
  let p := pleatAt d (stackOf pa)
  pa < hbmEnd && p.en && p.busy && p.first ≤ frameIn pa && frameIn pa < p.first + 2 * p.nframes

/-- The address lies in a primary frame of an enabled region. -/
def isPrimary (d : Dev) (pa : Nat) : Bool :=
  let p := pleatAt d (stackOf pa)
  pa < hbmEnd && p.en && p.first ≤ frameIn pa && frameIn pa < p.first + p.nframes

/-- The address lies in a secondary frame of an enabled region. -/
def isSecondary (d : Dev) (pa : Nat) : Bool :=
  let p := pleatAt d (stackOf pa)
  pa < hbmEnd && p.en && p.first + p.nframes ≤ frameIn pa && frameIn pa < p.first + 2 * p.nframes

/-- Index of a pleat block in its region. -/
def blockOf (d : Dev) (pa : Nat) : Nat := (frameIn pa - (pleatAt d (stackOf pa)).first) * 16 + pa % 4096 / 256

/-- SEL and AID of a block (R331). -/
def blockMeta (d : Dev) (pa : Nat) : Bool × BitVec 16 := sget (false, 0) (pleatAt d (stackOf pa)).blocks (blockOf d pa)

/-- The outcome o(y) of an AID (R332). -/
def outcomeOf (p : Pleat) (y : BitVec 16) : PleatOutcome := sget .aborted p.window (y.toNat % 4096)

/-- The committed slot C (R332). -/
def committedSlot (p : Pleat) (m : Bool × BitVec 16) : Bool :=
  if outcomeOf p m.2 = .committed then !m.1 else m.1

/-- The slot that an access with a match set reads (R333). -/
def readSlot (p : Pleat) (mset : List (BitVec 16)) (m : Bool × BitVec 16) : Bool :=
  if mset.contains m.2 then !m.1 else committedSlot p m

/-- The address of a slot's byte: slot 1 is in the secondary frame. -/
def slotPa (p : Pleat) (slot : Bool) (pa : Nat) : Nat := if slot then pa + p.nframes * 4096 else pa

/-- A byte read at the pleat controller. -/
def pleatByte (d : Dev) (mset : List (BitVec 16)) (pa : Nat) : Byte :=
  let p := pleatAt d (stackOf pa)
  hbmByte d (slotPa p (readSlot p mset (blockMeta d pa)) pa)

/-- The slot bytes have an uncorrectable error. -/
def pleatBad (d : Dev) (mset : List (BitVec 16)) (pa : Nat) : Bool :=
  let p := pleatAt d (stackOf pa)
  d.badWords.contains (slotPa p (readSlot p mset (blockMeta d pa)) pa / 32)

/-- The metadata of a block hold an uncorrectable error (R331). -/
def metaBad (d : Dev) (pa : Nat) : Bool := (pleatAt d (stackOf pa)).badMeta.contains (blockOf d pa)

/-- A write folds its block, and the slot that the fold copies holds an uncorrectable error. -/
def foldBad (d : Dev) (mset : List (BitVec 16)) (pa : Nat) : Bool :=
  let p := pleatAt d (stackOf pa)
  let src := slotPa p (committedSlot p (blockMeta d pa)) (pa / 256 * 256)
  !mset.contains (blockMeta d pa).2 && (List.range 8).any fun k => d.badWords.contains (src / 32 + k)

/-- The fold of a block (R334): the committed slot is copied to the other one, SEL names it and AID is the writer's. -/
def pleatFold (d : Dev) (aid : BitVec 16) (pa : Nat) : Dev :=
  let st := stackOf pa
  let p := pleatAt d st
  let base := pa / 256 * 256
  let c := committedSlot p (blockMeta d pa)
  let src := slotPa p c base
  let dst := slotPa p (!c) base
  let bs := (List.range 256).map (fun i => hbmByte d (src + i))
  let d1 := homeStore d dst bs
  pleatSet d1 st { p with blocks := sset (false, 0) p.blocks (blockOf d pa) (c, aid) }

/-- A byte written inside an attempt: the block folds first unless its AID is in the match set (R334). -/
def pleatPut (d : Dev) (mset : List (BitVec 16)) (aid : BitVec 16) (pa : Nat) (b : Byte) : Dev :=
  let d1 := if mset.contains (blockMeta d pa).2 then d else pleatFold d aid pa
  homeWrite d1 (slotPa (pleatAt d1 (stackOf pa)) (!(blockMeta d1 pa).1) pa) [b]

/-! ### Who accesses -/

/-- What an access takes from its unit: ASID, match set (R330), the attempt it folds under, whether it acts under the
Seam ASID, the task's TXN_AID, the run of a checking launch, the unit itself with its TLB (R311), and its path (R20); an access of the
device has no unit and walks the tables each time. -/
structure Acc where
  asid : BitVec 12
  mset : List (BitVec 16)
  foldAid : BitVec 16
  seam : Bool
  txn : Option (BitVec 16)
  run : Nat
  /-- the attempt of TXN_AID was decided aborted -/
  dead : Bool := false
  unit : Option (Nat × UnitId) := none
  path : Path := .x
  deriving DecidableEq, Repr

/-- SEAMCFG.ASID. -/
def seamAsid (d : Dev) : BitVec 12 := d.seam.cfg.extractLsb' 44 12

/-- SEAMCFG.EN. -/
def seamEn (d : Dev) : Bool := d.seam.cfg.getLsbD 63

/-- The access identity of a task with an ASID (R330, R357). -/
def accFor (d : Dev) (asid : BitVec 12) (txn : Option (BitVec 16)) (run : Nat) : Acc :=
  let seam := asid == seamAsid d
  let a := d.seam.aid
  let inside := seam && seamEn d && decide (d.seam.state = .opened)
  { asid, txn, run, seam,
    mset := if inside then (if run == 1 then [a, a + 1] else [a]) else []
    foldAid := if run == 1 then a + 1 else a }

/-- The access identity of an access of the device itself, outside any attempt (R330). -/
def accDev (d : Dev) (asid : BitVec 12) : Acc := { accFor d asid none 0 with mset := [] }

/-- The path of a unit's accesses; C reads on that of L, whose TLB it uses (R311). -/
def pathOf : UnitId → Path
  | .x => .x
  | .seq .l | .seq .c => .l
  | .seq .s => .s
  | .seq (.e _) => .e

/-- The access identity of a unit of the task on the core in focus. -/
def accOf (s : State) : Acc :=
  { accFor s.dev s.core.asid s.core.txnAid ((s.core.task.map (·.run)).getD 0) with
    dead := s.core.txnDead, unit := some (s.core.gcore, s.unit), path := pathOf s.unit }

/-- The causes of a write of n bytes to a PLEAT page (R331, R334, R357, R376). -/
def pleatWriteCheck (d : Dev) (a : Acc) (va pa n : Nat) : Res Unit :=
  let blocks := [pa, pa + n - 1]
  if a.mset.isEmpty then
    match a.seam && a.dead, a.txn with
    | true, some t => raiseAt .aborted va true false (t.setWidth 64)
    | _, t => raiseAt .noAttempt va true false ((t.getD 0).setWidth 64)
  else if blocks.any (metaBad d) then
    .error { cause := .dramUe, addr := some (BitVec.ofNat 64 va), write := true, info := BitVec.ofNat 64 (stackOf pa), ctl := true }
  else if a.run == 1 && blocks.any fun p => (blockMeta d p).2 == d.seam.aid then raiseAt .pleatAttr va true
  else if blocks.any (foldBad d a.mset) then
    .error { cause := .dramUe, addr := some (BitVec.ofNat 64 va), write := true, info := BitVec.ofNat 64 (stackOf pa), ctl := true }
  else .ok ()

/-! ### Address-space identifiers and sealing (R305, R321) -/

/-- A valid ASID-table entry. -/
structure AsidEnt where
  n : Nat
  deriving DecidableEq, Repr

/-- The table address of an ASID. -/
def asidPa (d : Dev) (a : BitVec 12) : Nat := d.asidbase.toNat + 32 * a.toNat

/-- An entry that the walker could not read. -/
def entBad : Nat := 2 ^ 256

/-- The entry of an ASID in memory; `entBad` where it cannot be read. -/
def asidWord (d : Dev) (a : BitVec 12) : Nat :=
  if asidPa d a + 32 > hbmEnd then 0
  else match l2Read d (asidPa d a) 32 with
    | none => entBad
    | some bs => ofBytesLE bs

/-- An entry is valid: V = 1 and no reserved bit is set (R305). -/
def entOf (n : Nat) : Option AsidEnt :=
  if n < entBad && bit n 0 && fld n 1 2 == 0 && fld n 5 7 == 0 && fld n 52 12 == 0 && fld n 200 7 == 0 && fld n 220 36 == 0
  then some ⟨n⟩ else none

/-- The entry of an ASID as the table in memory gives it. -/
def asidMem (d : Dev) (a : BitVec 12) : Option AsidEnt := entOf (asidWord d a)

/-- The entry that governs translations under an ASID: the walker's copy (R305). -/
def asidEnt (d : Dev) (a : BitVec 12) : Option AsidEnt := entOf (sget 0 d.asidTab a.toNat)

/-- The XTS keys once what trusted writes have made of SEAL of an ASID since its key was drawn governs (R305, R323). -/
def keysDue (d : Dev) (a : Nat) : List (Nat × Nat) :=
  match d.xtsDue.find? fun k => k.1 == a with
  | none => d.xts
  | some (_, none) => d.xts.filter fun k => k.1 != a
  | some (_, some n) => d.xts.map fun k => if k.1 == a then (a, n) else k

/-- An invalidation with ALLVA has completed: the walker takes the entry of an ASID from the table as it stands (R305). -/
def loadAsid (d : Dev) (a : BitVec 12) : Dev :=
  { d with asidTab := sset 0 d.asidTab a.toNat (asidWord d a), xts := keysDue d a.toNat, xtsDue := d.xtsDue.filter (·.1 != a.toNat) }

/-- SEAL of the entry of an ASID takes effect only through a trusted write (R321), which draws its XTS keys (R323). -/
def asidSealed (d : Dev) (a : BitVec 12) (e : AsidEnt) : Bool := bit e.n 3 && d.xts.any fun k => k.1 == a.toNat

/-- The interface is in CONFIG_LOCKED or RUN. -/
def ifaceLocked (d : Dev) : Bool := d.iface = .locked || d.iface = .run

/-- The frames of the ASID table and of the bitmap count as sealed, also until a teardown has finished (R321, R324). -/
def sealsHeld (d : Dev) : Bool := ifaceLocked d || d.teardown

/-- Whether an HBM frame is sealed (R321). -/
def frameSealed (d : Dev) (f : Nat) : Bool :=
  let pa := d.sealbase.toNat + f / 8
  (decide (pa < hbmEnd) && (l2Byte d pa).getLsbD (f % 8))
    || (sealsHeld d && (decide (d.asidbase.toNat / 4096 ≤ f) && decide (f < d.asidbase.toNat / 4096 + 32)
        || decide (d.sealbase.toNat / 4096 ≤ f) && decide (f < d.sealbase.toNat / 4096 + 8192)))

/-- The frame of a physical address breaks the sealing rule of an ASID (R321); the far tier has a rule of its own. -/
def sealBreak (d : Dev) (sealed : Bool) (pa : Nat) : Bool :=
  if pa < hbmEnd then frameSealed d (pa / 4096) != sealed else false

/-- A frame that a sealed ASID's walk names is an HBM frame that is sealed, and one that another's names is not (R321). -/
def namedBreak (d : Dev) (sealed : Bool) (pa : Nat) : Bool := (decide (pa < hbmEnd) && frameSealed d (pa / 4096)) != sealed

/-! ### Translation (R308 to R313) -/

/-- A table entry or other system word read at the home L2 slice, or at the pleat controller (R333). -/
def sysRead (d : Dev) (mset : List (BitVec 16)) (pa n : Nat) : Option (List Byte) :=
  if pa + n > hbmEnd then none
  else if isPrimary d pa then
    if (List.range n).any (fun i => pleatBad d mset (pa + i) || metaBad d (pa + i)) then none
    else some ((List.range n).map (fun i => pleatByte d mset (pa + i)))
  else l2Read d pa n

/-- How an access is checked. -/
inductive Kind where
  | read | write | exec | both
  deriving DecidableEq, Repr

/-- The cause of a translation, at an address. -/
def xerr {α : Type} (k : Kind) (c : Cause) (va : Nat) : Res α :=
  raiseAt c va (k = .write || k = .both) (k = .exec)

/-- A cause of an access whose walk reached a leaf (R310). -/
def leafErr {α : Type} (lpa : Option Nat) (r : Res α) : Res α :=
  match r with
  | .ok a => .ok a
  | .error c => .error { c with leaf := lpa }

/-- An uncorrectable error of a word that an access reads (R366, R376, R378). -/
def dramErr {α : Type} (va pa : Nat) (ctl : Bool := false) : Res α :=
  .error { cause := .dramUe, addr := some (BitVec.ofNat 64 va), info := BitVec.ofNat 64 (stackOf pa), dram := some pa, ctl }

/-- Why n bytes of a system word cannot be read: an error in an L2 slice, in home memory, or in a pleat controller, which
sets CORRUPT whoever reads (R331, R348, R376, R377). -/
def sysErr {α : Type} (d : Dev) (mset : List (BitVec 16)) (va pa n : Nat) : Res α :=
  if isPrimary d pa then
    if metaBad d pa then .error { cause := .dramUe, addr := some (BitVec.ofNat 64 va), info := BitVec.ofNat 64 (stackOf pa), ctl := true }
    else dramErr va (slotPa (pleatAt d (stackOf pa)) (readSlot (pleatAt d (stackOf pa)) mset (blockMeta d pa)) pa) true
  else if l2Bad d pa n then raiseAt .sramUe va
  else dramErr va ((((List.range n).map (pa + ·)).find? (wordBad d)).getD pa)

/-- The seal bit of a frame cannot be read (R376, R377). -/
def sealUnread (d : Dev) (f : Nat) : Bool :=
  let pa := d.sealbase.toNat + f / 8
  decide (pa < hbmEnd) && (l2Bad d pa 1 || wordBad d pa)

/-- The check of the sealing rule on a frame that a walk or an access of an ASID names (R321). -/
def checkSeal (d : Dev) (k : Kind) (va pa : Nat) (broken : Bool) : Res Unit :=
  if pa < hbmEnd && sealUnread d (pa / 4096) then sysErr d [] va (d.sealbase.toNat + pa / 4096 / 8) 1
  else if broken then xerr k .sealed va
  else .ok ()

/-- What the walk finds in the table of a level (R308): the next table, or the level, address and value of the leaf. -/
def walkEntry (d : Dev) (mset : List (BitVec 16)) (sealed : Bool) (k : Kind) (va l tbl : Nat) : Res (Nat ⊕ (Nat × Nat × Nat)) :=
  if tbl ≥ hbmEnd then xerr k .unmapped va
  else
    match checkSeal d k va tbl (sealBreak d sealed tbl) with
    | .error c => .error c
    | .ok () =>
      let pa := tbl + 8 * (va / 2 ^ (12 + 9 * l) % 512)
      if regionBusy d pa then .error { cause := .unmapped, await := some .busy }
      else match sysRead d mset pa 8 with
        | none => sysErr d mset va pa 8
        | some bs =>
          let e := ofBytesLE bs
          if !bit e 0 then xerr k .unmapped va
          else if bit e 1 then (if l ≥ 3 then xerr k .unmapped va else .ok (.inr (l, pa, e)))
          else if fld e 1 11 != 0 || fld e 52 12 != 0 || l == 0 then xerr k .unmapped va
          else .ok (.inl (fld e 12 40 * 4096))

/-- The walk from a table at a level to its leaf (R308). -/
def walk (d : Dev) (mset : List (BitVec 16)) (sealed : Bool) (k : Kind) (va : Nat) : Nat → Nat → Res (Nat × Nat × Nat)
  | 0, tbl => match walkEntry d mset sealed k va 0 tbl with
    | .ok (.inr x) => .ok x
    | .ok (.inl _) => xerr k .unmapped va
    | .error c => .error c
  | l + 1, tbl => match walkEntry d mset sealed k va (l + 1) tbl with
    | .ok (.inr x) => .ok x
    | .ok (.inl t) => walk d mset sealed k va l t
    | .error c => .error c

/-- The address of the slot byte that an access with a match set reads, or the address itself outside the regions (R333). -/
def slotOf (d : Dev) (mset : List (BitVec 16)) (pa : Nat) : Nat :=
  if isPrimary d pa then slotPa (pleatAt d (stackOf pa)) (readSlot (pleatAt d (stackOf pa)) mset (blockMeta d pa)) pa else pa

/-- The words with an error within one symbol that a read of n bytes corrects. -/
def softIn (d : Dev) (mset : List (BitVec 16)) (pa n : Nat) : List Nat :=
  d.softWords.filter fun w => (List.range n).any fun i => slotOf d mset (pa + i) / 32 == w

/-- The words with such an error that a walk reads (R376). -/
def walkSoft (d : Dev) (mset : List (BitVec 16)) (va : Nat) : Nat → Nat → List Nat
  | 0, tbl => softIn d mset (tbl + 8 * (va / 4096 % 512)) 8
  | l + 1, tbl =>
    let pa := tbl + 8 * (va / 2 ^ (12 + 9 * (l + 1)) % 512)
    softIn d mset pa 8 ++ match sysRead d mset pa 8 with
      | some bs =>
        let e := ofBytesLE bs
        if bit e 0 && !bit e 1 && fld e 1 11 == 0 && fld e 52 12 == 0 then walkSoft d mset va l (fld e 12 40 * 4096) else []
      | none => []

/-- A translated address: physical address, page attribute (0 ordinary, 1 PLEAT, 2 CUFF), the rank of the home of a PEER
page that is not this device, whether no cache may hold it (a swapping or PEER page), its leaf, the XTS key of a far-tier
access, the TLBs that take the leaf (none where the first already holds it), the access's match set, under which the walk reads,
and the words that it corrects. -/
structure Xlat where
  pa : Nat
  attr : Nat
  remote : Option Nat
  unc : Bool
  level : Nat
  leafPa : Nat
  leaf : Nat
  key : Nat := 0
  fill : List TlbEnt := []
  mset : List (BitVec 16) := []
  soft : List Nat := []
  deriving DecidableEq, Repr

/-- SEAMCFG.RANK. -/
def ownRank (d : Dev) : Nat := fld d.seam.cfg.toNat 0 12

/-- The leaf names no form of R309 at its level. A CUFF leaf's bank has at most as many entries as a frame group of its
entry size holds: B ≤ Epp (R254). -/
def leafBad (d : Dev) (l e : Nat) : Bool :=
  let attr := fld e 56 2
  let peer := bit e 59
  fld e 60 4 != 0 || fld e 52 4 != 0 || fld e 10 2 != 0
    || attr == 3 || (attr == 2 && l != 1) || (attr != 2 && fld e 8 2 != 0) || (attr == 2 && fld e 8 2 == 3)
    || (bit e 7 && l != 0) || (peer && (l != 0 || bit e 7 || attr != 0))
    || (l == 2 && fld e 12 18 != 0) || (l == 1 && attr != 2 && fld e 12 9 != 0)
    || (attr == 2 && (bit e 20 || fld e 12 6 ≥ 4096 / (64 * 4 ^ fld e 18 2) || 64 * 4 ^ fld e 18 2 > 2 ^ 21 / (256 * 2 ^ fld e 8 2)))
    || (bit e 58 && d.swap.isNone)

/-- The frame address part of a leaf joined with the page offset (R309). -/
def leafPaOf (l e va : Nat) : Nat :=
  match l with
  | 2 => fld e 30 22 * 2 ^ 30 + va % 2 ^ 30
  | 1 => fld e 21 31 * 2 ^ 21 + va % 2 ^ 21
  | _ => if bit e 7 then fld e 16 36 * 2 ^ 16 + va % 2 ^ 16 else fld e 12 40 * 4096 + va % 4096

/-- The rights of a leaf admit the access. -/
def rightsOk (k : Kind) (e : Nat) : Bool :=
  match k with
  | .read => bit e 2
  | .write => bit e 3
  | .exec => bit e 4
  | .both => bit e 2 && bit e 3

/-- The TLBs of a unit (R311), in the order in which it asks them: X has one of its own, which that of its cluster backs, and C
uses that of L. -/
def tlbKeys (g : Nat) : UnitId → List Nat
  | .x => [12288 + g, 4096 + g / 8]
  | .seq .l | .seq .c => [2 * g]
  | .seq .s => [2 * g + 1]
  | .seq (.e m) => [8192 + m]

/-- Entries that a TLB holds. -/
def tlbSize (key : Nat) : Nat :=
  if 12288 ≤ key then Config.coreTlb else if 4096 ≤ key && key < 8192 then Config.clusterTlb else Config.streamTlb

/-- A leaf as its table holds it now; none where it cannot be read. -/
def leafNow (d : Dev) (mset : List (BitVec 16)) (pa : Nat) : Option Nat := (sysRead d mset pa 8).map ofBytesLE

/-- A leaf written by the walker, in the slot that the walk reads. -/
def leafPut (d : Dev) (mset : List (BitVec 16)) (pa v : Nat) : Dev :=
  if isPrimary d pa then homeStore d (slotOf d mset pa) (toBytesLE 8 v) else l2Store d pa (toBytesLE 8 v)

/-- V, PA and the rights of a leaf, which the slice compares before it marks the leaf (R310). -/
def leafCore (e : Nat) : Nat := fld e 0 5 + 2 ^ 12 * fld e 12 40

/-- The leaf of an entry is still as the entry has it, but for its marks (R310). -/
def leafKept (d : Dev) (mset : List (BitVec 16)) (pa e : Nat) : Bool := (leafNow d mset pa).map leafCore == some (leafCore e)

/-- The entry that a unit's TLBs have for an address. A write through an entry whose leaf has D = 0, and the first use of a
prefetched one whose leaf has A = 0, translate again when the leaf has changed (R310, R311). -/
def tlbFind (d : Dev) (a : Acc) (k : Kind) (va : Nat) : Option TlbEnt :=
  match a.unit with
  | none => none
  | some (g, u) => (tlbKeys g u).findSome? fun key => d.tlb.find? fun t => t.key == key && t.asid == a.asid && t.page == va / 4096
      && ((bit t.leaf 5 && (k = .read || k = .exec || bit t.leaf 6)) || leafKept d a.mset t.leafPa t.leaf)

/-- The entries that a unit's TLBs take of a leaf (R311): both of X, or its own one where the cluster's served it. -/
def tlbFills (d : Dev) (a : Acc) (hit : Option TlbEnt) (page level leafPa leaf : Nat) : List TlbEnt :=
  match a.unit with
  | none => []
  | some (g, u) => ((tlbKeys g u).filter fun key => match hit with
      | none => true
      | some t => !(d.tlb.any fun x => x.key == key && x.asid == t.asid && x.page == t.page)).map fun key =>
    { key, asid := a.asid, page, level, leafPa, leaf }

/-- The ASID and the virtual address of an access over the links; none for a signal and a pin. -/
def accPlace : PAccess → Option (BitVec 12 × Word)
  | .read _ a _ va _ | .write _ a _ va _ | .atomic _ a _ va _ _ | .nop _ a _ va _ _ _ | .elem _ a va _ _ => some (a, va)
  | _ => none

/-- The rank at which a unit still awaits an access to a page, which has moved here since: the access comes back to its sender,
and is performed and answered here once (R319, log entry 51). -/
def askedPage (d : Dev) (a : Acc) (va : Nat) : Option Nat :=
  match a.unit with
  | none => none
  | some (g, u) => (d.reqs.find? fun r => r.core == g && decide (r.unit = u) && match accPlace r.acc with
      | some (b, w) => b == a.asid && w.toNat / 4096 == va / 4096
      | none => false).map (·.rank)

/-- The translation of a virtual address through the entry of its ASID and the entry of a TLB, if one has it. -/
def translateBy (d : Dev) (a : Acc) (k : Kind) (va : Nat) (ent : AsidEnt) (hit : Option TlbEnt) : Res Xlat := do
  let sealed := asidSealed d a.asid ent
  let (l, lpa, e) ← match hit with
    | some t => pure (t.level, t.leafPa, t.leaf)
    | none => walk d a.mset sealed k va 4 (fld ent.n 12 40 * 4096)
  if leafBad d l e then xerr k .unmapped va
  let swapping := bit e 58
  match d.swap with
  | some w => if swapping && lpa != w.leafA && lpa != w.leafB then xerr k .unmapped va
  | none => pure ()
  leafErr (if hit.isNone then some (slotOf d a.mset lpa) else none) do
    let base : Xlat := { pa := 0, attr := 0, remote := none, unc := true, level := l, leafPa := lpa, leaf := e, mset := a.mset,
                         fill := tlbFills d a hit (va / 4096) l lpa e }
    if !rightsOk k e then xerr k .perm va
    if bit e 59 then
      if a.run != 0 && (k = .write || k = .both) then xerr k .pleatAttr va
      let dpa := fld ent.n 128 64 + 64 * fld e 12 40
      checkSeal d k va dpa (namedBreak d sealed dpa)
      if dpa + 64 > hbmEnd then xerr k .unmapped va
      if regionBusy d dpa then .error { cause := .unmapped, await := some .busy }
      match sysRead d a.mset dpa 64 with
      | none => sysErr d a.mset va dpa 64
      | some bs =>
        let n := ofBytesLE bs
        let home := fld n 64 16
        let frame := fld n 0 64 / 4096 * 4096
        if home == ownRank d then
          if a.unit.isSome && d.moves.any (·.desc == dpa) then .error { cause := .unmapped, await := some .busy }
          if frame ≥ hbmEnd then xerr k .unmapped va
          if isSecondary d frame then xerr k .perm va
          checkSeal d k va frame (sealBreak d sealed frame)
          if regionBusy d frame then .error { cause := .unmapped, await := some .busy }
          pure { base with pa := frame + va % 4096, remote := askedPage d a va }
        else pure { base with remote := some home }
    else
      let attr := fld e 56 2
      let pa0 := leafPaOf l e va
      let pa := match d.swap with
        | some w =>
          if swapping && va % 4096 / 64 < w.done then
            (if lpa == w.leafA then w.far else w.near) + va % 4096
          else pa0
        | none => pa0
      if hbmEnd ≤ pa0 && pa0 < farBase then xerr k .unmapped va
      if attr != 0 && pa0 ≥ farBase then xerr k .unmapped va
      if attr == 1 && !isPrimary d pa0 then xerr k .unmapped va
      if isSecondary d pa0 then xerr k .perm va
      checkSeal d k va pa0 (sealBreak d sealed pa0)
      if pa0 ≥ farBase && sealed && !bit ent.n 4 then xerr k .sealed va
      if a.run != 0 && attr != 1 && (k = .write || k = .both) then xerr k .pleatAttr va
      if regionBusy d pa0 then .error { cause := .unmapped, await := some .busy }
      pure { base with pa, attr, unc := swapping, key := if pa ≥ farBase && sealed then xtsKey d a.asid else 0 }

/-- The words that a translation corrects: those of its walk, and of the descriptor of a PEER page (R376). -/
def xlatSoft (d : Dev) (a : Acc) (va : Nat) (ent : AsidEnt) (hit : Option TlbEnt) : List Nat :=
  if d.softWords.isEmpty then []
  else
    let leaf := match hit with
      | some t => some t.leaf
      | none => match walk d a.mset (asidSealed d a.asid ent) .read va 4 (fld ent.n 12 40 * 4096) with
        | .ok r => some r.2.2
        | .error _ => none
    (if hit.isSome then [] else walkSoft d a.mset va 4 (fld ent.n 12 40 * 4096)) ++ match leaf with
      | some e => if bit e 59 then softIn d a.mset (fld ent.n 128 64 + 64 * fld e 12 40) 64 else []
      | none => []

/-- The translation of a virtual address under an ASID, without its marks (R308, R309, R318, R321, R331). A PLEAT leaf that
names a secondary frame raises ACCESS.UNMAPPED: of the two causes that R331 gives it, the model takes this one first (DESIGN
CHOICE, log entry 91). -/
def translate (d : Dev) (a : Acc) (k : Kind) (va : Nat) : Res Xlat := do
  if va ≥ 2 ^ 57 || va / 2 ^ 48 == 0x1FF then xerr k .unmapped va
  if sget 0 d.asidTab a.asid.toNat ≥ entBad then dramErr va (asidPa d a.asid)
  match asidEnt d a.asid with
  | none => xerr k .unmapped va
  | some ent =>
    let sealed := asidSealed d a.asid ent
    if sealed then checkSeal d k va (fld ent.n 64 64) (namedBreak d true (fld ent.n 64 64))
    let hit := tlbFind d a k va
    let soft := xlatSoft d a va ent hit
    match translateBy d a k va ent hit with
    | .ok x => .ok { x with soft }
    | .error c => .error { c with soft }

/-- A TLB takes an entry, and drops its oldest one when it is full (R311). -/
def tlbPut (d : Dev) (t : TlbEnt) : Dev :=
  let mine := d.tlb.filter fun x => x.key == t.key && !(x.asid == t.asid && x.page == t.page)
  let rest := d.tlb.filter fun x => x.key != t.key
  { d with tlb := t :: mine.take (tlbSize t.key - 1) ++ rest }

/-- A prefetch of a stream TLB (R311): it takes the leaf of an address, if a walk finds one, and marks nothing. -/
def tlbPrefetch (d : Dev) (a : Acc) (va : Nat) : Dev :=
  match a.unit, asidEnt d a.asid with
  | some (g, u), some ent =>
    if va ≥ 2 ^ 57 || va / 2 ^ 48 == 0x1FF || (tlbFind d a .read va).isSome then d
    else match walk d a.mset (asidSealed d a.asid ent) .read va 4 (fld ent.n 12 40 * 4096) with
      | .ok (l, lpa, e) => if leafBad d l e then d else (tlbFills d { a with unit := some (g, u) } none (va / 4096) l lpa e).foldl tlbPut d
      | .error _ => d
  | _, _ => d

/-- The marks of the walker (R310): A when a TLB takes the leaf or no TLB serves the access, D where asked; one indivisible
update at the home slice, which keeps the other bits of the leaf as it finds them. -/
def markLeaf (d : Dev) (x : Xlat) (dirty : Bool) : Dev :=
  let seen := x.leaf ||| 32 ||| (if dirty then 64 else 0)
  let d := match leafNow d x.mset x.leafPa with
    | some e =>
      let marked := e ||| 32 ||| (if dirty then 64 else 0)
      if leafCore e != leafCore x.leaf || seen == x.leaf || marked == e then d else leafPut d x.mset x.leafPa marked
    | none => d
  let d := if seen == x.leaf then d
    else { d with tlb := d.tlb.map fun t => if t.leafPa == x.leafPa && t.leaf == x.leaf then { t with leaf := seen } else t }
  x.fill.foldl (fun d t => tlbPut d { t with leaf := seen }) d

/-- The D mark of a write extent (R313): each mapped 4 KiB part with W = 1 and PEER = 0 is marked. -/
def markExtent (d : Dev) (a : Acc) : Nat → Nat → Dev
  | 0, _ => d
  | n + 1, page =>
    let d' := match translate d { a with run := 0, unit := none } .write (page * 4096) with
      | .ok x => if bit x.leaf 59 then d else markLeaf d x true
      | .error _ => d
    markExtent d' a n (page + 1)

/-! ### Records of the device (R380) -/

/-- A write of a system record at a physical address: HBM at the home slice, or the host's memory. -/
def sysWrite (d : Dev) (pa : Nat) (bs : List Byte) : Dev :=
  if pa + bs.length ≤ hbmEnd then l2Store d pa bs
  else if farBase ≤ pa then { d with far := ssetAll Config.powerOnByte d.far pa bs }
  else d

/-- Device time in ns: 4 ns in 7 cycles of 1.75 GHz (R1). -/
def State.timeNs (s : State) : Nat := s.cycle.toNat * 4 / 7

/-- Counts an event of a cause at a place. -/
def bumpCount (code : BitVec 10) (place : Nat) : List (BitVec 10 × Nat × Nat) → List (BitVec 10 × Nat × Nat) × Nat
  | [] => ([(code, place, 1)], 1)
  | (c, p, n) :: l =>
    if c == code && p == place then ((c, p, n + 1) :: l, n + 1)
    else let r := bumpCount code place l; ((c, p, n) :: r.1, r.2)

/-- Writes a record to the event ring, or drops it when it would overwrite an unconsumed one (R380). -/
def elog (s : State) (code : BitVec 10) (outcome place pa : Nat) : State :=
  let d := s.dev
  let (cnts, n) := bumpCount code place d.elogCount
  let d := { d with elogCount := cnts }
  let head := d.eloghead.toNat % 2 ^ 32
  if (head + 2 ^ 32 - d.elogtail.toNat % 2 ^ 32) % 2 ^ 32 ≥ 128 then
    { s with dev := { d with eloghead := d.eloghead ||| 0x8000000000000000 } }
  else
    let bs := toBytesLE 8 s.timeNs ++ toBytesLE 2 code.toNat ++ toBytesLE 1 outcome ++ toBytesLE 1 0 ++ toBytesLE 4 place
      ++ toBytesLE 8 pa ++ toBytesLE 8 n
    let d := sysWrite d (d.elogbase.toNat + 32 * (head % 128)) bs
    let hi := d.eloghead &&& 0x8000000000000000
    { s with dev := ({ d with eloghead := hi ||| BitVec.ofNat 64 ((head + 1) % 2 ^ 32) }).send (.msix 1281) }

/-- The filter that governs a row: what the boot's test gave it and its demotions since (R378): 0 none (128 ms), 1 F64, 2
F32. -/
def rowClass (d : Dev) (row : Nat) : Nat := min 2 ((Config.retentionTest d.bootCount row).val + sget 0 d.retention row)

/-- The row of a 32-byte HBM word as a key: stack in [3:0], bank in [15:4], row above; its low 32 bits are the place in an event
record, which the manual says holds stack, bank and row and does not lay out (R380; DESIGN CHOICE, log entry 19). -/
def rowKey (w : Nat) : Nat := stackOf (32 * w) + 2 ^ 4 * (Config.dramBank w).val + 2 ^ 16 * Config.dramRow w

/-- A row is demoted into the next stricter filter (R378). -/
def demote (d : Dev) (row : Nat) : Dev := { d with retention := sset 0 d.retention row (min 2 (sget 0 d.retention row + 1)) }

/-- Code of INTEGRITY.DRAM_UE in unit 5, and of a corrected error, which the log holds under it with outcome 0 (R376). -/
def dramCode : BitVec 10 := BitVec.ofNat 10 (6 * 128 + 5 * 16)

/-- Words with an error within one symbol are corrected: each is written back, logged and its row demoted (R376, R378). -/
def correctWords (s : State) (ws : List Nat) : State :=
  ws.foldl (fun s w => elog (s.onDev fun d => demote { d with softWords := d.softWords.filter (· != w) } (rowKey w))
    dramCode 0 (rowKey w) (32 * w)) s

/-- Reading n bytes corrects the words with an error within one symbol. -/
def correctSoft (s : State) (pa n : Nat) : State :=
  correctWords s (s.dev.softWords.filter fun w => decide (32 * w < pa + n) && decide (pa < 32 * w + 32))

/-- What a read of n bytes of the device itself leaves: words with an error within one symbol are corrected, and the row of a
word that fails is demoted (R376, R378). -/
def readNotes (s : State) (pa n : Nat) : State :=
  if s.dev.softWords.isEmpty && s.dev.badWords.isEmpty then s
  else (correctSoft s pa n).onDev fun d =>
    (d.badWords.filter fun w => decide (32 * w < pa + n) && decide (pa < 32 * w + 32)).foldl (fun d w => demote d (rowKey w)) d

/-- The marks of a translation: those of its leaf, and the words that its walk has corrected. -/
def State.mark (s : State) (x : Xlat) (dirty : Bool) : State := correctWords (s.onDev fun d => markLeaf d x dirty) x.soft

/-! ### Reads and writes at a physical place -/

/-- Where an engine or scalar access is performed (R203, R117): the L2 level with or without allocation there, or home
memory. -/
inductive Lvl where
  | l2 | stream | home
  deriving DecidableEq, Repr

/-- The open reduction window that holds a line of 128 bytes. -/
def windowOf (d : Dev) (pa : Nat) : Option RWin := d.rwins.find? (fun w => w.lines.contains (pa / 128))

/-- The next free values are drawn. -/
def State.drawBytes (s : State) (n : Nat) : State × List Byte :=
  ({ s with free := s.free + n }, (List.range n).map (fun i => Config.freeByte (s.free + i)))

/-- One 64-bit free value. -/
def State.draw (s : State) : State × Word := ({ s with free := s.free + 1 }, Config.freeWord s.free)

/-- An access with its number. -/
def PAccess.numbered (p : PAccess) (id : Nat) : PAccess :=
  match p with
  | .read r a _ va n => .read r a id va n
  | .write r a _ va bs => .write r a id va bs
  | .atomic r a _ va n op => .atomic r a id va n op
  | .nop r a _ va op f v => .nop r a id va op f v
  | p => p

/-- The cause of a code, if any. -/
def causeOfCode (n : Nat) : Option Cause :=
  allCauses.find? fun c => causeCD c == (n / 128 % 8, n % 16)

/-- A cause with which a peer may refuse an access (R249). -/
def refusable (c : Cause) : Bool :=
  (causeCD c).1 == 2 || c = .aborted || c = .noAttempt || c = .semOvf || c = .dramUe || c = .sramUe

/-- The cause of a refusal at a peer, raised in the sender at its address (R249, R306, R334). -/
def peerCause (code : BitVec 10) (info : BitVec 16) (va : Nat) (write : Bool) : CauseRec :=
  let c := match causeOfCode code.toNat with
    | some c => if refusable c then c else .perm
    | none => .perm
  { cause := c, addr := some (BitVec.ofNat 64 va), write, info := if c = .aborted ∨ c = .dramUe then info.setWidth 64 else 0 }

/-- A request is a unit's own for an access. -/
def PReq.serves (r : PReq) (g : Nat) (u : UnitId) (p : PAccess) : Bool := r.core == g && decide (r.unit = u) && decide (r.acc = p)

/-- An access of a unit, or of the device, whose requests stand beside those of the cores, at the home of a PEER page (R319): it
takes its answer, or it is sent and waits. -/
def askHome (s : State) (a : Acc) (rank va : Nat) (write : Bool) (p : PAccess) : Res (State × List Byte) :=
  let (g, u) := a.unit.getD (Config.cores, .x)
  match (s.dev.reqs.find? (·.serves g u p)).bind (·.ans) with
  | some (.data bs) => .ok (s.onDev fun d => { d with reqs := d.reqs.filter fun r => !r.serves g u p }, bs)
  | some (.refused code info) => .error (peerCause code info va write)
  | none => .error { cause := .unmapped, await := some (.ask rank p) }

/-- An access of a unit of core g goes to the home of its page, once, and waits there (R319). -/
def askOf (d : Dev) (g : Nat) (u : UnitId) (rank : Nat) (p : PAccess) : Dev :=
  if d.reqs.any (·.serves g u p) then d
  else
    let d := d.send (.access rank (PAccess.numbered p d.nextReq))
    { d with reqs := d.reqs ++ [{ id := d.nextReq, core := g, unit := u, rank, acc := p, ans := none }], nextReq := d.nextReq + 1 }

/-- An access of a unit of the core in focus goes to the home of its page. -/
def sendAsk (s : State) (u : UnitId) (rank : Nat) (p : PAccess) : State := s.onDev fun d => askOf d s.core.gcore u rank p

/-- An event of the device whose access cannot be performed yet: it waits for the answer of a page's home (R319), or until a
pleat region is initialised (R347). -/
def deviceWaits (s : State) (name : String) (c : CauseRec) : Option (Host.Outcome State Fault Refusal) :=
  match c.await with
  | some (.ask rank p) => some (.next (s.onDev fun d => askOf d Config.cores .x rank p))
  | some .busy => some (.refused (.cannotOccur name))
  | none => none

/-- The device's own requests are over once its event is. -/
def dropDevAsks (s : State) : State :=
  if s.dev.reqs.isEmpty then s else s.onDev fun d => { d with reqs := d.reqs.filter fun r => r.core != Config.cores }

/-- The accesses of a unit that a word no longer waits for are forgotten. -/
def dropAsks (s : State) (u : UnitId) : State :=
  if s.dev.reqs.isEmpty then s
  else s.onDev fun d => { d with reqs := d.reqs.filter fun r => !(r.core == s.core.gcore && decide (r.unit = u)) }

/-- Reads n bytes of one page at a translated place. A PEER page whose home is the partner is read there (R319). -/
def placeRead (s : State) (a : Acc) (lvl : Lvl) (x : Xlat) (va n : Nat) : Res (State × List Byte) :=
  match x.remote with
  | some r =>
    let p : PAccess := .read (ownRank s.dev) a.asid 0 (BitVec.ofNat 64 va) n
    (askHome s a r va false p).map fun q => (q.1, q.2.take n ++ List.replicate (n - q.2.length) 0)
  | none =>
    let d := s.dev
    if x.pa ≥ farBase then
      let d' := if lvl = .home then farForward d else d
      .ok ({ s with dev := d' }, (List.range n).map (fun i => farByteAs d' x.key (x.pa + i)))
    else if x.attr == 1 then
      match (List.range n).find? fun i => metaBad d (x.pa + i) || pleatBad d a.mset (x.pa + i) with
      | some i => sysErr d a.mset va (x.pa + i) 1
      | none => .ok (if d.softWords.isEmpty then s else correctWords s (softIn d a.mset x.pa n),
          (List.range n).map (fun i => pleatByte d a.mset (x.pa + i)))
    else
      match l2Read d x.pa n with
      | none => sysErr d [] va x.pa n
      | some bs =>
        let s := if d.softWords.isEmpty then s else correctSoft s x.pa n
        .ok ((if lvl = .home then s.onDev (wbWhere · fun p => x.pa ≤ p && p < x.pa + n) else s), bs)

/-- The checks of a write of n bytes at a translated place: pleat causes (R334), open windows (R243). -/
def placeWriteCheck (d : Dev) (a : Acc) (x : Xlat) (va n : Nat) : Res Unit :=
  if x.remote.isSome || x.pa ≥ farBase then .ok ()
  else if x.attr == 1 then pleatWriteCheck d a va x.pa n
  else if d.rwins.any fun w => w.lines.any fun l => decide (x.pa / 128 ≤ l) && decide (l ≤ (x.pa + n - 1) / 128) then
    raiseAt .windowConflict va true
  else .ok ()

/-- Bytes put into a pleat page. -/
def pleatPuts (d : Dev) (a : Acc) : Nat → List Byte → Dev
  | _, [] => d
  | pa, b :: bs => pleatPuts (pleatPut d a.mset a.foldAid pa b) a (pa + 1) bs

/-- Words of 32 bytes that a write to a pleat page has covered whole lose their errors, in the slot written (R376). -/
def pleatClean (d : Dev) (pa n : Nat) : Dev :=
  let ws := ((List.range (n / 32 + 2)).map (pa / 32 + ·)).filter fun w => decide (pa ≤ 32 * w) && decide (32 * w + 32 ≤ pa + n)
  let slots := ws.map fun w => slotPa (pleatAt d (stackOf pa)) (!(blockMeta d (32 * w)).1) (32 * w) / 32
  { d with badWords := d.badWords.filter (!slots.contains ·), softWords := d.softWords.filter (!slots.contains ·) }

/-- A line is held in L2: one of its bytes is. -/
def l2Holds (d : Dev) (pa : Nat) : Bool := d.l2.any fun c => c.1 / 128 == pa / 128

/-- Writes bytes of one page at a translated place of this device that passed the checks. A .S store whose line L2 does not
hold goes through to home memory (R117). -/
def placeWrite (s : State) (a : Acc) (lvl : Lvl) (x : Xlat) (bs : List Byte) : State :=
  s.onDev fun d =>
    if x.pa ≥ farBase then
      if lvl = .home then farForward (farStore d a.path x.key x.pa bs) else farStore d a.path x.key x.pa bs
    else if x.attr == 1 then pleatClean (pleatPuts d a x.pa bs) x.pa bs.length
    else
      if lvl = .home || (lvl = .stream && !l2Holds d x.pa) || x.unc && x.leaf / 2 ^ 58 % 2 == 1 then homeStore d x.pa bs
      else l2Store d x.pa bs

/-- A masked byte. -/
def maskByte (old b m : Byte) : Byte := (old &&& ~~~m) ||| (b &&& m)

/-- A masked store at a translated place (R106, R214): the check, and the write at this device or at the page's home. -/
def placeStore (s : State) (a : Acc) (lvl : Lvl) (x : Xlat) (va : Nat) (bs : List (Byte × Byte)) : Res State :=
  match x.remote with
  | some r =>
    let p : PAccess := .write (ownRank s.dev) a.asid 0 (BitVec.ofNat 64 va) bs
    match a.unit with
    | some _ => (askHome s a r va true p).map (·.1)
    | none => .ok (s.onDev (·.send (.access r p)))
  | none => do
    placeWriteCheck s.dev a x va bs.length
    if bs.all fun b => b.2 == 0xFF then pure (placeWrite s a lvl x (bs.map (·.1)))
    else
      let (s, old) ← placeRead s a lvl x va bs.length
      pure (placeWrite s a lvl x ((old.zip bs).map fun p => maskByte p.1 p.2.1 p.2.2))

/-- Whole bytes as masked ones. -/
def fullMask (bs : List Byte) : List (Byte × Byte) := bs.map (fun b => (b, 0xFF))

/-! ### The digest of a checking run (R358) -/

/-- Code of the writing unit. -/
def unitDigest : UnitId → Nat
  | .x => 0
  | .seq .s => 3
  | .seq (.e _) => 4
  | .seq _ => 3

/-- The sum of the items of bytes written from an address, from ordinal n on. -/
def digestSum (key : Word) (t u : Nat) : Nat → Nat → List Byte → Nat
  | _, _, [] => 0
  | va, n, b :: bs =>
    let w := philox key.toNat (key.toNat / 2 ^ 32) va (fld va 32 25 + 2 ^ 25 * u) n (b.toNat + 2 ^ 8 * t + 2 ^ 24 * fld n 32 8)
    w.1 + 2 ^ 32 * w.2.1 + 2 ^ 64 * w.2.2.1 + 2 ^ 96 * w.2.2.2 + digestSum key t u (va + 1) (n + 1) bs

/-- Adds to a launch's digest of a run. -/
def digestLaunch (id run t u va n : Nat) (bs : List Byte) (l : Launch) : Launch :=
  if l.id == id then
    let v := BitVec.ofNat 128 (digestSum l.dkey t u va n bs)
    if run == 1 then { l with d1 := l.d1 + v } else { l with d2 := l.d2 + v }
  else l

/-- Counts bytes that the task on the core in focus writes to a PLEAT page into the digest of its checking run. -/
def digest (s : State) (u : UnitId) (va : Nat) (bs : List Byte) : State :=
  match s.core.task with
  | none => s
  | some t =>
    if t.run == 0 then s
    else
      match u with
      | .seq (.e m) =>
        let k := if h : m < 48 then (s.dev.ce[m]'h).num else 0
        { s with core := { s.core with task := some { t with ceWrites := t.ceWrites ++ [(k, va, bs)] } } }
      | _ =>
        let c := unitDigest u
        let n := if c == 0 then t.ordX else t.ordS
        let t' := if c == 0 then { t with ordX := n + bs.length } else { t with ordS := n + bs.length }
        { s with core := { s.core with task := some t' }
                 dev := { s.dev with launches := s.dev.launches.map (digestLaunch t.launch t.run t.tnum c va n bs) } }

/-- The bytes that the posted programs of a task wrote, counted over its programs in posting order (R358): into the digest
of its run, as the task ends. -/
def digestPosts (d : Dev) (t : Task) : Dev :=
  let order := ((List.range t.posted).map fun k => t.ceWrites.filter fun w => w.1 == k).flatten
  if t.run == 0 then d
  else (order.foldl (fun (a : Dev × Nat) w =>
    ({ a.1 with launches := a.1.launches.map (digestLaunch t.launch t.run t.tnum 4 w.2.1 a.2 w.2.2) }, a.2 + w.2.2.length)) (d, 0)).1

/-! ### Reads and writes at a virtual address -/

/-- The parts of a range of one page that lie in one line of 64 bytes each, on fuel: where a swap is under way each line
has a place of its own (R317). -/
def lineParts : Nat → Nat → Nat → List (Nat × Nat)
  | 0, _, _ => []
  | k + 1, va, n =>
    let m := min n (64 - va % 64)
    if n == 0 then [] else (va, m) :: lineParts k (va + m) (n - m)

/-- A read inside one page. -/
def vreadPage (s : State) (a : Acc) (k : Kind) (lvl : Lvl) (va n : Nat) : Res (State × List Byte) := do
  let x ← translate s.dev a k va
  let s := s.mark x false
  if bit x.leaf 58 && va % 64 + n > 64 then
    (lineParts 66 va n).foldlM (fun r p => do
      let x ← translate r.1.dev a k p.1
      (placeRead r.1 a lvl x p.1 p.2).map fun q => (q.1, r.2 ++ q.2)) (s, [])
  else placeRead s a lvl x va n

/-- A read of at most 4,096 bytes (R308); a group may straddle two pages. -/
def vread (s : State) (a : Acc) (lvl : Lvl) (va n : Nat) : Res (State × List Byte) := do
  let va := va % 2 ^ 64
  let h := 4096 - va % 4096
  if n ≤ h then vreadPage s a .read lvl va n
  else
    let (s, b1) ← vreadPage s a .read lvl va h
    let (s, b2) ← vreadPage s a .read lvl ((va + h) % 2 ^ 64) (n - h)
    pure (s, b1 ++ b2)

/-- The bytes of a masked write that it writes whole or in part, for the digest: whole bytes. -/
def wroteBytes (bs : List (Byte × Byte)) : List Byte := bs.map (·.1)

/-- The write of masked bytes inside one page by unit u; `dirty` asks for the D mark of R310. -/
def vwritePage (s : State) (a : Acc) (u : UnitId) (lvl : Lvl) (dirty : Bool) (va : Nat) (bs : List (Byte × Byte)) : Res State := do
  let x ← translate s.dev a .write va
  let s := s.mark x dirty
  let s1 ← if bit x.leaf 58 && va % 64 + bs.length > 64 then
      (lineParts 66 va bs.length).foldlM (fun s p => do
        let x ← translate s.dev a .write p.1
        placeStore s a lvl x p.1 ((bs.drop (p.1 - va)).take p.2)) s
    else placeStore s a lvl x va bs
  pure (if x.attr == 1 then digest s1 u va (wroteBytes bs) else s1)

/-- A masked write of at most 4,096 bytes (R106, R214). Both pages of a straddling group are checked before either is
written. -/
def vwriteMasked (s : State) (a : Acc) (u : UnitId) (lvl : Lvl) (dirty : Bool) (va : Nat) (bs : List (Byte × Byte)) : Res State := do
  let va := va % 2 ^ 64
  let h := 4096 - va % 4096
  if bs.length ≤ h then vwritePage s a u lvl dirty va bs
  else
    let x ← translate s.dev a .write ((va + h) % 2 ^ 64)
    placeWriteCheck s.dev a x ((va + h) % 2 ^ 64) (bs.length - h)
    let s1 ← vwritePage s a u lvl dirty va (bs.take h)
    vwritePage s1 a u lvl dirty ((va + h) % 2 ^ 64) (bs.drop h)

/-- A write of at most 4,096 bytes. -/
def vwrite (s : State) (a : Acc) (u : UnitId) (lvl : Lvl) (dirty : Bool) (va : Nat) (bs : List Byte) : Res State :=
  vwriteMasked s a u lvl dirty va (fullMask bs)

/-- A 64-bit read, as a word. -/
def vread64 (s : State) (a : Acc) (va : Nat) : Res (State × Word) := do
  let (s, bs) ← vread s a .l2 va 8
  pure (s, BitVec.ofNat 64 (ofBytesLE bs))

end Sys2Proof.Machine
end

