-- ==== Sys2Proof/Machine/Launch.lean ====
section
/-! DEFINITION. The device's records: messages, the event log (R380), attempt flags (R348), semaphores and their signals
(R26, R27, R296), regions (R272, R273), resident tasks, and the stop of a launch (R279). -/

namespace Sys2Proof.Machine

/-! ### Messages and the event log -/

/-- A record whose outcome byte the manual does not state: a free value. -/
def elogOpen (s : State) (code : BitVec 10) (place pa : Nat) : State :=
  let r := s.draw
  elog r.1 code (r.2.toNat % 256) place pa

/-- Place of a core in an event record: die, cluster and core in three bytes (log entry 14). -/
def corePlace (g : Nat) : Nat := g / 72 + 256 * (g % 72 / 8) + 65536 * (g % 8)

/-- Records an error in HERRLOG (R327); OVF stays set until a write of 1 clears it. -/
def herr (d : Dev) (code addr : Nat) : Dev :=
  if d.herrlog.getLsbD 63 then { d with herrlog := d.herrlog ||| 0x4000000000000000 }
  else { d with herrlog := (d.herrlog &&& 0x4000000000000000) ||| BitVec.ofNat 64 (2 ^ 63 + code % 256 * 2 ^ 52 + addr % 2 ^ 52) }

/-! ### Attempt flags (R348) -/

/-- LOSS. -/
def flLoss : BitVec 6 := 1
/-- OVF. -/
def flOvf : BitVec 6 := 2
/-- CORRUPT. -/
def flCorrupt : BitVec 6 := 4
/-- FAULT. -/
def flFault : BitVec 6 := 8
/-- TIMEOUT. -/
def flTimeout : BitVec 6 := 16

/-- Sets flags of A while A is OPEN; once EN is 0, A has been aborted (R338). -/
def flagAttempt (d : Dev) (m : BitVec 6) : Dev :=
  if d.seam.state = .opened ∧ seamEn d = true then { d with seam := { d.seam with flags := d.seam.flags ||| m } } else d

/-! ### Cores -/

/-- The core of a global number. -/
def coreAt (s : State) (g : Nat) : Core :=
  if g == s.core.gcore then s.core else (slook s.others g).getD (Core.init g)

/-- Puts a core back under its global number. -/
def putCore (s : State) (g : Nat) (c : Core) : State :=
  if g == s.core.gcore then { s with core := c } else { s with others := sput c s.others g }

/-- Brings a core into focus. -/
def focus (s : State) (g : Nat) : State :=
  if g == s.core.gcore then s
  else { s with core := (slook s.others g).getD (Core.init g), others := sput s.core (sdel s.others g) s.core.gcore }

/-- Every core that has been touched. -/
def allCores (s : State) : List Core := s.core :: s.others.map (·.2)

/-- Applies a function to every core. -/
def mapCores (s : State) (f : Core → Core) : State :=
  { s with core := f s.core, others := s.others.map (fun e => (e.1, f e.2)) }

/-! ### Semaphores (R26, R27, R296) -/

/-- Why a signal is not applied. -/
inductive SigErr where
  | refused | overflow
  deriving DecidableEq, Repr

/-- Adds a signal of a source bit to a semaphore of a core; sets event 0 (R298). -/
def semAdd (c : Core) (src : Nat) (sem : BitVec 8) (inc : Nat) : Except SigErr Core :=
  let k := sem.toNat
  if !(c.semMask[k]'(sem.isLt)).getLsbD src then .error .refused
  else
    let v := (c.sem[k]'(sem.isLt)).toNat + inc
    if v > 65535 then .error .overflow
    else .ok { c with sem := c.sem.set k (BitVec.ofNat 16 v) (sem.isLt), ev := c.ev ||| 1 }

/-- Value of a semaphore. -/
def semVal (c : Core) (sem : BitVec 8) : Nat := (c.sem[sem.toNat]'(sem.isLt)).toNat

/-- Sets a semaphore. -/
def semSet (c : Core) (sem : BitVec 8) (v : Nat) : Core :=
  { c with sem := c.sem.set sem.toNat (BitVec.ofNat 16 v) (sem.isLt) }

/-! ### Regions (R272, R273) -/

/-- The RCB at a physical address: aligned, on an HBM page, with its reserved bits zero. -/
def rcbAt (d : Dev) (pa : Nat) : Option Nat :=
  if pa % 128 != 0 || pa + 128 > hbmEnd || isPrimary d pa || isSecondary d pa then none
  else match l2Read d pa 128 with
    | none => none
    | some bs =>
      let n := ofBytesLE bs
      if fld n 474 550 == 0 && fld n 358 10 == 0 && fld n 303 17 == 0 && !bit n 279 && fld n 233 7 == 0 then some n else none

/-- The RCBs from one at an address to the root, at most a count of them. -/
def rcbChain (d : Dev) : Nat → Nat → Option (List (Nat × Nat))
  | 0, _ => none
  | k + 1, pa =>
    match rcbAt d pa with
    | none => none
    | some n =>
      if fld n 0 64 == 0 then some [(pa, n)]
      else match rcbChain d k (fld n 0 64) with
        | none => none
        | some l => some ((pa, n) :: l)

/-- The first RCB of a walk whose inherit bit is 0. -/
def inherit1 (b : Nat) : List (Nat × Nat) → Option Nat
  | [] => none
  | (_, n) :: l => if bit n b then inherit1 b l else some n

/-- The effective values of the first region of a walk (R273), with the ranges of R272. -/
def effOf (l : List (Nat × Nat)) : Option Eff := do
  let pa := (l.headD (0, 0)).1
  let nC ← inherit1 368 l
  let nN ← inherit1 369 l
  let nQ ← inherit1 370 l
  let nS ← inherit1 371 l
  let nX ← inherit1 372 l
  let nP ← inherit1 373 l
  let nM ← inherit1 374 l
  let nD ← inherit1 375 l
  let nF ← inherit1 376 l
  let nA ← inherit1 377 l
  let nT ← inherit1 356 l
  let nW ← inherit1 357 l
  let spb := fld nS 256 23
  let sps := fld nS 280 23
  let e : Eff :=
    { rcb := pa, cores := fld nC 224 9, nodes := fld nN 240 16, qslots := fld nQ 208 16, rqbase := bf 64 64 nQ,
      spbase := spb, spsize := sps, ctxbase := bf 64 128 nX, ctxslots := fld nX 192 16, prio := fld nP 320 4,
      maxclass := fld nM 324 2, det := bf 2 326 nD, fdom := bf 16 328 nF, asid := bf 12 344 nA, tvec := bf 64 378 nT,
      wdog := bf 32 442 nW }
  let bad := fld nC 224 9 > 288 || fld nM 324 2 == 3 || spb % 128 != 0 || sps % 128 != 0 || sps > 2 ^ 21 || spb + sps > 2 ^ 23
      || fld nX 128 64 % 2 ^ 22 != 0 || fld nQ 64 64 % 32 != 0 || fld nT 378 2 != 0 || fld nA 344 12 == 0
  (if bad then none else some e)

/-- The effective values of every region of a walk, the region first. -/
def effPath : List (Nat × Nat) → Option (List Eff)
  | [] => some []
  | p :: l =>
    match effOf (p :: l), effPath l with
    | some e, some r => some (e :: r)
    | _, _ => none

/-- The RCB address of a region; none where the table entry is 0 or cannot be read. -/
def regionRcb (d : Dev) (region : Nat) : Option Nat :=
  let pa := d.rtbase.toNat + 8 * region
  if pa + 8 > hbmEnd then none
  else match l2Read d pa 8 with
    | none => none
    | some bs => if ofBytesLE bs == 0 then none else some (ofBytesLE bs)

/-- The effective values of a region and its ancestors, as memory holds them now; none when the tree is invalid. -/
def regionPath (d : Dev) (region : Nat) : Option (List Eff) :=
  match regionRcb d region with
  | none => none
  | some pa =>
    match rcbChain d 8 pa with
    | none => none
    | some l => effPath l

/-- The RCBs that a walk from an address reads, at most a count of them. -/
def rcbsRead (d : Dev) : Nat → Nat → List Nat
  | 0, _ => []
  | k + 1, pa => pa :: match rcbAt d pa with
    | some n => if fld n 0 64 == 0 then [] else rcbsRead d k (fld n 0 64)
    | none => []

/-- What the reads of a region's table entry and RCBs leave (R376, R378). -/
def regionNotes (s : State) (region : Nat) : State :=
  if s.dev.softWords.isEmpty && s.dev.badWords.isEmpty then s
  else
    let l := match regionRcb s.dev region with
      | some pa => rcbsRead s.dev 8 pa
      | none => []
    l.foldl (fun s pa => readNotes s pa 128) (readNotes s (s.dev.rtbase.toNat + 8 * region) 8)

/-! ### Launches -/

/-- An accepted launch by its identity. -/
def launchOf (d : Dev) (id : Nat) : Option Launch := d.launches.find? (fun l => l.id == id)

/-- The effective values that govern a launch in a region: those formed at its acceptance (R273). -/
def pathFor (l : Launch) (region : Nat) : List Eff :=
  if region == l.region then l.path
  else match l.subs.find? fun p => p.1 == region with
    | some p => p.2
    | none => []

/-- The paths of the regions below the region of an RCB. -/
def subPaths (d : Dev) (region rcb : Nat) : List (Nat × List Eff) :=
  (List.range 65536).filterMap fun r =>
    if r == region then none
    else match regionPath d r with
      | some p => if p.any fun e => e.rcb == rcb then some (r, p) else none
      | none => none

/-- Writes STATUS of a launch into its record (R279); signals the queue's vector when IRQ = 1. The manual does not say what
becomes of a STATUS that cannot be written: here the write is dropped (DESIGN CHOICE, log entry 82). -/
def writeStatus (s : State) (queue : Nat) (va : Word) (asid : BitVec 12) (code : Nat) : State :=
  let a := accDev s.dev asid
  let s1 := match vwrite s a .x .l2 true (va.toNat + 56) [BitVec.ofNat 8 code] with
    | .ok s' => s'
    | .error _ => s
  let q := sget ({ qbase := 0, qctl := 0, qhead := 0, qtail := 0 } : QRegs) s1.dev.queues queue
  if q.qctl.getLsbD 1 then s1.onDev (·.send (.msix queue)) else s1

/-- Sets the status of an accepted launch. -/
def setStatus (s : State) (l : Launch) (code : Nat) : State :=
  let s1 := s.onDev fun d => { d with launches := d.launches.map fun x => if x.id == l.id then { x with status := code } else x }
  writeStatus s1 l.queue l.recVa l.recAsid code

/-- The effective ASID of a launch. -/
def launchAsid (l : Launch) : BitVec 12 := (l.path.head?.map (·.asid)).getD 0

/-- A sequencer whose task is gone: its index registers stand until the next task starts (R284). -/
def Seq.idle (q : Seq) : Seq := { Seq.init with idx := q.idx }

/-- A core whose task is gone: no work, no semaphores, no queues (R288 step 5). -/
def clearCore (c : Core) : Core :=
  { c with
    task := none, saving := none, xwait := .none, handler := false, delivered := none, wfeHit := false, twaitLate := false,
    l := c.l.idle, c := c.c.idle, s := c.s.idle, q := Vector.replicate 8 RQueue.init, tok := Vector.replicate 12 0,
    sem := Vector.replicate 256 0, semMask := Vector.replicate 256 0x7F }

/-- Copy-engine work posted by a set of cores is dropped. -/
def dropPosts (d : Dev) (f : Nat → Bool) : Dev :=
  let drop (e : CopyEngine) : CopyEngine :=
    let e := { e with posts := e.posts.filter (fun p => !f p.core) }
    match e.prog with
    | some g => if f g then { e with seq := e.seq.idle, prog := none } else e
    | none => e
  { d with ce := vmap drop d.ce }

/-- Copy engines of a list drop their stopped programs. -/
def freeEngines (d : Dev) (ms : List Nat) : Dev :=
  ms.foldl (fun d m => if h : m < 48 then
    { d with ce := d.ce.set m { (d.ce[m]'h) with seq := (d.ce[m]'h).seq.idle, prog := none } h } else d) d

/-- Everything that a core's task still has in the device's queues is dropped. -/
def dropWork (d : Dev) (f : Nat → Bool) : Dev :=
  let d := dropPosts d f
  { d with qposts := d.qposts.filter (fun q => !f q.core), claspWait := d.claspWait.filter (fun w => !f w.2)
           reqs := d.reqs.filter (fun r => !f r.core) }

/-- A task belongs to a launch. -/
def inLaunch (id : Nat) (c : Core) : Bool :=
  match c.task with
  | some t => t.launch == id
  | none => false

/-- Ready work joins the list that holds it in FIFO order. -/
def addReady (d : Dev) (w : Work) : Dev := { d with ready := d.ready ++ [w] }

/-- A continuation record of 32 bytes (R285). -/
def contBytes (code frame join : Word) (region prio : Nat) (yld : Bool) : List Byte :=
  toBytesLE 8 code.toNat ++ toBytesLE 8 frame.toNat ++ toBytesLE 8 join.toNat
    ++ toBytesLE 8 (region % 2 ^ 16 + 2 ^ 16 * (prio % 16) + (if yld then 2 ^ 20 else 0))

/-- A record is appended to the ready ring of a region (R285, R288). The manual gives neither the slot that a record takes
nor what becomes of one that cannot be written: the slots are taken in turn, under the region's ASID, and such a record is
dropped (DESIGN CHOICE, log entry 73). -/
def ringPut (s : State) (e : Eff) (bs : List Byte) : State :=
  let n := sget 0 s.dev.rings e.rqbase.toNat
  let s := s.onDev fun d => { d with rings := sset 0 d.rings e.rqbase.toNat (n + 1) }
  if e.qslots == 0 then s
  else match vwrite s (accDev s.dev e.asid) .x .l2 true (e.rqbase.toNat + 32 * (n % e.qslots)) bs with
    | .ok s => s
    | .error _ => s

/-! ### Graphs (R289) -/

/-- The effective values of a region in a path; none for an empty path. -/
def headEff (p : List Eff) : Option Eff := p.head?

/-- The graph of a launch while it is live: until each of its nodes has started and ended. -/
def liveGraph (l : Launch) : Option Graph :=
  match l.graph with
  | some g => if g.ended < l.total then some g else none
  | none => none

/-- Nodes of live graphs that count against the region of an RCB. -/
def heldNodes (d : Dev) (rcb : Nat) : Nat :=
  d.launches.foldl (fun a l => if (liveGraph l).isSome && l.path.any (fun e => e.rcb == rcb) then a + l.total else a) 0

/-- The continuation record at an address (R285); none when it cannot be read. -/
def readCont (s : State) (a : Acc) (va : Nat) : Option (State × Cont × Nat) :=
  match vread s a .l2 va 32 with
  | .error _ => none
  | .ok (s, bs) =>
    let n := ofBytesLE bs
    let w := fld n 192 64
    some (s, { code := bf 64 0 n, frame := bf 64 64 n, join := bf 64 128 n, region := fld w 0 16, prio := fld w 16 4 }, w)

/-- PRED of a node record. -/
def readPred (s : State) (a : Acc) (va : Nat) : Nat :=
  match vread s a .l2 (va + 32) 2 with
  | .ok (_, bs) => ofBytesLE bs
  | .error _ => 0

/-- What a read of n bytes waits for: the answer of a page's home (R319), or the end of an initialisation (R347). -/
def readWaits (s : State) (a : Acc) (va n : Nat) : Option CauseRec :=
  match vread s a .l2 va n with
  | .error c => if c.await.isSome then some c else none
  | .ok _ => none

/-- What the records of a node table wait for. -/
def tableWaits (s : State) (a : Acc) (table n : Nat) : Option CauseRec :=
  (List.range n).findSome? fun k => match readWaits s a (table + 64 * k) 32 with
    | some c => some c
    | none => readWaits s a (table + 64 * k + 32) 2

/-- A request of the device itself goes out. -/
def askDev (s : State) (c : CauseRec) : State :=
  match c.await with
  | some (.ask rank p) => s.onDev fun d => askOf d Config.cores .x rank p
  | _ => s

/-- The node table names the launch region in every record. -/
def nodesOk (s : State) (a : Acc) (table region n : Nat) : Bool :=
  (List.range n).all fun k => match readCont s a (table + 64 * k) with
    | some (_, c, _) => c.region == region
    | none => false

/-- SRAM counters free on a die, and its live graphs. -/
def dieLoad (d : Dev) (die : Nat) : Nat × Nat :=
  d.launches.foldl (fun a l => match liveGraph l with
    | some g => if g.die == die then (a.1 - g.sram, a.2 + 1) else a
    | none => a) (Config.graphCounters, 0)

/-- The die with the most free counters among those with a free graph table, the lowest on a tie. -/
def graphDie (d : Dev) : Option Nat :=
  (List.range 4).foldl (fun b k =>
    if (dieLoad d k).2 ≥ Config.liveGraphs then b
    else match b with
      | none => some k
      | some o => if (dieLoad d k).1 > (dieLoad d o).1 then some k else b) none

/-- A node becomes ready: its continuation joins its region's FIFO. -/
def nodeReady (s : State) (l : Launch) (a : Acc) (table n : Nat) : State :=
  match readCont s a (table + 64 * n) with
  | none => s
  | some (s, c, _) =>
    let rp := ((headEff (pathFor l c.region)).map (·.prio)).getD 0
    let s := match headEff (pathFor l c.region) with
      | some e => ringPut s e (contBytes c.code c.frame c.join c.region c.prio false)
      | none => s
    s.onDev (addReady · { launch := l.id, region := c.region, prio := min c.prio rp, first := false, kind := .node n c })

/-- Replaces an accepted launch. -/
def putLaunch (d : Dev) (l : Launch) : Dev := { d with launches := d.launches.map fun x => if x.id == l.id then l else x }

/-- Opens the graph of a launch when a table is free and every region of the path stays within NODES; it waits until the
dispatcher has its node table (R319, R347). -/
def openGraph (s : State) (l : Launch) : State :=
  if !l.nodes || l.graph.isSome || l.live == 0 || !l.path.all (fun e => heldNodes s.dev e.rcb + l.total ≤ e.nodes) then s
  else match graphDie s.dev, tableWaits s (accDev s.dev (launchAsid l)) l.entry.toNat l.total with
    | none, _ => s
    | some _, some c => askDev s c
    | some die, none =>
      let a := accDev s.dev (launchAsid l)
      let table := l.entry.toNat
      let f := min l.total (dieLoad s.dev die).1
      let preds := (List.range l.total).map fun k => readPred s a (table + 64 * k)
      let s := (List.range (l.total - f)).foldl (fun s k =>
        match vwrite s a .x .l2 true (table + 64 * (f + k) + 36) (toBytesLE 4 ((preds[f + k]?).getD 0)) with
        | .ok s => s
        | .error _ => s) s
      let l := { l with graph := some { table := l.entry, die, sram := f, counters := preds.take f, ended := 0 } }
      let s := s.onDev (putLaunch · l)
      (List.range l.total).foldl (fun s k => if (preds[k]?).getD 0 == 0 then nodeReady s l a table k else s) s

/-- Waiting graphs open in order of acceptance. -/
def openGraphs (s : State) : State := s.dev.launches.foldl openGraph s

/-! ### The stop of a launch -/

/-- Stops a launch with STATUS 0x03 (R279): its resident tasks leave their cores, its saved and ready tasks are dropped.
STATUS 0x03 written to a launch of the Seam ASID sets FAULT (R348). -/
def stopLaunch (s : State) (id : Nat) : State :=
  match launchOf s.dev id with
  | none => s
  | some l =>
    let s := setStatus s l 3
    let gone := ((allCores s).filter (inLaunch id)).map (·.gcore)
    let s := mapCores s fun c => if inLaunch id c then clearCore c else c
    openGraphs <| s.onDev fun d =>
      let d := dropWork d (fun g => gone.contains g)
      let lost := d.saved.filter fun v => v.task.launch == id
      let ids := (lost.map (·.qids)).flatten
      let d := freeEngines d (lost.map (·.ces)).flatten
      let d := { d with
        qposts := d.qposts.filter (fun q => !ids.contains q.id)
        launches := d.launches.filter (fun x => x.id != id)
        ready := d.ready.filter (fun w => w.launch != id)
        saved := d.saved.filter (fun v => v.task.launch != id) }
      if seamEn d && launchAsid l == seamAsid d then flagAttempt d flFault else d

/-- Stops every launch that a predicate selects, in order of acceptance. -/
def stopWhere (s : State) (f : Launch → Bool) : State :=
  (s.dev.launches.filter f).foldl (fun s l => stopLaunch s l.id) s

/-- A saved task by its frame identity. -/
def savedOf (d : Dev) (tf : Word) : Option Saved := d.saved.find? (fun v => v.taskFrame == tf)

/-- The continuation of a saved task becomes ready: the scheduler writes its record, with YLD = 1 and CODE = TASK_FRAME,
into the ring (R285), and it joins its region's order at the tail or the head (R281, R288). -/
def readyResume (s : State) (v : Saved) (head : Bool) : State :=
  let w : Work := { launch := v.task.launch, region := v.task.region, prio := v.task.prio, first := v.task.cls != 0,
                    kind := .resume v.taskFrame }
  let s := match (launchOf s.dev v.task.launch).bind fun l => headEff (pathFor l v.task.region) with
    | some e => ringPut s e (contBytes v.taskFrame 0 v.task.join v.task.region v.task.prio true)
    | none => s
  s.onDev fun d =>
    let d := { d with saved := d.saved.map fun x => if x.taskFrame == v.taskFrame then { x with parked := false } else x }
    if head then { d with ready := w :: d.ready } else addReady d w

end Sys2Proof.Machine
end

