-- ==== Sys2Proof/Machine/Streams.lean ====
section
/-! DEFINITION. The cluster window with its swizzle tags (R92 to R94, R104, R105), element groups (R95), stream
descriptors and their walk (R96 to R100), and the reading and writing of passes (R98, R109 to R114). -/

namespace Sys2Proof.Machine

/-! ### The cluster window -/

/-- Cluster of the package, 0 to 35, of a global core. -/
def clusterOf (g : Nat) : Nat := g / 8

/-- Key of a window byte. -/
def winKey (cl w : Nat) : Nat := 2 ^ 23 * cl + w

/-- Key of a line's tag. -/
def tagKey (cl line : Nat) : Nat := 2 ^ 16 * cl + line

/-- A logical byte of a window. -/
def winByte (d : Dev) (cl w : Nat) : Byte := sget 0 d.win (winKey cl w)

/-- The swizzle tag of a line (R105). -/
def tagOf (d : Dev) (cl line : Nat) : Nat := (sget 0 d.tags (tagKey cl line)).toNat

/-- Sets the tag of a line. -/
def setTag (d : Dev) (cl line mode : Nat) : Dev := { d with tags := sset 0 d.tags (tagKey cl line) (BitVec.ofNat 3 mode) }

/-- Place of a 16-byte chunk of line n under a mode (R104). The window of the model holds bytes in logical order, so a
reader that uses the writer's mode sees them there; this function says where the scratchpad puts them. -/
def swizzle (mode n c : Nat) : Nat :=
  match mode with
  | 0 => c
  | 1 => c ^^^ (n % 8)
  | 2 => c ^^^ (n / 2 % 8)
  | 3 => c ^^^ (n / 4 % 8)
  | 4 => c ^^^ (n / 8 % 8)
  | 5 => 7 - c
  | 6 => c ^^^ (4 * (n % 2))
  | _ => c ^^^ (2 * (n / 2 % 4))

/-- A line lies in a task's allocation (R283). -/
def inAlloc (t : Task) (line : Nat) : Bool := t.spbase ≤ 128 * line && 128 * line < t.spbase + t.spsize

/-- A unit may address a line (R93). -/
def winAllowed (s : State) (u : UnitId) (cl line : Nat) : Bool :=
  match u with
  | .seq (.e _) => (allCores s).any fun c =>
      clusterOf c.gcore == cl && c.asid == s.core.asid && (match c.task with | some t => inAlloc t line | none => false)
  | _ => clusterOf s.core.gcore == cl && match s.core.task with
    | some t => inAlloc t line
    | none => false

/-- The lines that n bytes at an offset touch. -/
def linesOf (w n : Nat) : List Nat :=
  if n == 0 then [] else (List.range ((w + n - 1) / 128 - w / 128 + 1)).map (fun i => w / 128 + i)

/-- The bounds and allocation checks of a window access; its offset as a natural number. Where X meets a cause through the
aperture, R366 admits the virtual address or the window offset in TRAP_ADDR: it is the offset (DESIGN CHOICE, log
entry 82). -/
def winBounds (s : State) (u : UnitId) (cl : Nat) (write : Bool) (addr : Int) (n : Nat) : Res Nat :=
  let a := (addr % 2 ^ 64).toNat
  if addr < 0 || addr + n > 2 ^ 23 then raiseAt .unmapped a write
  else if (linesOf a n).any (fun l => !winAllowed s u cl l) then raiseAt .perm a write
  else .ok a

/-- A scratchpad holds an uncorrectable error in bytes of a window (R377). -/
def winBad (d : Dev) (cl w n : Nat) : Bool :=
  d.badWin.any fun k => decide (8 * k < winKey cl w + n) && decide (winKey cl w < 8 * k + 8)

/-- A read of n bytes of a window under a mode. -/
def winRead (s : State) (u : UnitId) (cl mode : Nat) (addr : Int) (n : Nat) : Res (List Byte) := do
  let a ← winBounds s u cl false addr n
  if (linesOf a n).any (fun l => tagOf s.dev cl l != mode) then raiseAt .swizzle a
  if winBad s.dev cl a n then raiseAt .sramUe a
  pure ((List.range n).map (fun i => winByte s.dev cl (a + i)))

/-- A planned write of a word or command: its element, address, mode, and bytes with their bit masks. -/
structure Wr where
  e : Nat
  addr : Int
  mode : Nat
  bytes : List (Byte × Byte)
  deriving DecidableEq, Repr

/-- A planned write covers a whole byte of the window. -/
def Wr.covers (w : Wr) (mode b : Nat) : Bool :=
  w.mode == mode && w.addr ≤ b && match w.bytes[((b : Int) - w.addr).toNat]? with
    | some (_, m) => m == 0xFF
    | none => false

/-- The plan writes all 128 bytes of a line in a mode (R105). -/
def coversLine (plan : List Wr) (mode line : Nat) : Bool :=
  (List.range 128).all fun i => plan.any fun w => w.covers mode (128 * line + i)

/-- Puts masked bytes into a window. -/
def winPut (d : Dev) (cl : Nat) : Nat → List (Byte × Byte) → Dev
  | _, [] => d
  | w, (b, m) :: bs =>
    winPut { d with win := sset 0 d.win (winKey cl w) (maskByte (winByte d cl w) b m) } cl (w + 1) bs

/-- One planned write: lines whose tag differs are retagged when the plan covers them whole, else ACCESS.SWIZZLE. Whole
8-byte words lose their errors (R377). -/
def winWrite (s : State) (u : UnitId) (cl : Nat) (plan : List Wr) (w : Wr) : Res State := do
  if w.bytes.all (fun b => b.2 == 0) then return s
  let a ← winBounds s u cl true w.addr w.bytes.length
  let off := (linesOf a w.bytes.length).filter (fun l => tagOf s.dev cl l != w.mode)
  if off.any (fun l => !coversLine plan w.mode l) then raiseAt .swizzle a true
  let whole := w.bytes.all fun b => b.2 == 0xFF
  pure (s.onDev fun d =>
    let d := winPut (off.foldl (fun d l => setTag d cl l w.mode) d) cl a w.bytes
    if whole then { d with badWin := keepBad d.badWin (winKey cl a) w.bytes.length } else d)

/-! ### Element groups (R95) -/

/-- Elements of a group. -/
def groupElems : Ty → Nat
  | .i4 | .n4 | .e2m1 => 2
  | .e3m2 | .e2m3 => 4
  | _ => 1

/-- Bytes of a group. -/
def groupBytes : Ty → Nat
  | .e3m2 | .e2m3 => 3
  | .i16 | .n16 | .f16 | .bf16 => 2
  | .i32 | .n32 | .f32 => 4
  | .f64 | .i64 | .n64 => 8
  | _ => 1

/-- Alignment of a group address. -/
def groupAlign : Ty → Nat
  | .i16 | .n16 | .f16 | .bf16 => 2
  | .i32 | .n32 | .f32 => 4
  | _ => 1

/-- Bits of one element in a vector register (R69): FP6 elements take a byte each. -/
def laneBits : Ty → Nat
  | .i4 | .n4 | .e2m1 => 4
  | .i8 | .n8 | .e3m2 | .e2m3 | .e4m3 | .e5m2 => 8
  | .i16 | .n16 | .f16 | .bf16 => 16
  | .i32 | .n32 | .f32 => 32
  | .f64 | .i64 | .n64 => 64

/-- Bits of one element in memory. -/
def elemBits : Ty → Nat
  | .e3m2 | .e2m3 => 6
  | t => laneBits t

/-- Elements of a vector (R99). -/
def lanes (t : Ty) : Nat := 4096 / laneBits t

/-- Element i of a vector. -/
def laneOf (t : Ty) (v : VReg) (i : Nat) : Nat := (v.toNat >>> (laneBits t * i)) % 2 ^ laneBits t

/-- A vector from its elements, from lane 0. -/
def vecOf (bits : Nat) : List Nat → Nat
  | [] => 0
  | x :: xs => x % 2 ^ bits + 2 ^ bits * vecOf bits xs

/-- The elements of a group from its bytes. -/
def unpackGroup (t : Ty) (bs : List Byte) : List Nat :=
  let n := ofBytesLE bs
  (List.range (groupElems t)).map fun j => n / 2 ^ (elemBits t * j) % 2 ^ elemBits t

/-- The bytes of a group with the bit masks of its active elements. -/
def packGroup (t : Ty) (es : List (Nat × Bool)) : List (Byte × Byte) :=
  let w := elemBits t
  let v := vecOf w (es.map (·.1))
  let m := vecOf w (es.map fun e => if e.2 then 2 ^ w - 1 else 0)
  (toBytesLE (groupBytes t) v).zip (toBytesLE (groupBytes t) m)

/-! ### Descriptors (R96, R97) -/

/-- A two's-complement number of w bits. -/
def sint (w n : Nat) : Int := if n ≥ 2 ^ (w - 1) then (n : Int) - 2 ^ w else n

/-- The fields of a descriptor (R96). -/
structure Desc where
  sstr : Int
  sbase : Nat
  n0 : Nat
  n1 : Nat
  n2 : Nat
  n3 : Nat
  s0 : Int
  s1 : Int
  s2 : Int
  s3 : Int
  ty : Ty
  mem : Bool
  push : Bool
  swz : Nat
  mx : Bool
  align0 : Bool
  wrap : Bool
  cmask : Nat
  base : Nat
  deriving DecidableEq, Repr

/-- The fields of 512 descriptor bits. -/
def descOf (n : Nat) : Desc :=
  { sstr := sint 32 (fld n 448 32), sbase := fld n 384 57, n3 := fld n 368 16 + 1, s3 := sint 40 (fld n 320 40),
    n2 := fld n 304 16 + 1, s2 := sint 40 (fld n 256 40), n1 := fld n 240 16 + 1, s1 := sint 40 (fld n 192 40),
    n0 := fld n 176 16 + 1, s0 := sint 40 (fld n 128 40), ty := tyOf (fld n 124 4), mem := bit n 123, push := bit n 122,
    swz := fld n 119 3, mx := bit n 118, align0 := bit n 117, wrap := bit n 116, cmask := fld n 107 9, base := fld n 0 57 }

/-- Types that an MX stream may have (R97). -/
def mxType : Ty → Bool
  | .e4m3 | .e5m2 | .e3m2 | .e2m3 | .e2m1 | .i8 => true
  | _ => false

/-- A descriptor is static-valid (R97). -/
def staticValid (n : Nat) : Bool :=
  let d := descOf n
  fld n 480 32 == 0 && fld n 441 7 == 0 && fld n 360 8 == 0 && fld n 296 8 == 0 && fld n 232 8 == 0 && fld n 168 8 == 0
    && fld n 64 43 == 0 && fld n 57 7 == 0
    && (d.mem || (d.base < 2 ^ 23 && d.sbase < 2 ^ 23)) && (!d.mem || d.swz == 0)
    && (!d.mx || (mxType d.ty && groupElems d.ty * d.n0 % 32 == 0))

/-- Groups of a pass. -/
def Desc.groups (d : Desc) : Nat := d.n0 * d.n1 * d.n2 * d.n3

/-- Elements of a pass, T (R98). -/
def Desc.total (d : Desc) : Nat := groupElems d.ty * d.groups

/-- The address of a group by its index in stream order (R98). -/
def Desc.addr (d : Desc) (i : Nat) : Int :=
  d.base + (i % d.n0 : Nat) * d.s0 + (i / d.n0 % d.n1 : Nat) * d.s1 + (i / (d.n0 * d.n1) % d.n2 : Nat) * d.s2
    + (i / (d.n0 * d.n1 * d.n2) : Nat) * d.s3

/-- The address of the scale of a block (R100). -/
def Desc.scaleAddr (d : Desc) (b : Nat) : Int := d.sbase + (b : Int) * d.sstr

/-- Elements of a loop-0 run, R (R99). -/
def Desc.run (d : Desc) : Nat := groupElems d.ty * d.n0

/-- Vectors of a run, W. -/
def Desc.perRun (d : Desc) : Nat := (d.run + lanes d.ty - 1) / lanes d.ty

/-- Vectors of a pass, V (R99). -/
def Desc.vectors (d : Desc) : Nat :=
  if d.align0 then d.perRun * d.n1 * d.n2 * d.n3 else (d.total + lanes d.ty - 1) / lanes d.ty

/-- The first element of a vector and how many elements it holds (R99). -/
def Desc.vecRange (d : Desc) (v : Nat) : Nat × Nat :=
  let w := lanes d.ty
  if d.align0 then
    let r := v / d.perRun
    let k := v % d.perRun * w
    (r * d.run + k, min w (d.run - k))
  else (v * w, min w (d.total - v * w))

/-- The vector that holds an element, and its lane. -/
def Desc.vecOfElem (d : Desc) (e : Nat) : Nat × Nat :=
  let w := lanes d.ty
  if d.align0 then
    let r := e / d.run
    let k := e % d.run
    (r * d.perRun + k / w, k % w)
  else (e / w, e % w)

/-- The spread of a walk, from its least to its greatest group address (R313). -/
def Desc.extent (d : Desc) : Int × Int :=
  let ext (n : Nat) (st : Int) : Int × Int := if st < 0 then (((n - 1 : Nat) : Int) * st, 0) else (0, ((n - 1 : Nat) : Int) * st)
  let l := [ext d.n0 d.s0, ext d.n1 d.s1, ext d.n2 d.s2, ext d.n3 d.s3]
  (l.foldl (fun a p => a + p.1) (d.base : Int), l.foldl (fun a p => a + p.2) (d.base : Int) + groupBytes d.ty)

/-! ### A pass -/

/-- One group of a pass: its first element, bytes, and the scale of the block that it starts. -/
structure Grp where
  e : Nat
  bytes : List Byte
  scale : Option Byte
  deriving DecidableEq, Repr

/-- Which side of a transfer a pass walks: a window of a cluster, or memory by virtual address. -/
inductive Side where
  | win (cl : Nat)
  | mem
  deriving DecidableEq, Repr

/-- A cause at an element of a word (R114), raised after issue. -/
def atElem {α : Type} (e : Nat) (r : Res α) : Res α :=
  match r with
  | .ok a => .ok a
  | .error c => .error { c with e := e, issued := true, info := if c.cause = .dramUe ∨ c.cause = .aborted ∨ c.cause = .noAttempt then c.info else BitVec.ofNat 64 e }

/-- Reads bytes of a group or scale at an address of a side. -/
def sideRead (s : State) (u : UnitId) (a : Acc) (side : Side) (mode : Nat) (addr : Int) (n : Nat) : Res (State × List Byte) :=
  match side with
  | .win cl => (winRead s u cl mode addr n).map (fun bs => (s, bs))
  | .mem => vread s a .l2 (addr % 2 ^ 64).toNat n

/-- The alignment check of a group address. -/
def alignCheck (t : Ty) (addr : Int) (write : Bool) : Res Unit :=
  if addr % groupAlign t != 0 then raiseAt .align (addr % 2 ^ 64).toNat write else .ok ()

/-- A group of a pass with its scale, read. -/
def readGroup (s : State) (u : UnitId) (a : Acc) (side : Side) (d : Desc) (i : Nat) : Res (State × Grp) :=
  let e := groupElems d.ty * i
  atElem e do
    let (s, sc) ←
      if d.mx && e % 32 == 0 then do
        let (s, b) ← sideRead s u a side 0 (d.scaleAddr (e / 32)) 1
        pure (s, b.head?)
      else pure (s, none)
    alignCheck d.ty (d.addr i) false
    let (s, bs) ← sideRead s u a side d.swz (d.addr i) (groupBytes d.ty)
    pure (s, ({ e, bytes := bs, scale := sc } : Grp))

/-- A walk that first touches a page prefetches the page of its next address outside it (R311). -/
def prefetchNext (s : State) (a : Acc) (addr : Int) (rest : List Int) : State :=
  let page (x : Int) : Nat := (x % 2 ^ 64).toNat / 4096
  if a.unit.isNone || (tlbFind s.dev a .read (4096 * page addr)).isSome then s
  else match rest.find? fun x => page x != page addr with
    | some x => s.onDev fun d => tlbPrefetch d a (x % 2 ^ 64).toNat
    | none => s

/-- The groups of a pass from index i on, up to the first cause. -/
def readPass (u : UnitId) (a : Acc) (side : Side) (d : Desc) : Nat → Nat → State → State × List Grp × Option CauseRec
  | 0, _, s => (s, [], none)
  | n + 1, i, s =>
    let s := if side = .mem then prefetchNext s a (d.addr i) ((List.range n).map fun k => d.addr (i + 1 + k)) else s
    match readGroup s u a side d i with
    | .error c => (s, [], some c)
    | .ok (s, g) =>
      let r := readPass u a side d n (i + 1) s
      (r.1, g :: r.2.1, r.2.2)

/-- One planned write at a side. -/
def sideWrite (s : State) (u : UnitId) (a : Acc) (side : Side) (plan : List Wr) (w : Wr) : Res State :=
  match side with
  | .win cl => winWrite s u cl plan w
  | .mem => vwriteMasked s a u .l2 false (w.addr % 2 ^ 64).toNat w.bytes

/-- The writes of a group to its place in a destination pass. -/
def planGroup (d : Desc) (g : Grp) : List Wr :=
  let i := g.e / groupElems d.ty
  (match g.scale with
    | some b => [{ e := g.e, addr := d.scaleAddr (g.e / 32), mode := 0, bytes := [(b, 0xFF)] }]
    | none => [])
    ++ [{ e := g.e, addr := d.addr i, mode := d.swz, bytes := fullMask g.bytes }]

/-- The writes of the groups from index i on, which a stopped word has yet to make. -/
def restPlan (d : Desc) (i : Nat) : List Wr :=
  ((List.range (d.groups - i)).map fun k =>
    let e := groupElems d.ty * (i + k)
    planGroup d { e, bytes := List.replicate (groupBytes d.ty) 0, scale := if d.mx && e % 32 == 0 then some 0 else none }).flatten

/-- Every write that a word is to make, whose lines it may write whole (R105): also those from the element on at which it
stops or waits. -/
def wholePlan (d : Desc) (plan : List Wr) (rest : Option Nat) : List Wr :=
  match rest with
  | some e => plan ++ restPlan d (e / groupElems d.ty)
  | none => plan

/-- A list of planned writes leaves no line half written that the whole plan writes whole (R105, R213). -/
def wholeLines (plan part : List Wr) : Bool :=
  part.all fun w => (linesOf (w.addr % 2 ^ 64).toNat w.bytes.length).all fun l => !coversLine plan w.mode l || coversLine part w.mode l

/-- Performs planned writes in order up to the first cause; each destination address is aligned for its type. -/
def writePlan (u : UnitId) (a : Acc) (sides : List Side) (t : Ty) (plan : List Wr) : List Wr → State → State × Option CauseRec
  | [], s => (s, none)
  | w :: ws, s =>
    let s := if sides.contains .mem then prefetchNext s a w.addr (ws.map (·.addr)) else s
    let r := atElem w.e do
      if w.bytes.length == groupBytes t then alignCheck t w.addr true
      sides.foldlM (fun s side => sideWrite s u a side plan w) s
    match r with
    | .error c => (s, some c)
    | .ok s' => writePlan u a sides t plan ws s'

/-- How a word ends that moves elements one after the other: with all of them, with a cause at one, or waiting at one,
counted or not by the watchdog, for an access perhaps. -/
inductive Halt where
  | done
  | stop (c : CauseRec)
  | wait (e : Nat) (counted : Bool) (ask : Option Await)
  deriving DecidableEq, Repr

/-- A cause stops the word, and an access that is not performed yet makes it wait. -/
def haltOf : Option CauseRec → Halt
  | none => .done
  | some c => match c.await with
    | some w => .wait c.e false (some w)
    | none => .stop c

/-- The end that is met first. -/
def Halt.orElse : Halt → Halt → Halt
  | .done, h => h
  | h, _ => h

/-- The element of an end before the last one. -/
def Halt.elem : Halt → Option Nat
  | .done => none
  | .stop c => some c.e
  | .wait e _ _ => some e

/-- Marks the pages of addresses lo to hi - 1. -/
def markRange (s : State) (a : Acc) (lo hi : Int) : State :=
  s.onDev fun dv => markExtent dv a ((hi - 1) / 4096 - lo / 4096 + 1).toNat (lo / 4096 % 2 ^ 52).toNat

/-- Marks the extent of a memory destination, and of its scales (R313). -/
def markDest (s : State) (a : Acc) (d : Desc) : State :=
  let s := markRange s a d.extent.1 d.extent.2
  if d.mx then
    let first := d.scaleAddr 0
    let last := d.scaleAddr ((d.total + 31) / 32 - 1)
    markRange s a (min first last) (max first last + 1)
  else s

end Sys2Proof.Machine
end

