-- ==== Sys2Proof/Machine/Ops.lean ====
section
/-! DEFINITION. The named operations that the meanings share: X registers, sequencers, tokens and signals, taking a cause
(R359 to R367) and returning from it (R369), and the issue and retirement of an engine word (R24, R25, R38, R362). -/

namespace Sys2Proof.Machine

/-- The outcome of an instruction. -/
abbrev Out := Host.Outcome State Fault Refusal

/-! ### X registers and PC -/

/-- x[r]; x0 reads zero (R10). -/
def xget (s : State) (r : BitVec 5) : Word := if r = 0 then 0 else s.core.x[r.toNat]'(r.isLt)

/-- Writes x[r]; a write to x0 is discarded. -/
def xset (s : State) (r : BitVec 5) (v : Word) : State :=
  if r = 0 then s else { s with core := { s.core with x := s.core.x.set r.toNat v (r.isLt) } }

/-- X goes on at an address. -/
def goto (s : State) (a : Word) : State := { s with core := { s.core with pc := a, xwait := .none } }

/-- X goes on at the next word. -/
def advance (s : State) : State := goto s (s.core.pc + 4)

/-- The instruction takes effect and X goes on. -/
def nextX (s : State) : Out := .next (advance s)

/-- X waits at its instruction (R364). -/
def waitX (s : State) (w : XWait) : Out := .next { s with core := { s.core with xwait := w } }

/-! ### Sequencers -/

/-- The sequencer of an identity. -/
def seqOf (s : State) : SeqId → Seq
  | .l => s.core.l
  | .c => s.core.c
  | .s => s.core.s
  | .e m => if h : m < 48 then (s.dev.ce[m]'h).seq else Seq.init

/-- Replaces a sequencer. -/
def setSeq (s : State) (u : SeqId) (q : Seq) : State :=
  match u with
  | .l => { s with core := { s.core with l := q } }
  | .c => { s with core := { s.core with c := q } }
  | .s => { s with core := { s.core with s := q } }
  | .e m => if h : m < 48 then { s with dev := { s.dev with ce := s.dev.ce.set m { (s.dev.ce[m]'h) with seq := q } h } } else s

/-- Index register of a sequencer. -/
def iget (q : Seq) (i : BitVec 4) : Word := q.idx[i.toNat]'(i.isLt)

/-- Writes an index register. -/
def iset (q : Seq) (i : BitVec 4) (v : Word) : Seq := { q with idx := q.idx.set i.toNat v (i.isLt) }

/-- A copy engine (R29: it has no token queues). -/
def isCopy : SeqId → Bool
  | .e _ => true
  | _ => false

/-- Unit code of a cause (R359). -/
def unitCode : UnitId → Nat
  | .x => 0
  | .seq .l => 1
  | .seq .c => 2
  | .seq .s => 3
  | .seq (.e _) => 4

/-- Bit of a unit's signals in a producer mask (R296). -/
def sourceBit : SeqId → Nat
  | .l => 1
  | .c => 2
  | .s => 3
  | .e _ => 4

/-! ### Tokens (R28) -/

/-- The queue that TKI names; none for code 0. -/
def tkiQueue (u : SeqId) (c : BitVec 2) : Option Nat :=
  match u, c.toNat with
  | .l, 1 => some 0 | .l, 2 => some 7 | .l, 3 => some 10
  | .c, 1 => some 4 | .c, 2 => some 1 | .c, 3 => some 11
  | .s, 1 => some 5 | .s, 2 => some 8 | .s, 3 => some 2
  | _, _ => none

/-- The queue that TKO names; none for code 0. -/
def tkoQueue (u : SeqId) (c : BitVec 2) : Option Nat :=
  match u, c.toNat with
  | .l, 1 => some 3 | .l, 2 => some 4 | .l, 3 => some 5
  | .c, 1 => some 7 | .c, 2 => some 6 | .c, 3 => some 8
  | .s, 1 => some 10 | .s, 2 => some 11 | .s, 3 => some 9
  | _, _ => none

/-- Sending and receiving sequencer of a queue: 0 X, 1 L, 2 C, 3 S. -/
def queueEnds (k : Nat) : BitVec 2 × BitVec 2 :=
  let f := k / 3
  let t := k % 3
  (BitVec.ofNat 2 f, BitVec.ofNat 2 (if t < f then t else t + 1))

/-- Tokens in a queue. -/
def tokens (c : Core) (k : Nat) : Nat := if h : k < 12 then c.tok[k]'h else 0

/-- Sets a token count. -/
def setTokens (c : Core) (k n : Nat) : Core := if h : k < 12 then { c with tok := c.tok.set k n h } else c

/-- Pushes a token; one for X sets event 1 (R298). -/
def pushToken (c : Core) (k : Nat) : Core :=
  let c := setTokens c k (tokens c k + 1)
  if k % 3 == 0 && k != 0 then { c with ev := c.ev ||| 2 } else c

/-! ### Causes (R359 to R367) -/

/-- A cause of class INSN or ARITH names its word in TRAP_PC (R366). -/
def wordClass (c : Cause) : Bool := causeClass c ≤ 1

/-- What a cause leaves in the device, raised by a unit of the Seam's ASID or by another: the A bit of the leaf that the walk
reached (R310), the demotion of the row that failed (R378), and the flags of the open attempt (R348); an error in the
metadata of a pleat block is its controller's (R331). -/
def causeLeaves (c : CauseRec) (seam : Bool) (d : Dev) : Dev :=
  let d := match c.leaf with
    | some l => match l2Read d l 8 with
      | some bs =>
        let e := ofBytesLE bs
        if bit e 5 then d
        else if isPrimary d l || isSecondary d l then homeStore d l (toBytesLE 8 (e ||| 32)) else l2Store d l (toBytesLE 8 (e ||| 32))
      | none => d
    | none => d
  let d := match c.dram with
    | some pa => demote d (rowKey (pa / 32))
    | none => d
  if c.ctl || causeClass c.cause == 6 && seam then flagAttempt d flCorrupt
  else if causeClass c.cause == 5 then flagAttempt d flFault
  else d

/-- What raising a cause in a unit of the core in focus leaves in the device. -/
def raiseFlags (s : State) (c : CauseRec) : State :=
  correctWords (s.onDev (causeLeaves c (seamEn s.dev && s.core.asid == seamAsid s.dev))) c.soft

/-- A cause as its unit holds it once it is raised. -/
def CauseRec.bare (c : CauseRec) : CauseRec := { c with await := none, leaf := none, soft := [], dram := none, ctl := false }

/-- The address of the context frame (R293). -/
def frameBase (tf : Word) : Nat := tf.toNat / 2 ^ 22 * 2 ^ 22

/-- The identity of a frame access: the task's ASID, outside any checking rule. -/
def frameAcc (s : State) : Acc := accDev s.dev s.core.asid

/-- The identity of the frame write of a delivery, which X makes (R367). -/
def trapAcc (s : State) : Acc := { frameAcc s with unit := some (s.core.gcore, .x) }

/-- The bytes of x1 to x7. -/
def x17Bytes (c : Core) : List Byte := (((c.x.toList.drop 1).take 7).map fun w => toBytesLE 8 w.toNat).flatten

/-- TRAP_CAUSE of a cause (R367). -/
def trapCauseWord (u : UnitId) (c : CauseRec) : Word :=
  let acc := causeClass c.cause == 2
  (causeCode c.cause (unitCode u)).setWidth 64 ||| (if acc && c.write then 0x800 else 0) ||| (if acc && c.fetch then 0x1000 else 0)

/-- TRAP_PC, TRAP_ADDR of a cause delivered while X's resume point is `rp` (R366). -/
def trapPcAddr (u : UnitId) (c : CauseRec) (rp : Word) : Word × Word :=
  match u with
  | .x => if c.cause = .brk then (rp + 4, 0) else (rp, c.addr.getD 0)
  | .seq _ => if wordClass c.cause then (c.pc, rp) else (rp, c.addr.getD c.pc)

/-- Stops the launch of the task on the core in focus after a double fault, and logs the cause as raised (R367). -/
def doubleFault (s : State) (u : UnitId) (c : CauseRec) : State :=
  let s' := match s.core.task with
    | some t => stopLaunch s t.launch
    | none => { s with core := clearCore s.core }
  elog s' (causeCode c.cause (unitCode u)) 5 (corePlace s.core.gcore) 0

/-- A unit waits for an access that is not performed yet (R319, R347). -/
def awaitAsk (s : State) (u : UnitId) : Await → State
  | .ask rank acc => sendAsk s u rank acc
  | .busy => s

/-- X has entered its handler on a cause (R366, R367): the trap registers are written, X goes on at TRAP_VEC, its own accesses
are over, and a waiting CACQ leaves the line of its clasp (R235). A pre-emption for priority waits until handler mode ends. -/
def enterHandler (s : State) (u : UnitId) (c : CauseRec) : State :=
  let pa := trapPcAddr u c s.core.pc
  let s := dropAsks s .x
  { s with
    core := { s.core with
      trapCause := trapCauseWord u c, trapPc := pa.1, trapAddr := pa.2, trapInfo := c.info,
      handler := true, delivered := some (u, c), pc := s.core.trapVec, xwait := .none, wfeHit := false,
      twaitLate := false, saving := if s.core.saving = some .preempt then none else s.core.saving }
    dev := { s.dev with claspWait := s.dev.claspWait.filter fun w => w.2 != s.core.gcore } }

/-- Delivery of a cause to X (R366, R367): x1 to x7 go to the frame, and X enters its handler. In handler mode, or with
TRAP_VEC = 0, it is a double fault; a frame that cannot be written stops the launch (R274); where the write is not performed
yet, the delivery waits for it (R319, R347). A sequencer's cause that is delivered stands as such in it. -/
def deliverCause (s : State) (u : UnitId) (c : CauseRec) : State :=
  if s.core.handler || s.core.trapVec == 0 then doubleFault s u c
  else
    match vwrite s (trapAcc s) .x .l2 true (frameBase s.core.taskFrame + 0x40) (x17Bytes s.core) with
    | .error e =>
      match e.await, s.core.task with
      | some w, _ => awaitAsk s .x w
      | none, some t => stopLaunch s t.launch
      | none, none => { s with core := clearCore s.core }
    | .ok s1 =>
      enterHandler (match u with
        | .seq q => setSeq s1 q { seqOf s1 q with delivered := true }
        | .x => s1) u c

/-- A cause raised in X at its instruction, which X executes again where the delivery has to wait. -/
def trapX (s : State) (c : CauseRec) : State := deliverCause (raiseFlags s c) .x { c.bare with pc := s.core.pc }

/-- The instruction of X stops on a cause, or waits for an access. -/
def stopX (s : State) (c : CauseRec) : Out :=
  match c.await with
  | some w => waitX (awaitAsk s .x w) .access
  | none => .next (trapX s c)

/-- A cause of class INSN raised in X by a word. -/
def insnX (s : State) (c : Cause) (i : Instr) : Out := .next (trapX s { cause := c, info := BitVec.ofNat 64 (encode i) })

/-- An instruction of X ends in a next state, or in the cause that stops it. -/
def runX (s : State) (r : Res State) : Out :=
  match r with
  | .ok s' => .next s'
  | .error c => stopX s c

/-- An instruction of X that goes on at the next word. -/
def stepX (s : State) (r : Res State) : Out := runX s (r.map advance)

/-- The same, for an instruction that may raise a cause of class INSN, which reports its word. -/
def stepI (i : Instr) (s : State) (r : Res State) : Out :=
  match r with
  | .ok s' => nextX s'
  | .error c => stopX s (if causeClass c.cause == 0 then { c with info := BitVec.ofNat 64 (encode i) } else c)

/-! ### Commands (R44 to R46, R252) -/

/-- Takes the next queued command, or idles. -/
def nextCommand (q : Seq) : Seq :=
  match q.queue with
  | (entry, par) :: rest => { iset q 0 par with pc := entry, running := true, queue := rest }
  | [] => { q with running := false }

/-- A flushed sequencer whose issued words are gone is idle, or takes a command that X has given it since (R300). -/
def endFlush (q : Seq) : Seq :=
  if q.flushed && q.flight.isNone then
    nextCommand { q with early := [], undo := none, flushed := false, cause := none, delivered := false, resume := none,
                         wait := .none, drained := false }
  else q

/-- An issued word waits at an element, or is to go on from one after a TRET: it completes before a save and in a flush
(R300, R365). -/
def stalledWord (q : Seq) : Bool := q.cause.isNone && (q.resume.map fun r => r.issued && !r.again).getD false

/-- What a command has issued and left behind is marked as its command completes (R217). -/
def endCommand (d : Dev) (g : Nat) (u : SeqId) : Dev :=
  { d with
    nops := d.nops.map fun n => if n.core == g && decide (n.unit = .seq u) then { n with cmd := true } else n
    qposts := d.qposts.map fun q => if q.core == g && decide (u = .c) then { q with cmd := true } else q
    peerOut := d.peerOut.map fun p => if p.core == g && decide (p.unit = u) then { p with cmd := true } else p }

/-- The running command of a sequencer is complete: the next one starts, and the event is latched (R49, R298). A copy
engine's program ends, and the event goes to the core that posted it. -/
def completeCommand (s : State) (u : SeqId) : State :=
  let q := { seqOf s u with cause := none, delivered := false, resume := none, flight := none,
                              early := [], undo := none, flushed := false, wait := .none, drained := false }
  match u with
  | .e m =>
    if h : m < 48 then
      let s := { s with dev := { s.dev with ce := s.dev.ce.set m { (s.dev.ce[m]'h) with seq := { q with running := false }, prog := none } h } }
      { s with core := { s.core with ev := s.core.ev ||| 8 } }
    else s
  | _ =>
    let s := (setSeq s u (nextCommand q)).onDev (endCommand · s.core.gcore u)
    { s with core := { s.core with ev := s.core.ev ||| 4 } }

/-- Return from a delivered cause (R369): the stopped word resumes or is discarded, and X goes on where the cause's class
and the form say. What TRET.SKIP discards of a fused group is its word 1, at which the group has stopped: C goes on at word 2
(R180 has execution resume at word 1 and does not say what a discarded group is; DESIGN CHOICE, log entry 92). -/
def returnTrap (s : State) (skip : Bool) : State :=
  let leave (s : State) (pc : Word) : State :=
    goto { s with core := { s.core with
      handler := false, delivered := none, l := { s.core.l with drained := false }, c := { s.core.c with drained := false }
      s := { s.core.s with drained := false } } } pc
  match s.core.delivered with
  | none => leave s s.core.trapPc
  | some (.x, _) => leave s (if skip then s.core.trapPc + 4 else s.core.trapPc)
  | some (.seq u, c) =>
    let q := seqOf s u
    let pc := if wordClass c.cause then s.core.trapAddr else s.core.trapPc
    match q.cause, q.delivered with
    | some k, true =>
      if k.estop then leave (completeCommand s u) pc
      else if skip then
        leave (setSeq s u { q with cause := none, delivered := false, resume := none, wait := .none, pc := k.pc + 8 }) pc
      else
        leave (setSeq s u { q with cause := none, delivered := false, pc := k.pc,
                                    wait := if k.cause = .waitTimeout then q.wait else .none,
                                    resume := some { e := k.e, issued := k.issued, keep := k.keep, descs := k.descs } }) pc
    | _, _ => leave s pc

/-! ### Issue of an engine word (R24, R38, R362) -/

/-- What a word does once it has issued: the state, the cause that stops it, the flags for VFSTAT, what its completion
waits for, the vectors it popped, the peer it waits for, and where its stream goes on. -/
structure Eng where
  s : State
  err : Option CauseRec := none
  flags : FFlags := 0
  kind : FlightKind := .plain
  done : Bool := true
  held : List (Nat × List QVec) := []
  ends : List Nat := []
  rank : Nat := 0
  e : Nat := 0
  pc : Option Word := none
  estop : Bool := false
  /-- the word waits at an element, with its issue actions kept (R242) -/
  wait : Option Nat := none
  /-- the watchdog counts the wait -/
  counted : Bool := true
  /-- the access that it waits for -/
  ask : Option Await := none
  /-- what its resumption keeps: groups read (R113) and descriptors (R102) -/
  keep : List (Nat × List Byte × Option Byte) := []
  descs : List Nat := []
  /-- a popped vector that the waiting word has yet to use up (R190) -/
  cur : Option QVec := none
  /-- what it writes when its hem phase ends -/
  late : Option Late := none
  /-- the cause at which an XFER stops once its peer has accepted the elements before it (R114) -/
  stop : Option CauseRec := none
  deriving DecidableEq, Repr

/-- The sequencers that may run a word, by the letters of R36. -/
structure Valid where
  l : Bool := false
  c : Bool := false
  s : Bool := false
  e : Bool := false
  deriving DecidableEq, Repr

/-- The sequencer is in the set. -/
def Valid.ok (v : Valid) : SeqId → Bool
  | .l => v.l
  | .c => v.c
  | .s => v.s
  | .e _ => v.e

/-- A copy engine's program that stops is an event of the core that posted it (R298). -/
def stopEvent (s : State) (u : SeqId) : State :=
  match u with
  | .e _ => { s with core := { s.core with ev := s.core.ev ||| 8 } }
  | _ => s

/-- A word of these bits stops on a cause: its sequencer holds it until X takes it; a flushed one discards it (R300). -/
def raiseBits (s : State) (u : SeqId) (w : Word) (c : CauseRec) : State :=
  let q := seqOf s u
  if q.flushed then raiseFlags (setSeq (dropAsks s (.seq u)) u (endFlush { q with resume := none })) c else
  let issued := c.issued || (q.resume.map (·.issued)).getD false
  let info := if causeClass c.cause == 0 then w else c.info
  raiseFlags (setSeq (stopEvent (dropAsks s (.seq u)) u) u
    { q with cause := some { c.bare with pc := q.pc, issued, info }, delivered := false, resume := none,
             wait := if c.cause = .waitTimeout then q.wait else .none }) c

/-- An instruction stops on a cause. -/
def raiseWord (s : State) (u : SeqId) (i : Instr) (c : CauseRec) : State := raiseBits s u (BitVec.ofNat 64 (encode i)) c

/-- The vectors that a retired word popped no longer count as held (R190). -/
def dropHeld (c : Core) (h : Nat × List QVec) : Core :=
  if hk : h.1 < 8 then
    let r := c.q[h.1]'hk
    { c with q := c.q.set h.1 { r with held := r.held - h.2.length } hk }
  else c

/-- The vectors that a waiting word holds: those that it used up are gone, and the one in use returns to the head of its queue
(R112, R190). -/
def releaseHeld (c : Core) (r : Resume) : Core :=
  let c := r.held.foldl dropHeld c
  match r.cur, (r.held.head?).map (·.1) with
  | some x, some n =>
    if hn : n < 8 then
      let y := c.q[n]'hn
      { c with q := c.q.set n { y with vecs := x :: y.vecs, held := y.held - 1 } hn }
    else c
  | _, _ => c

/-- A word that waits or resumes at an element stops there on a cause before it does more: it keeps its issue actions, its
descriptors and the groups that it has read, and holds no vector any more (R190, R362). -/
def stopBits (s : State) (u : SeqId) (w : Word) (c : CauseRec) : State :=
  match (seqOf s u).resume with
  | none => raiseBits s u w c
  | some r => raiseBits { s with core := releaseHeld s.core r } u w { c with e := r.e, issued := r.issued, keep := r.keep, descs := r.descs }

/-- An instruction that waits or resumes stops on a cause before it does more. -/
def stopWord (s : State) (u : SeqId) (i : Instr) (c : CauseRec) : State := stopBits s u (BitVec.ofNat 64 (encode i)) c

/-- The own state of a sequencer, which a cancellation restores (R363). -/
def ownState (s : State) (u : SeqId) : Undo :=
  let q := seqOf s u
  let c := s.core
  { idx := q.idx, pc := q.pc, v := c.v, p := c.p, vrb := c.vrb, prb := c.prb, lflags := c.lflags, a := c.a, gp := c.gp, wp := c.wp
    pos := c.g.toList.map (·.pos) }

/-- A sequencer takes an own state, without words that issued past another one. -/
def putOwn (s : State) (u : SeqId) (x : Undo) : State :=
  let c := s.core
  let s := if u = .c then
      { s with core := { c with v := x.v, p := x.p, vrb := x.vrb, prb := x.prb, lflags := x.lflags, a := x.a, gp := x.gp, wp := x.wp
                                g := vtab fun i => { c.g[i] with pos := (x.pos[i.val]?).getD 0 } } }
    else s
  setSeq s u { seqOf s u with idx := x.idx, pc := x.pc, early := [], undo := none }

/-- The confined words that issued past an incomplete word are cancelled (R363). -/
def cancelEarly (s : State) (u : SeqId) : State :=
  match (seqOf s u).undo with
  | none => s
  | some x => putOwn s u x

/-- A word waits for an access, at an element, with its issue actions kept. -/
def awaitSeq (s : State) (u : SeqId) (c : CauseRec) (w : Await) : State :=
  let s := awaitAsk s (.seq u) w
  let q := seqOf s u
  let r := q.resume.getD { e := c.e, issued := true }
  setSeq s u { q with resume := some { r with e := c.e, issued := true, descs := if c.descs.isEmpty then r.descs else c.descs }
                      wait := .uncounted }

/-- The first unmet condition of R24, in the order semaphore, TKI, TKO (R297). -/
def issueTests (s : State) (u : SeqId) (y : Sync) : Option SWait :=
  if y.wthr ≠ 0 ∧ semVal s.core y.wsem < y.wthr.toNat then some (.sem y.wsem y.wthr)
  else match tkiQueue u y.tki with
    | some k =>
      if tokens s.core k == 0 then let e := queueEnds k; some (.pop e.1 e.2)
      else match tkoQueue u y.tko with
        | some j => if tokens s.core j ≥ Config.tokenSlots then let e := queueEnds j; some (.push e.1 e.2) else none
        | none => none
    | none => match tkoQueue u y.tko with
      | some j => if tokens s.core j ≥ Config.tokenSlots then let e := queueEnds j; some (.push e.1 e.2) else none
      | none => none

/-! ### Freeze and drain (R365) -/

/-- How a sequencer acts while causes of other units are pending or handled. -/
inductive Hold where
  | run | drain | freeze
  deriving DecidableEq, Repr

/-- The stronger of two. -/
def Hold.join : Hold → Hold → Hold
  | .freeze, _ | _, .freeze => .freeze
  | .drain, _ | _, .drain => .drain
  | .run, .run => .run

/-- A cause raised in X. -/
def holdByX (c : Cause) : Hold :=
  match causeClass c with
  | 5 => .drain
  | 6 => .freeze
  | _ => .run

/-- A cause raised in an engine or copy engine. -/
def holdByEngine (c : Cause) : Hold :=
  match causeClass c with
  | 2 | 5 => .drain
  | 3 => .run
  | _ => .freeze

/-- Copy engines that run a program of a core. -/
def enginesOf (d : Dev) (g : Nat) : List Nat := (List.range 48).filter fun m =>
  if h : m < 48 then (d.ce[m]'h).prog == some g else false

/-- What the causes of the other units of a core ask of a sequencer; copy engines always run. -/
def holdOf (s : State) (u : SeqId) : Hold :=
  if isCopy u then .run
  else
    let others := ([SeqId.l, .c, .s].filter (· ≠ u)) ++ (enginesOf s.dev s.core.gcore).map SeqId.e
    let h := (others.filterMap fun v => (seqOf s v).cause).foldl (fun h c => h.join (holdByEngine c.cause)) Hold.run
    match s.core.delivered with
    | some (.x, c) => h.join (holdByX c.cause)
    | some (.seq v, c) => if v = u then h else h.join (holdByEngine c.cause)
    | none => h

/-- The sequencer issues no word now: its core is being saved, or it is frozen (R365, R371). -/
def issuesNot (s : State) (u : SeqId) : Bool :=
  !isCopy u && (s.core.saving.isSome || decide (holdOf s u = .freeze) || decide (holdOf s u = .drain) && (seqOf s u).drained)

/-! ### The order of waiters (R26) -/

/-- The instruction at which X waits, if it can be read. -/
def heldWord (s : State) : Option Instr :=
  match vreadPage s { accOf s with unit := some (s.core.gcore, .x) } .exec .l2 s.core.pc.toNat 4 with
  | .ok (_, bs) => match decodeScalarBytes bs with
    | .ok (i, _) => some i
    | .error _ => none
  | .error _ => none

/-- The synchronisation fields of the word at which a sequencer waits. -/
def heldSync (s : State) (v : SeqId) : Option Sync :=
  match vreadPage s { accOf s with unit := some (s.core.gcore, .seq v) } .exec .l2 (seqOf s v).pc.toNat 8 with
  | .ok (_, bs) => match decodeEngineBytes bs with
    | .ok (i, _) => i.sync?
    | .error _ => none
  | .error _ => none

/-- The count of a semaphore that X takes when its SWAIT can go on. -/
def xClaim (s : State) (n : BitVec 8) : Nat :=
  if s.core.xwait = .swait then
    match heldWord s with
    | some (.swait k thr) => if k = n && thr.toNat ≤ semVal s.core n then thr.toNat else 0
    | _ => 0
  else 0

/-- The count of a semaphore that a sequencer takes when it waits for it and can issue now. -/
def seqClaim (s : State) (n : BitVec 8) (v : SeqId) : Nat :=
  let q := seqOf s v
  match q.wait with
  | .sem k _ =>
    if k = n && q.running && q.cause.isNone && q.flight.isNone && !issuesNot s v then
      match heldSync s v with
      | some y => if (issueTests s v y).isNone then y.wthr.toNat else 0
      | none => 0
    else 0
  | _ => 0

/-- The units before one in the order X, L, C, S and the copy engines of the task in ascending number. -/
def unitsBefore (s : State) : SeqId → List SeqId
  | .l => []
  | .c => [.l]
  | .s => [.l, .c]
  | .e m => [.l, .c, .s] ++ ((enginesOf s.dev s.core.gcore).filter (· < m)).map SeqId.e

/-- The first unmet condition of a word: R24's, and that the count covers the waiters that come before it (R26). -/
def issueWait (s : State) (u : SeqId) (y : Sync) : Option SWait :=
  match issueTests s u y with
  | some w => some w
  | none =>
    let first := xClaim s y.wsem + (unitsBefore s u).foldl (fun n v => n + seqClaim s y.wsem v) 0
    if y.wthr ≠ 0 ∧ semVal s.core y.wsem < first + y.wthr.toNat then some (.sem y.wsem y.wthr) else none

/-! ### The issue -/

/-- The synchronisation fields of a fused group: word 1's WAIT and TKI, word 4's SIG and TKO (R179). -/
def groupSync (o : FusedOp) : Sync := { wthr := o.wthr, wsem := o.wsem, sinc := o.sinc, ssem := o.ssem, tki := o.tki, tko := o.tko }

/-- The synchronisation fields with which an engine word issues. -/
def wordSync (i : Instr) : Option Sync :=
  match i with
  | .fusedSoftmaxGroup o => some (groupSync o)
  | i => i.sync?

/-- The actions of the issue cycle: the count and the token are taken. The TKO slot needs no mark, since only this
sequencer pushes to that queue and it has one word in flight. -/
def issueTake (s : State) (u : SeqId) (y : Sync) : State :=
  let c := if y.wthr = 0 then s.core else semSet s.core y.wsem (semVal s.core y.wsem - y.wthr.toNat)
  let c := match tkiQueue u y.tki with
    | some k => setTokens c k (tokens c k - 1)
    | none => c
  { s with core := c }

/-- The sequencer waits at its word. -/
def waitSeq (s : State) (u : SeqId) (w : SWait) : State := setSeq s u { seqOf s u with wait := w }

/-- The word is in flight until it retires. -/
def fly (s : State) (u : SeqId) (y : Sync) (i : Instr) (pc : Word) (r : Eng) : State :=
  let q := seqOf s u
  setSeq s u { q with
    pc := r.pc.getD (pc + 8), wait := .none, resume := none
    flight := some { kind := r.kind, done := r.done, pc, word := BitVec.ofNat 64 (encode i), sinc := y.sinc, ssem := y.ssem,
                     tko := tkoQueue u y.tko, estop := r.estop, flags := r.flags, held := r.held, ends := r.ends, e := r.e, rank := r.rank, late := r.late,
                     stop := r.stop, descs := r.descs } }

/-- A copy-engine number that R8 does not give. -/
def noUnit : SeqId → Bool
  | .e m => m ≥ 48
  | _ => false

/-- The word waits at an element and goes on from there. -/
def stallWord (s : State) (u : SeqId) (e : Nat) (r : Eng) : State :=
  let s := match r.ask with
    | some w => awaitAsk s (.seq u) w
    | none => s
  setSeq s u { seqOf s u with
    resume := some { e, issued := true, held := r.held, keep := r.keep, descs := r.descs, cur := r.cur }
    wait := if r.counted then .counted else .uncounted }

/-- One engine word at its sequencer: decode checks in the order of R38, issue conditions, the checks of the issue
cycle, the issue actions, and the word's effect `body`, which gets the resumption of a stopped word. -/
def issueWord (i : Instr) (y : Sync) (v : Valid) (decode : State → SeqId → Res Unit) (ready : State → SeqId → Option SWait)
    (early : State → SeqId → Res Unit) (body : State → SeqId → Nat → Eng) (s : State) : Out :=
  match s.unit with
  | .x => .refused (.cannotOccur "engine word in X")
  | .seq u =>
    if noUnit u then .fault .noSuchUnit
    else
      let q := seqOf s u
      if q.flight.isSome then .next (waitSeq s u .uncounted)
      else if !v.ok u then .next (stopWord s u i { cause := .seqMismatch })
      else if isCopy u && (y.tki != 0 || y.tko != 0) then .next (stopWord s u i { cause := .operand })
      else match decode s u with
        | .error c => .next (stopWord s u i c)
        | .ok _ =>
          let again := (q.resume.map (·.issued)).getD false
          match (if again then none else issueWait s u y), ready s u with
          | some w, _ => .next (waitSeq s u w)
          | none, some w => .next (waitSeq s u w)
          | none, none =>
            match early s u with
            | .error c => .next (stopWord s u i c)
            | .ok _ =>
              let s1 := if again then s else issueTake s u y
              let r := body s1 u ((q.resume.map (·.e)).getD 0)
              match r.err with
              | some c =>
                match c.await with
                | some w => .next (awaitSeq r.s u c w)
                | none => .next (raiseWord r.s u i { c with issued := true })
              | none =>
                match r.wait with
                | some e => .next (stallWord r.s u e r)
                | none => .next (fly r.s u y i q.pc r)

/-- No decode check beyond the decoder's. -/
def noCheck (_ : State) (_ : SeqId) : Res Unit := .ok ()

/-- No issue condition beyond R24. -/
def noWait (_ : State) (_ : SeqId) : Option SWait := none

/-! ### Retirement (R25 to R27) -/

/-- Retires the word in flight of a sequencer of the core in focus: flags, signal, token; a refused signal is reported
at the next word, or at an ESTOP itself, which is an event when a copy engine's program stops so (R298); a flushed stream
has no next word and discards it (R300). -/
def retireWord (s : State) (u : SeqId) (f : Flight) : State :=
  let q := seqOf s u
  let s := setSeq s u { q with flight := q.early.head?, early := q.early.tail, undo := (q.early.head?).bind (·.back) }
  let s := { s with core := { s.core with vfstat := s.core.vfstat ||| f.flags.setWidth 64 } }
  let s := f.held.foldl (fun s h => { s with core := dropHeld s.core h }) s
  let s := match f.tko with
    | some k => { s with core := pushToken s.core k }
    | none => s
  let inc := match f.sinc.toNat with | 1 => 1 | 2 => 2 | 3 => 4 | _ => 0
  let sig := if inc == 0 then .ok s.core else semAdd s.core (sourceBit u) f.ssem inc
  match sig with
  | .ok c =>
    let s := { s with core := c }
    if f.estop then completeCommand s u else setSeq s u (endFlush (seqOf s u))
  | .error e =>
    let cause := match e with | .refused => Cause.perm | .overflow => Cause.semOvf
    let q := seqOf s u
    if q.flushed then setSeq s u (endFlush q)
    else
    let rec' : CauseRec := { cause, info := if e = .overflow then f.ssem.setWidth 64 else 0, estop := f.estop,
                             pc := if f.estop then f.pc else q.pc }
    setSeq (stopEvent s u) u { q with cause := some rec', delivered := false }

/-- Popped vectors of a stopped word that it has not used up return to the heads of their queues (R190): those of a transfer
that end after its element, and all that a word of C popped. -/
def returnVecs (c : Core) (f : Flight) (e : Nat) : Core :=
  let back (c : Core) (n : Nat) (l all : List QVec) : Core :=
    if hn : n < 8 then
      let r := c.q[n]'hn
      { c with q := c.q.set n { r with vecs := l ++ r.vecs, held := r.held - all.length } hn }
    else c
  match f.held with
  | [] => c
  | h :: _ =>
    if f.ends.isEmpty then f.held.foldl (fun c h => back c h.1 h.2 h.2) c
    else
      let all := (f.held.map (·.2)).flatten
      back c h.1 (((all.zip f.ends).filter fun v => decide (e < v.2)).map (·.1)) all

/-- The word in flight of a sequencer stops at an element on a cause that it meets as it completes: the words that issued past
it are cancelled (R362, R363). A flushed sequencer discards the cause (R300). -/
def stopFlight (s : State) (u : SeqId) (f : Flight) (c : CauseRec) : State :=
  let s := cancelEarly { s with core := returnVecs s.core f c.e } u
  let q := { seqOf s u with flight := none }
  if q.flushed then raiseFlags (setSeq s u (endFlush q)) c
  else
    raiseFlags (setSeq (stopEvent s u) u { q with
      pc := f.pc, cause := some { c.bare with pc := f.pc, issued := true, descs := f.descs }, delivered := false, resume := none
      wait := .none }) c

end Sys2Proof.Machine
end

