-- ==== Sys2Proof/Machine/Flags.lean ====
section
/-! DEFINITION. The floating control and status registers (R74 to R77), the flags that a result sets and the traps that
they take (R84, R85, R89), and the lane-flag record (R155). -/

namespace Sys2Proof.Machine

/-- A rounding mode from a field of FCTL or VFCTL. -/
def rmodeOf (n : Nat) : RMode :=
  match n with
  | 0 => .rne | 1 => .rtz | 2 => .rup | 3 => .rdn | 4 => .rna | _ => .srd

/-- The effective mode of a rounding field under a control register (R77). -/
def effMode (sel : RmSel) (ctl : Word) : RMode :=
  match sel with
  | .stat m => m
  | .dyn => rmodeOf (fld ctl.toNat 0 3)

/-- TEN of FCTL or VFCTL. -/
def tenOf (ctl : Word) : FFlags := ctl.extractLsb' 8 5

/-- FTZ of FCTL. -/
def fctlFtz (ctl : Word) : Bool := ctl.getLsbD 3

/-- FTZ of VFCTL. -/
def vfctlFtz (ctl : Word) : Bool := ctl.getLsbD 4

/-- SAT of VFCTL. -/
def vfctlSat (ctl : Word) : Bool := ctl.getLsbD 5

/-- SEED of VFCTL. -/
def vfctlSeed (ctl : Word) : Nat := fld ctl.toNat 32 32

/-- The first trapping flag, in the order NV, DZ, OF, UF, NX (R85). -/
def arithCause (fl ten : FFlags) : Option Cause :=
  let t := fl &&& ten
  if t.getLsbD 4 then some .invalid
  else if t.getLsbD 3 then some .divzero
  else if t.getLsbD 2 then some .overflow
  else if t.getLsbD 1 then some .underflow
  else if t.getLsbD 0 then some .inexact
  else none

/-- Flags joined to FSTAT. -/
def addFstat (s : State) (fl : FFlags) : State :=
  { s with core := { s.core with fstat := s.core.fstat ||| fl.setWidth 64 } }

/-- A scalar floating result (R133): flags go to FSTAT, then the word traps or writes xd. -/
def floatX (s : State) (d : BitVec 5) (v : Word) (fl : FFlags) : Out :=
  let s := addFstat s fl
  match arithCause fl (tenOf s.core.fctl) with
  | some c => .next (trapX s { cause := c, info := fl.setWidth 64 })
  | none => nextX (xset s d v)

/-- The union of lane flags (R89). -/
def unionFlags : List FFlags → FFlags
  | [] => 0
  | f :: fs => f ||| unionFlags fs

/-- Rewrites the whole lane-flag record (R155). -/
def setLaneFlags (c : Core) (l : List FFlags) : Core := { c with lflags := sfrom 0 0 (l.take 1024) }

/-- An entry of the lane-flag record. -/
def laneFlag (c : Core) (i : Nat) : FFlags := sget 0 c.lflags i

/-- The rounding of C's words that are no conversion: SRD is INSN.OPERAND (R77). -/
def roundCheck (s : State) : Res Unit :=
  if rmodeOf (fld s.core.vfctl.toNat 0 3) = .srd then raise .operand else .ok ()

/-- The rounding context of VFCTL. -/
def vctx (s : State) : RCtx :=
  { mode := rmodeOf (fld s.core.vfctl.toNat 0 3), ftz := vfctlFtz s.core.vfctl, sat := vfctlSat s.core.vfctl }

end Sys2Proof.Machine
end

