-- ==== Sys2Proof/Machine/ScalarInt.lean ====
section
/-! DEFINITION. The scalar integer words (R124 to R128), and the scalar branches and jumps (R42, R43). -/

namespace Sys2Proof.Machine

/-- x[d] := v, and X goes on. -/
def writeX (d : BitVec 5) (v : Word) (s : State) : Out := nextX (xset s d v)

/-- An operation on x[a] and x[b]. -/
def intOp (d a b : BitVec 5) (f : Word → Word → Word) (s : State) : Out := writeX d (f (xget s a) (xget s b)) s

/-- A division: by zero it is ARITH.INT_DIVZERO and xd keeps its value (R125). -/
def divOp (d a b : BitVec 5) (f : Word → Word → Word) (s : State) : Out :=
  if xget s b = 0 then .next (trapX s { cause := .intDivzero }) else intOp d a b f s

/-- 1 or 0. -/
def boolWord (b : Bool) : Word := if b then 1 else 0

/-- floor(a × b / 2^64), signed or unsigned. -/
def mulHigh (sg : Bool) (a b : Word) : Word :=
  let v (w : Word) : Int := if sg then w.toInt else w.toNat
  BitVec.ofInt 64 (v a * v b / 2 ^ 64)

/-- ADD (R124). -/
def execAdd (d a b : BitVec 5) (s : State) : Out := intOp d a b (· + ·) s
/-- SUB. -/
def execSub (d a b : BitVec 5) (s : State) : Out := intOp d a b (· - ·) s
/-- MUL. -/
def execMul (d a b : BitVec 5) (s : State) : Out := intOp d a b (· * ·) s
/-- MULH. -/
def execMulh (d a b : BitVec 5) (s : State) : Out := intOp d a b (mulHigh true) s
/-- MULHU. -/
def execMulhu (d a b : BitVec 5) (s : State) : Out := intOp d a b (mulHigh false) s
/-- DIV: truncated toward zero; -2^63 by -1 gives -2^63 (R125). -/
def execDiv (d a b : BitVec 5) (s : State) : Out := divOp d a b BitVec.sdiv s
/-- DIVU. -/
def execDivu (d a b : BitVec 5) (s : State) : Out := divOp d a b (· / ·) s
/-- REM. -/
def execRem (d a b : BitVec 5) (s : State) : Out := divOp d a b BitVec.srem s
/-- REMU. -/
def execRemu (d a b : BitVec 5) (s : State) : Out := divOp d a b (· % ·) s
/-- AND. -/
def execAnd (d a b : BitVec 5) (s : State) : Out := intOp d a b (· &&& ·) s
/-- OR. -/
def execOr (d a b : BitVec 5) (s : State) : Out := intOp d a b (· ||| ·) s
/-- XOR. -/
def execXor (d a b : BitVec 5) (s : State) : Out := intOp d a b (· ^^^ ·) s

/-- A shift amount mod 64. -/
def shamt (b : Word) : Nat := b.toNat % 64

/-- SLL. -/
def execSll (d a b : BitVec 5) (s : State) : Out := intOp d a b (fun x y => x <<< shamt y) s
/-- SRL. -/
def execSrl (d a b : BitVec 5) (s : State) : Out := intOp d a b (fun x y => x >>> shamt y) s
/-- SRA. -/
def execSra (d a b : BitVec 5) (s : State) : Out := intOp d a b (fun x y => x.sshiftRight (shamt y)) s
/-- SLT. -/
def execSlt (d a b : BitVec 5) (s : State) : Out := intOp d a b (fun x y => boolWord (x.slt y)) s
/-- SLTU. -/
def execSltu (d a b : BitVec 5) (s : State) : Out := intOp d a b (fun x y => boolWord (x.ult y)) s
/-- MIN. -/
def execMin (d a b : BitVec 5) (s : State) : Out := intOp d a b (fun x y => if x.slt y then x else y) s
/-- MAX. -/
def execMax (d a b : BitVec 5) (s : State) : Out := intOp d a b (fun x y => if x.slt y then y else x) s
/-- MINU. -/
def execMinu (d a b : BitVec 5) (s : State) : Out := intOp d a b (fun x y => if x.ult y then x else y) s
/-- MAXU. -/
def execMaxu (d a b : BitVec 5) (s : State) : Out := intOp d a b (fun x y => if x.ult y then y else x) s

/-- An operation on x[a] and an immediate. -/
def immOp (d a : BitVec 5) (v : Word) (f : Word → Word → Word) (s : State) : Out := writeX d (f (xget s a) v) s

/-- ADDI: the immediate is sign-extended (R126). -/
def execAddi (d a : BitVec 5) (imm : BitVec 16) (s : State) : Out := immOp d a (imm.signExtend 64) (· + ·) s
/-- ANDI: the immediate is zero-extended. -/
def execAndi (d a : BitVec 5) (imm : BitVec 16) (s : State) : Out := immOp d a (imm.setWidth 64) (· &&& ·) s
/-- ORI: the immediate is zero-extended. -/
def execOri (d a : BitVec 5) (imm : BitVec 16) (s : State) : Out := immOp d a (imm.setWidth 64) (· ||| ·) s
/-- XORI: the immediate is zero-extended. -/
def execXori (d a : BitVec 5) (imm : BitVec 16) (s : State) : Out := immOp d a (imm.setWidth 64) (· ^^^ ·) s
/-- SLTI: the immediate is sign-extended. -/
def execSlti (d a : BitVec 5) (imm : BitVec 16) (s : State) : Out :=
  immOp d a (imm.signExtend 64) (fun x y => boolWord (x.slt y)) s
/-- SLLI (R127). -/
def execSlli (d a : BitVec 5) (sh : BitVec 6) (s : State) : Out := writeX d (xget s a <<< sh.toNat) s
/-- SRLI. -/
def execSrli (d a : BitVec 5) (sh : BitVec 6) (s : State) : Out := writeX d (xget s a >>> sh.toNat) s
/-- SRAI. -/
def execSrai (d a : BitVec 5) (sh : BitVec 6) (s : State) : Out := writeX d ((xget s a).sshiftRight sh.toNat) s
/-- ADPC: PC + 4 × imm21 (R128). -/
def execAdpc (d : BitVec 5) (imm : BitVec 21) (s : State) : Out := writeX d (s.core.pc + 4 * imm.signExtend 64) s
/-- LIH: imm21 × 2^16 (R128). -/
def execLih (d : BitVec 5) (imm : BitVec 21) (s : State) : Out := writeX d (imm.signExtend 64 <<< 16) s

/-! ### Branches and jumps -/

/-- A branch: PC + 4 × off16 when taken, else PC + 4 (R42). A target that cannot be fetched raises its cause there. -/
def branch (a b : BitVec 5) (off : BitVec 16) (f : Word → Word → Bool) (s : State) : Out :=
  if f (xget s a) (xget s b) then .next (goto s (s.core.pc + 4 * off.signExtend 64)) else nextX s

/-- BEQ (R42). -/
def execBeq (a b : BitVec 5) (off : BitVec 16) (s : State) : Out := branch a b off (· == ·) s
/-- BNE. -/
def execBne (a b : BitVec 5) (off : BitVec 16) (s : State) : Out := branch a b off (· != ·) s
/-- BLT. -/
def execBlt (a b : BitVec 5) (off : BitVec 16) (s : State) : Out := branch a b off BitVec.slt s
/-- BGE. -/
def execBge (a b : BitVec 5) (off : BitVec 16) (s : State) : Out := branch a b off (fun x y => !x.slt y) s
/-- BLTU. -/
def execBltu (a b : BitVec 5) (off : BitVec 16) (s : State) : Out := branch a b off BitVec.ult s
/-- BGEU. -/
def execBgeu (a b : BitVec 5) (off : BitVec 16) (s : State) : Out := branch a b off (fun x y => !x.ult y) s

/-- JAL: x1 := PC + 4 (R43). -/
def execJal (off : BitVec 26) (s : State) : Out :=
  .next (goto (xset s 1 (s.core.pc + 4)) (s.core.pc + 4 * off.signExtend 64))

/-- JALR: the target is computed before xd is written; a target that is no multiple of 4 is INSN.ALIGN_PC (R43). -/
def execJalr (d a : BitVec 5) (imm : BitVec 16) (s : State) : Out :=
  let t := xget s a + imm.signExtend 64
  if t &&& 3 ≠ 0 then insnX s .alignPc (.jalr d a imm)
  else .next (goto (xset s d (s.core.pc + 4)) t)

end Sys2Proof.Machine
end

