-- ==== Sys2Proof/Machine/ScalarFloat.lean ====
section
/-! DEFINITION. The scalar floating-point words (R129 to R133). -/

namespace Sys2Proof.Machine

/-- The format of a precision. -/
def fpKind : FP → FKind
  | .f32 => .f32
  | .f64 => .f64

/-- The encoding that a scalar register holds of a format; the bits above are ignored (R129). -/
def fbits (k : FKind) (w : Word) : Nat := w.toNat % 2 ^ k.fmt.w

/-- The value of an operand under FCTL.FTZ (R83). -/
def fread (s : State) (p : FP) (r : BitVec 5) : FVal :=
  (fpKind p).read (fctlFtz s.core.fctl) (fbits (fpKind p) (xget s r))

/-- The rounding context of a scalar word. -/
def fctx (s : State) (rm : RmSel) : RCtx := { mode := effMode rm s.core.fctl, ftz := fctlFtz s.core.fctl }

/-- A rounded scalar result (R130, R133). -/
def floatResult (s : State) (d : BitVec 5) (p : FP) (rm : RmSel) (r : FRes) : Out :=
  let v := deliverRes (fpKind p) (fctx s rm) r
  floatX s d (BitVec.ofNat 64 v.1) v.2

/-- FADD (R130). -/
def execFadd (d a b : BitVec 5) (p : FP) (rm : RmSel) (s : State) : Out :=
  floatResult s d p rm (addVal (effMode rm s.core.fctl) (fread s p a) (fread s p b))

/-- The second operand of a subtraction; a NaN keeps its sign (R80). -/
def negOperand (v : FVal) : FVal := if v.isNan then v else v.flip

/-- FSUB. -/
def execFsub (d a b : BitVec 5) (p : FP) (rm : RmSel) (s : State) : Out :=
  floatResult s d p rm (addVal (effMode rm s.core.fctl) (fread s p a) (negOperand (fread s p b)))

/-- FMUL. -/
def execFmul (d a b : BitVec 5) (p : FP) (rm : RmSel) (s : State) : Out :=
  floatResult s d p rm (mulVal (fread s p a) (fread s p b))

/-- FDIV. -/
def execFdiv (d a b : BitVec 5) (p : FP) (rm : RmSel) (s : State) : Out :=
  floatResult s d p rm (divVal (fread s p a) (fread s p b))

/-- FSQRT. -/
def execFsqrt (d a : BitVec 5) (p : FP) (rm : RmSel) (s : State) : Out :=
  floatResult s d p rm (sqrtVal (fread s p a))

/-- A value of a format, put back into it without rounding. -/
def repack (k : FKind) (v : FVal) : Nat := (deliver k { mode := .rne } v).1

/-- FMIN (R136): no flag. -/
def execFmin (d a b : BitVec 5) (p : FP) (s : State) : Out :=
  writeX d (BitVec.ofNat 64 (repack (fpKind p) (minVal (fread s p a) (fread s p b)))) s

/-- FMAX (R136): no flag. -/
def execFmax (d a b : BitVec 5) (p : FP) (s : State) : Out :=
  writeX d (BitVec.ofNat 64 (repack (fpKind p) (maxVal (fread s p a) (fread s p b)))) s

/-- The truth of a comparison (R138): a NaN makes NE and UN true and the others false. -/
def fcompare (cc : FCond) (x y : FVal) : Bool :=
  match cc with
  | .eq => eqVal x y
  | .ne => !eqVal x y
  | .lt => ltVal x y
  | .le => ltVal x y || eqVal x y
  | .un => x.isNan || y.isNan

/-- FCMP: no flag. -/
def execFcmp (d a b : BitVec 5) (p : FP) (cc : FCond) (s : State) : Out :=
  writeX d (boolWord (fcompare cc (fread s p a) (fread s p b))) s

/-- The register image of a value of a scalar type (R129). -/
def scalarImage (t : STy) (v : Nat) : Word :=
  match t with
  | .i32 => (BitVec.ofNat 32 v).signExtend 64
  | _ => BitVec.ofNat 64 (v % 2 ^ (snumOf t).bits)

/-- FCVT (R131). -/
def execFcvt (d a : BitVec 5) (dst src : STy) (rm : RmSel) (s : State) : Out :=
  let v := convert (snumOf src) (snumOf dst) (fctx s rm) (xget s a).toNat
  floatX s d (scalarImage dst v.1) v.2

/-- The class mask of an encoding (R131). -/
def classOf (k : FKind) (b : Nat) : Nat :=
  let f := k.fmt
  let neg := b / 2 ^ (f.w - 1) % 2 == 1
  let sub := b / 2 ^ f.fb % 2 ^ f.eb == 0
  match f.value b with
  | .nan _ => 2 ^ 8
  | .inf n => if n then 2 ^ 0 else 2 ^ 7
  | .num _ m _ =>
    if m == 0 then (if neg then 2 ^ 3 else 2 ^ 4)
    else if sub then (if neg then 2 ^ 2 else 2 ^ 5)
    else if neg then 2 ^ 1 else 2 ^ 6

/-- FCLASS: ignores FTZ and sets no flag. -/
def execFclass (d a : BitVec 5) (p : FP) (s : State) : Out :=
  writeX d (BitVec.ofNat 64 (classOf (fpKind p) (fbits (fpKind p) (xget s a)))) s

/-- A fused multiply-add with its signs (R132). -/
def fusedX (d a b c : BitVec 5) (p : FP) (rm : RmSel) (np nc : Bool) (s : State) : Out :=
  floatResult s d p rm (fmaVal (effMode rm s.core.fctl) np nc (fread s p a) (fread s p b) (fread s p c))

/-- FMA: a × b + c. -/
def execFma (d a b c : BitVec 5) (p : FP) (rm : RmSel) (s : State) : Out := fusedX d a b c p rm false false s
/-- FMS: a × b - c. -/
def execFms (d a b c : BitVec 5) (p : FP) (rm : RmSel) (s : State) : Out := fusedX d a b c p rm false true s
/-- FNMA: -a × b + c. -/
def execFnma (d a b c : BitVec 5) (p : FP) (rm : RmSel) (s : State) : Out := fusedX d a b c p rm true false s
/-- FNMS: -a × b - c. -/
def execFnms (d a b c : BitVec 5) (p : FP) (rm : RmSel) (s : State) : Out := fusedX d a b c p rm true true s

end Sys2Proof.Machine
end

