-- ==== Sys2Proof/Machine/ScalarMem.lean ====
section
/-! DEFINITION. X's accesses: the L1 (R12, R117, R206), the window aperture (R94), the doorbells (R251), and the words
LD, LDZ, ST and CINV (R116 to R118). -/

namespace Sys2Proof.Machine

/-! ### The L1 -/

/-- A byte of an L1 line. -/
def lineByte (l : L1Line) (i : Nat) : Byte := l.data.extractLsb' (8 * i) 8

/-- Puts a byte into an L1 line. -/
def linePut (l : L1Line) (i : Nat) (b : Byte) (dirty : Bool) : L1Line :=
  { l with data := (l.data &&& ~~~(0xFF#512 <<< (8 * i))) ||| (b.setWidth 512 <<< (8 * i))
           dirty := if dirty then l.dirty ||| (1#64 <<< i) else l.dirty }

/-- Puts bytes into an L1 line from an offset. -/
def linePuts (dirty : Bool) : Nat → List Byte → L1Line → L1Line
  | _, [], l => l
  | i, b :: bs, l => linePuts dirty (i + 1) bs (linePut l i b dirty)

/-- The dirty bytes of a line go to L2 or the far-tier port. A write-back to a line of an open reduction window is
refused like any other write, and the window is left unchanged (R243, log entry 16). A word with an uncorrectable error takes
it along: `bad` are those of the L1 (R377, log entry 90). -/
def writeBack (d : Dev) (bad : List Nat) (key : Nat) (l : L1Line) : Dev :=
  let put (d : Dev) (i n : Nat) : Dev :=
    let bs := (List.range n).map fun k => lineByte l (i + k)
    if 64 * key ≥ farBase then farStore d .x l.key (64 * key + i) bs else l2Store d (64 * key + i) bs
  if (windowOf d (64 * key)).isSome then d
  else (List.range 8).foldl (fun d w =>
    let d := if (l.dirty.extractLsb' (8 * w) 8) = 0xFF then put d (8 * w) 8
      else (List.range 8).foldl (fun d i => if l.dirty.getLsbD (8 * w + i) then put d (8 * w + i) 1 else d) d
    if bad.contains (8 * key + w) && !(l.dirty.extractLsb' (8 * w) 8) == 0 then { d with badL2 := addOnce d.badL2 (8 * key + w) }
    else d) d

/-- Writes back a line of the L1 of the core in focus; it stays, clean. -/
def l1Clean (s : State) (key : Nat) : State :=
  match slook s.core.l1 key with
  | some l => if l.dirty = 0 then s else
      { s with dev := writeBack s.dev s.core.badL1 key l, core := { s.core with l1 := sput { l with dirty := 0 } s.core.l1 key } }
  | none => s

/-- Writes back the line of a translated place of this device. -/
def cleanFor (s : State) (x : Xlat) : State := if x.remote.isNone then l1Clean s (x.pa / 64) else s

/-- Writes back every dirty byte of a core's L1. -/
def flushCore (d : Dev) (c : Core) : Dev × Core :=
  (c.l1.foldl (fun d e => writeBack d c.badL1 e.1 e.2) d, { c with l1 := c.l1.map fun e => (e.1, { e.2 with dirty := 0 }) })

/-- Writes back every dirty byte of the L1 of the core in focus. -/
def flushL1 (s : State) : State :=
  let r := flushCore s.dev s.core
  { s with dev := r.1, core := r.2 }

/-- Writes back and invalidates the lines of the L1 of the core in focus that a predicate selects. -/
def dropL1 (s : State) (f : Nat → L1Line → Bool) : State :=
  let out := s.core.l1.filter fun e => f e.1 e.2
  { s with dev := out.foldl (fun d e => writeBack d s.core.badL1 e.1 e.2) s.dev
           core := { s.core with l1 := s.core.l1.filter fun e => !f e.1 e.2 } }

/-- Invalidates in every L1 of the package the lines that a predicate on the line key selects, after their write-back. -/
def dropAllL1 (s : State) (f : Nat → Bool) : State :=
  let cores := allCores s
  let d := cores.foldl (fun d c => (c.l1.filter fun e => f e.1).foldl (fun d e => writeBack d c.badL1 e.1 e.2) d) s.dev
  mapCores { s with dev := d } fun c => { c with l1 := c.l1.filter fun e => !f e.1 }

/-- An L1 that is full writes one line back and drops it (R12). -/
def l1Room (s : State) : State :=
  if s.core.l1.length < Config.l1Lines then s
  else match s.core.l1[Config.victim s.free % s.core.l1.length]? with
    | some v => { dropL1 s (fun k _ => k == v.1) with free := s.free + 1 }
    | none => s

/-- The L1 holds an uncorrectable error in bytes of a line (R377). -/
def l1Bad (c : Core) (pa n : Nat) : Bool := c.badL1.any fun w => decide (8 * w < pa + n) && decide (pa < 8 * w + 8)

/-- The line of a translated place, filled from L2 or the far-tier port on a miss. A line that two virtual addresses map
keeps that of its first fill, which CINV compares: the manual does not say which (DESIGN CHOICE, log entry 82). -/
def l1Fill (s : State) (a : Acc) (x : Xlat) (va : Nat) : Res (State × L1Line) :=
  let key := x.pa / 64
  match slook s.core.l1 key with
  | some l => .ok (s, l)
  | none => do
    let base := va / 64 * 64
    let (s, bs) ← placeRead s a .l2 { x with pa := 64 * key } va 64
    let s := l1Room s
    let l : L1Line := { va := BitVec.ofNat 64 base, asid := a.asid, data := BitVec.ofNat 512 (ofBytesLE bs), dirty := 0, key := x.key }
    pure ({ s with core := { s.core with l1 := sput l s.core.l1 key, badL1 := keepBad s.core.badL1 (64 * key) 64 } }, l)

/-- The page may be held in an L1: ordinary, CUFF and far-tier pages outside a swap (R203, R204, R317, R319). -/
def l1Holds (x : Xlat) : Bool := x.attr != 1 && !x.unc && x.remote.isNone

/-- The level of a policy other than .D. -/
def polLvl : Policy → Lvl
  | .u => .home
  | .s => .stream
  | _ => .l2

/-! ### The aperture and the doorbells -/

/-- Where an address of X leads. -/
inductive Region where
  | mem
  | aperture (w : Nat)
  | doorbell (m : Nat)
  | nothing
  deriving DecidableEq, Repr

/-- The region of an address (R94, R251, R308). -/
def regionOf (va : Nat) : Region :=
  let base := 0x1FF * 2 ^ 48
  if base ≤ va && va < base + 2 ^ 23 then .aperture (va - base)
  else if base + 2 ^ 32 ≤ va && va < base + 2 ^ 32 + 96 then .doorbell ((va - base - 2 ^ 32) / 8)
  else if va / 2 ^ 48 == 0x1FF then .nothing
  else .mem

/-- The copy engine that a core's doorbell m names. -/
def doorEngine (s : State) (m : Nat) : Nat := 12 * (s.core.gcore / 72) + m

/-- Status of a copy engine: posts pending, and whether a program runs (R251). A program that has stopped on a cause and has
not been discarded still counts as running (DESIGN CHOICE, log entry 91). -/
def doorStatus (s : State) (m : Nat) : Nat :=
  if h : doorEngine s m < 48 then
    let e := s.dev.ce[doorEngine s m]'h
    e.posts.length + (if e.prog.isSome then 16 else 0)
  else 0

/-- A post to a copy engine (R251). -/
def doorPost (s : State) (m : Nat) (v : Word) (va : Nat) : Res State :=
  if v.toNat % 16 != 0 then raiseAt .align va true
  else if h : doorEngine s m < 48 then
    let e := s.dev.ce[doorEngine s m]'h
    let num := (s.core.task.map (·.posted)).getD 0
    if e.posts.length ≥ Config.postSlots then raise .queueOvf
    else .ok { s with
      core := { s.core with task := s.core.task.map fun t => { t with posted := num + 1 } }
      dev := { s.dev with ce := s.dev.ce.set (doorEngine s m) { e with posts := e.posts ++ [{ addr := v, core := s.core.gcore, num }] } h } }
  else raiseAt .unmapped va true

/-! ### Reads and writes of X -/

/-- A read of X of n bytes at an aligned address (R117). -/
def xread (s : State) (pol : Policy) (va n : Nat) : Res (State × List Byte) :=
  match regionOf va with
  | .aperture w =>
    if pol = .d ∨ pol = .s then raiseAt .perm va
    else (winRead s .x (clusterOf s.core.gcore) 0 w n).map fun bs => (s, bs)
  | .doorbell m => if n == 8 && pol = .u then .ok (s, toBytesLE 8 (doorStatus s m)) else raiseAt .perm va
  | .nothing => raiseAt .unmapped va
  | .mem => do
    let a := accOf s
    let x ← translate s.dev a .read va
    let s := s.mark x false
    if pol = .d ∧ l1Holds x then
      let (s, l) ← l1Fill s a x va
      if l1Bad s.core x.pa n then raiseAt .sramUe va
      pure (s, (List.range n).map fun i => lineByte l (x.pa % 64 + i))
    else
      placeRead (cleanFor s x) a (polLvl pol) x va n

/-- Bytes of a store also go to the L1 copy of the line (R117). -/
def l1Update (s : State) (pa : Nat) (bs : List Byte) : State :=
  match slook s.core.l1 (pa / 64) with
  | some l => { s with core := { s.core with l1 := sput (linePuts false (pa % 64) bs l) s.core.l1 (pa / 64) } }
  | none => s

/-- A write of X at a translated place other than through .D. -/
def xwriteThrough (s : State) (a : Acc) (lvl : Lvl) (x : Xlat) (va : Nat) (bs : List Byte) : Res State := do
  let s ← placeStore (cleanFor (s.mark x true) x) a lvl x va (fullMask bs)
  let s := if x.remote.isNone then l1Update s x.pa bs else s
  pure (if x.attr == 1 then digest s .x va bs else s)

/-- A write of X at an aligned address. -/
def xwrite (s : State) (pol : Policy) (va : Nat) (bs : List Byte) : Res State :=
  match regionOf va with
  | .aperture w =>
    if pol = .d ∨ pol = .s then raiseAt .perm va true
    else
      let wr : Wr := { e := 0, addr := w, mode := 0, bytes := fullMask bs }
      winWrite s .x (clusterOf s.core.gcore) [wr] wr
  | .doorbell m =>
    if bs.length == 8 && pol = .u then doorPost s m (BitVec.ofNat 64 (ofBytesLE bs)) va else raiseAt .perm va true
  | .nothing => raiseAt .unmapped va true
  | .mem => do
    let a := accOf s
    let x ← translate s.dev a .write va
    if pol = .d ∧ l1Holds x then
      let (s, l) ← l1Fill (s.mark x true) a x va
      pure { s with core := { s.core with
        l1 := sput (linePuts true (x.pa % 64) bs l) s.core.l1 (x.pa / 64), badL1 := keepBad s.core.badL1 x.pa bs.length } }
    else xwriteThrough s a (polLvl pol) x va bs

/-! ### The words -/

/-- Bytes of an access size. -/
def sizeBytes : MSize → Nat
  | .b8 => 1 | .b16 => 2 | .b32 => 4 | .b64 => 8

/-- The address of an XM word: x[xa] + n × off11 (R116). -/
def xmAddr (s : State) (a : BitVec 5) (n : Nat) (off : BitVec 11) : Nat :=
  (xget s a + BitVec.ofNat 64 n * off.signExtend 64).toNat

/-- A load, extended from its size. -/
def loadX (d a : BitVec 5) (sz : MSize) (pol : Policy) (off : BitVec 11) (signed : Bool) (s : State) : Out :=
  let n := sizeBytes sz
  let va := xmAddr s a n off
  if va % n != 0 then .next (trapX s { cause := .align, addr := some (BitVec.ofNat 64 va) })
  else
    stepX s ((xread s pol va n).map fun r =>
      let v := ofBytesLE r.2
      xset r.1 d (if signed then BitVec.ofInt 64 (sint (8 * n) v) else BitVec.ofNat 64 v))

/-- LD (R116). -/
def execLd (d a : BitVec 5) (sz : MSize) (pol : Policy) (off : BitVec 11) (s : State) : Out := loadX d a sz pol off true s

/-- LDZ (R116). -/
def execLdz (d a : BitVec 5) (sz : MSize) (pol : Policy) (off : BitVec 11) (s : State) : Out := loadX d a sz pol off false s

/-- ST (R116). -/
def execSt (xs a : BitVec 5) (sz : MSize) (pol : Policy) (off : BitVec 11) (s : State) : Out :=
  let n := sizeBytes sz
  let va := xmAddr s a n off
  if va % n != 0 then .next (trapX s { cause := .align, addr := some (BitVec.ofNat 64 va), write := true })
  else stepX s (xwrite s pol va (toBytesLE n (xget s xs).toNat))

/-- CINV: lines that overlap [a, a + x[xl]) are written back and invalidated; no translation, no cause (R118). -/
def execCinv (xl a : BitVec 5) (off : BitVec 11) (s : State) : Out :=
  let lo := xmAddr s a 1 off
  let len := (xget s xl).toNat
  nextX (dropL1 s fun _ l => l.asid == s.core.asid && l.va.toNat < lo + len && lo < l.va.toNat + 64 && len != 0)

end Sys2Proof.Machine
end

