-- ==== Sys2Proof/Machine/Atomic.lean ====
section
/-! DEFINITION. Atomics (R230, R231), fences (R215 to R219, R232), clasps (R220, R233 to R236), reduction windows
(R222, R237 to R244) and near-memory operations (R224, R245 to R247). -/

namespace Sys2Proof.Machine

/-! ### Atomics -/

/-- FP32 arithmetic of a memory unit: round to nearest even, no FTZ (R230, R241, R246). -/
def memAdd (k : FKind) (o b : Nat) : Nat :=
  (deliverRes k { mode := .rne } (addVal .rne (k.fmt.value o) (k.fmt.value b))).1

/-- FP32 minimum or maximum of a memory unit; a NaN gives 0x7FC0_0000 (R230, R246). -/
def memMinMax (mx : Bool) (o b : Nat) : Nat :=
  let x := FKind.f32.fmt.value o
  let y := FKind.f32.fmt.value b
  if x.isNan || y.isNan then 0x7FC00000 else repack .f32 (if mx then maxVal x y else minVal x y)

/-- The new value of an AMO from the old one and the operand, both of w bits (R230). -/
def amoNew (op : AmoOp) (w o b : Nat) : Nat :=
  match op with
  | .swap => b
  | .add => (o + b) % 2 ^ w
  | .and => o &&& b
  | .or => o ||| b
  | .xor => o ^^^ b
  | .min => if sint w b < sint w o then b else o
  | .max => if sint w o < sint w b then b else o
  | .minu => Nat.min o b
  | .maxu => Nat.max o b
  | .fadd => memAdd .f32 o b
  | .fmin => memMinMax false o b
  | .fmax => memMinMax true o b

/-- The new value of an indivisible access of w bits from the old one; none for no write. -/
def rmwNew (op : Rmw) (w o : Nat) : Option Nat :=
  match op with
  | .amo k b => some (amoNew k w o (b.toNat % 2 ^ w))
  | .cas c v => if o = c.toNat % 2 ^ w then some (v.toNat % 2 ^ w) else none

/-- The fold of a block that an access of an attempt does before it acts (R334). -/
def foldFor (d : Dev) (a : Acc) (pa : Nat) : Dev :=
  if a.mset.contains (blockMeta d pa).2 then d else pleatFold d a.foldAid pa

/-- An indivisible read and write of n bytes at a translated place of this device (R230, R334); answers the old value. -/
def placeAtomic (s : State) (a : Acc) (x : Xlat) (va n : Nat) (op : Rmw) : Res (State × Nat) := do
  if x.attr == 2 then raiseAt .cuffAttr va true
  placeWriteCheck s.dev a x va n
  let s := if x.attr == 1 then s.onDev fun d => foldFor d a x.pa else s
  let (s, bs) ← placeRead s a .l2 x va n
  let o := ofBytesLE bs
  let new := rmwNew op (8 * n) o
  let s := s.mark x new.isSome
  match new with
  | none => pure (s, o)
  | some v => pure (placeWrite s a .l2 x (toBytesLE n v), o)

/-- An indivisible read and write of X at an aligned address; at a PEER page its home performs it (R319). Answers the old
value. -/
def xatomic (s : State) (va n : Nat) (op : Rmw) : Res (State × Nat) :=
  match regionOf va with
  | .aperture w =>
    match winRead s .x (clusterOf s.core.gcore) 0 w n with
    | .error c => .error { c with write := true }
    | .ok bs =>
      let o := ofBytesLE bs
      match rmwNew op (8 * n) o with
      | none => .ok (s, o)
      | some v =>
        let wr : Wr := { e := 0, addr := w, mode := 0, bytes := fullMask (toBytesLE n v) }
        (winWrite s .x (clusterOf s.core.gcore) [wr] wr).map fun s => (s, o)
  | .doorbell _ => raiseAt .perm va true
  | .nothing => raiseAt .unmapped va true
  | .mem => do
    let a := accOf s
    let x ← translate s.dev a .both va
    match x.remote with
    | some r =>
      let (s, bs) ← askHome s a r va true (.atomic (ownRank s.dev) a.asid 0 (BitVec.ofNat 64 va) n op)
      let o := ofBytesLE bs
      pure (s.mark x (rmwNew op (8 * n) o).isSome, o)
    | none =>
      let (s, o) ← placeAtomic (cleanFor s x) a x va n op
      match rmwNew op (8 * n) o with
      | none => pure (s, o)
      | some v =>
        let s := l1Update s x.pa (toBytesLE n v)
        pure (if x.attr == 1 then digest s .x va (toBytesLE n v) else s, o)

/-- DET[1] of the task's region (R275). -/
def detStrict (s : State) : Bool := s.core.regionId.getLsbD 33

/-- AMO and CAS: xd receives the old value, extended from its size. -/
def atomicX (i : Instr) (d a : BitVec 5) (wide priv : Bool) (op : Rmw) (s : State) : Out :=
  let n := if wide then 8 else 4
  let va := (xget s a).toNat
  stepI i s (if priv then raise .priv
    else if va % n != 0 then raiseAt .align va true
    else (xatomic s va n op).map fun r => xset r.1 d (BitVec.ofInt 64 (sint (8 * n) r.2)))

/-- AMO (R230, R231, R275). -/
def execAmo (op : AmoOp) (d a b : BitVec 5) (wide : Bool) (s : State) : Out :=
  atomicX (.amo op d a b wide) d a wide (decide (op = .fadd) && detStrict s)
    (.amo op (xget s b)) s

/-- CAS (R230, R231). -/
def execCas (d a b : BitVec 5) (wide : Bool) (s : State) : Out :=
  atomicX (.cas d a b wide) d a wide false (.cas (xget s d) (xget s b)) s

/-! ### Fences -/

/-- Die of a core. -/
def dieOf (g : Nat) : Nat := g / 72

/-- A stack within a scope of a core (R218). -/
def stackIn (g : Nat) (sc : Scope) (stack : Nat) : Bool :=
  match sc with
  | .core | .cluster => false
  | .die => stack / 4 == dieOf g
  | .package | .system => true

/-- The lines of open windows stay in their slices (R238). -/
def heldInL2 (d : Dev) (pa : Nat) : Bool := d.rwins.any fun w => w.lines.contains (pa / 128)

/-- The actions of a fence on the state (R218). The write-back of CUFF bytes takes every dirty byte of the stacks in
scope: an eviction may do so at any time (log entry 17). -/
def fenceActions (s : State) (a b : Path) (sc : Scope) : State :=
  let s := if a = .x ∧ (b ≠ .x ∨ sc ≠ .core) then flushL1 s else s
  if b = .q then s.onDev fun d => wbWhere d fun pa => stackIn s.core.gcore sc (stackOf pa) && !heldInL2 d pa else s

/-- X waits in a fence. -/
def inFence (s : State) : Bool :=
  match s.core.xwait with
  | .fence _ => true
  | _ => false

/-- An accepted N operation comes from a unit (R247): a copy engine's own is its own whichever core posted its program. -/
def ownNop (s : State) (u : UnitId) (n : NOp) : Bool :=
  decide (n.unit = u) && (n.core == s.core.gcore || match u with
    | .seq q => isCopy q
    | .x => false)

/-- An accepted N operation is covered by a fence of a unit (R217): its own, and for a fence in X those of the commands
completed before it; while X waits in the fence, those that it found. -/
def nopCovered (s : State) (u : UnitId) (n : NOp) : Bool :=
  if u = .x ∧ inFence s then n.fenced && n.core == s.core.gcore
  else ownNop s u n || (decide (u = .x) && n.cmd && n.core == s.core.gcore)

/-- A QPOST is covered by a fence in X (R217). -/
def postCovered (s : State) (q : QPost) : Bool :=
  q.core == s.core.gcore && q.next < q.banks && (if inFence s then q.fenced else q.cmd)

/-- An XFER is covered by a fence of a unit with a path (R217, R218). -/
def xferCovered (s : State) (u : UnitId) (a : Path) (p : PeerOut) : Bool :=
  let path : Path := match p.unit with
    | .e _ => .e
    | _ => .s
  decide (a = path) && (if u = .x ∧ inFence s then p.fenced && p.core == s.core.gcore
    else (decide (u = .seq p.unit) && (p.core == s.core.gcore || isCopy p.unit)) || (decide (u = .x) && p.cmd && p.core == s.core.gcore))

/-- An N operation that a unit issued is not performed. -/
def nopsPending (s : State) (u : UnitId) : Bool := s.dev.nops.any (ownNop s u)

/-- The name of a unit in the marks that its fence leaves: a copy engine is one unit whichever core posted its program. -/
def fenceKey (s : State) (u : UnitId) : Nat × UnitId :=
  match u with
  | .seq (.e _) => (Config.cores, u)
  | _ => (s.core.gcore, u)

/-- The fence of a unit is under way: X waits in it, or it is an engine's word in flight. -/
def fenceIssued (s : State) (u : UnitId) : Bool := decide (u ≠ .x) || inFence s

/-- A write at the far-tier port is covered by a fence of a unit with a path (R217): it was accepted on that path before the
fence issued. -/
def farCovered (s : State) (u : UnitId) (a : Path) (w : FarW) : Bool :=
  if fenceIssued s u then w.fences.contains (fenceKey s u) else decide (w.path = a)

/-- Accesses over the P path that a moving page holds are covered by a fence of a unit (R218, R319). -/
def moveCovered (s : State) (u : UnitId) (m : PMove) : Bool :=
  if fenceIssued s u then m.fences.contains (fenceKey s u) else !m.pend.isEmpty

/-- The fence of a unit has yet to see something finish (R218). -/
def fencePending (s : State) (u : UnitId) (a : Path) (sc : Scope) : Bool :=
  (decide (a = .n) && s.dev.nops.any (nopCovered s u))
    || (decide (a = .q) && decide (u = .x) && s.dev.qposts.any (postCovered s))
    || (decide (a = .p) && s.dev.moves.any (moveCovered s u))
    || (decide (sc = .system) && (s.dev.farPort.any (farCovered s u a) || s.dev.peerOut.any (xferCovered s u a)))

/-- A fence of a unit marks what it covers at the far-tier port and among the held accesses, as it issues. -/
def markFence (s : State) (u : UnitId) (a : Path) : State :=
  let k := fenceKey s u
  let put (l : List (Nat × UnitId)) (on : Bool) : List (Nat × UnitId) := l.filter (· != k) ++ (if on then [k] else [])
  s.onDev fun d => { d with
    farPort := d.farPort.map fun w => { w with fences := put w.fences (decide (w.path = a)) }
    moves := d.moves.map fun m => { m with fences := put m.fences (decide (a = .p) && !m.pend.isEmpty) } }

/-- What a fence in X that waits covers, as it found it at its issue. -/
def coverX (s : State) (a : Path) : State :=
  if inFence s then s
  else (markFence s .x a).onDev fun d => { d with
    nops := d.nops.map fun n => { n with fenced := if n.core == s.core.gcore then nopCovered s .x n else n.fenced }
    qposts := d.qposts.map fun q => { q with fenced := if q.core == s.core.gcore then postCovered s q else q.fenced }
    peerOut := d.peerOut.map fun p => { p with fenced := if p.core == s.core.gcore then xferCovered s .x a p else p.fenced } }

/-- A fence in X: its actions, then it waits or retires. -/
def fenceX (a b : Path) (sc : Scope) (s : State) : Out :=
  let s := fenceActions s a b sc
  if fencePending s .x a sc then waitX (coverX s a) (.fence sc) else nextX s

/-- FENCE s has the effect of FENCEX X, X, s (R216). -/
def execFence (sc : Scope) (s : State) : Out := fenceX .x .x sc s

/-- FENCEX in X. -/
def execFencex (a b : Path) (sc : Scope) (s : State) : Out := fenceX a b sc s

/-- FENCEX in L, S or a copy engine: it acts at issue and retires when what it covers has finished. -/
def execFencexEngine (y : Sync) (a b : Path) (sc : Scope) (s : State) : Out :=
  issueWord (.fencexEngine y a b sc) y { l := true, s := true, e := true } noCheck noWait noCheck
    (fun s u _ => { s := markFence (fenceActions s a b sc) (.seq u) a, kind := .fence a sc }) s

/-! ### Clasps -/

/-- The place of a clasp or of its list (R233, R234), for an operation that writes it or only reads it. The manual does not
say which rights a clasp's page needs: READ and WRITE are asked by every operation, also by a CTRY that fails and by a CACQ
that only waits (DESIGN CHOICE, log entry 91). On a PEER page whose home is the partner ownership is taken by one indivisible
operation there, and what only the owner changes is read and written one by one (R319; DEDUCED, log entry 82). -/
def objPlace (s : State) (va align : Nat) (k : Kind := .both) : Res Xlat :=
  let w := decide (k = .both)
  if va % align != 0 then raiseAt .align va w
  else match regionOf va with
    | .mem => do
      let x ← translate s.dev (accOf s) k va
      if x.attr == 1 then raiseAt .pleatAttr va w
      if x.attr == 2 then raiseAt .cuffAttr va w
      if x.pa ≥ farBase then raiseAt .perm va w
      if w then placeWriteCheck s.dev (accOf s) x va align
      pure x
    | .nothing => raiseAt .unmapped va w
    | _ => raiseAt .perm va w

/-- An object read at its home slice. -/
def objRead (s : State) (x : Xlat) (va n : Nat) : Res (State × Nat) :=
  (placeRead (cleanFor (s.mark x false) x) (accOf s) .l2 x va n).map
    fun r => (r.1, ofBytesLE r.2)

/-- A write at an offset of an object. -/
def objPut (s : State) (x : Xlat) (va off n v : Nat) : Res State :=
  xwriteThrough s (accOf s) .l2 { x with pa := x.pa + off } (va + off) (toBytesLE n v)

/-- A clasp as an operation finds it: its place, OWNER, RELCNT, NBIND and the reserved bits above it in its byte, the place
of its list, and the valid entries. -/
structure ClaspView where
  va     : Nat
  x      : Xlat
  owner  : Nat
  relcnt : Nat
  nbind  : Nat
  hi     : Nat
  lva    : Nat
  lx     : Xlat
  regs   : List (Nat × Nat)
  deriving DecidableEq, Repr

/-- The clasp at an address, with the checks of R233 and R234; CBIND and CUNB write its list, the others read it. -/
def claspView (s : State) (va : Nat) (k : Kind) : Res (State × ClaspView) := do
  let x ← objPlace s va 64
  let (s, n) ← objRead s x va 25
  let nb := fld n 192 5
  if nb > 16 then raise .operand
  let lva := fld n 128 64
  let lx ← objPlace s lva 256 k
  let (s, l) ← objRead s lx lva (16 * nb)
  pure (s, { va, x, owner := fld n 0 64, relcnt := fld n 64 64, nbind := nb, hi := fld n 197 3, lva, lx,
             regs := (List.range nb).map fun k => (fld l (128 * k) 64, fld l (128 * k + 64) 64) })

/-- A page of a region maps a physical line under the task's ASID. -/
def lineMapped (s : State) (r : Nat × Nat) (key : Nat) : Bool :=
  (List.range ((r.1 % 4096 + r.2 + 4095) / 4096)).any fun k =>
    let va := (r.1 / 4096 + k) * 4096 + 64 * key % 4096
    decide (va < r.1 + r.2) && decide (r.1 < va + 64) && match translate s.dev (frameAcc s) .read va with
      | .ok x => x.remote.isNone && x.pa / 64 == key
      | .error _ => false

/-- An L1 line overlaps a bound region: by the address of its fill, or by the physical line that a page of the region maps. -/
def lineIn (s : State) (regs : List (Nat × Nat)) (key : Nat) (l : L1Line) : Bool :=
  regs.any fun r => (l.asid == s.core.asid && decide (l.va.toNat < r.1 + r.2) && decide (r.1 < l.va.toNat + 64)) || lineMapped s r key

/-- The actions of an acquisition on the acquiring core (R220). -/
def acquire (s : State) (c : ClaspView) : State := dropL1 s fun k l => lineIn s c.regs k l

/-- The actions of a release: dirty L1 bytes of the bound regions go to L2, and dirty L2 bytes to home memory, where a
Q scan reads them (R220, log entry 17). -/
def release (s : State) (c : ClaspView) : State :=
  let inside (e : Nat × L1Line) : Bool := lineIn s c.regs e.1 e.2
  let cores := allCores s
  let d := cores.foldl (fun d k => (k.l1.filter inside).foldl (fun d e => writeBack d k.badL1 e.1 e.2) d) s.dev
  let s := mapCores { s with dev := d } fun k =>
    { k with l1 := k.l1.map fun e => if inside e then (e.1, { e.2 with dirty := 0 }) else e }
  if c.regs.isEmpty then s else s.onDev fun d => wbWhere d fun p => !heldInL2 d p

/-- The owner's name of the task. -/
def frameId (s : State) : Nat := s.core.taskFrame.toNat

/-- CBIND: binds a region to an owned clasp. -/
def execCbind (xl a b : BitVec 5) (s : State) : Out :=
  let len := (xget s xl).toNat
  stepI (.cbind xl a b) s do
    let (s1, c) ← claspView s (xget s a).toNat .both
    if c.owner ≠ frameId s ∨ c.nbind = 16 ∨ len = 0 ∨ len > 2 ^ 40 then raise .operand
    let s2 ← objPut s1 c.lx c.lva (16 * c.nbind) 8 (xget s b).toNat
    let s3 ← objPut s2 c.lx c.lva (16 * c.nbind + 8) 8 len
    objPut s3 c.x c.va 24 1 (c.nbind + 1 + 32 * c.hi)

/-- Writes list entries from a place on. -/
def putEntries (c : ClaspView) : Nat → List (Nat × Nat) → State → Res State
  | _, [], s => .ok s
  | k, r :: rs, s => do
    let s ← objPut s c.lx c.lva (16 * k) 16 (r.1 + 2 ^ 64 * r.2)
    putEntries c (k + 1) rs s

/-- CUNB: removes the lowest entry of a base. -/
def execCunb (a b : BitVec 5) (s : State) : Out :=
  stepI (.cunb a b) s do
    let (s1, c) ← claspView s (xget s a).toNat .both
    if c.owner ≠ frameId s then raise .operand
    match c.regs.findIdx? fun r => r.1 == (xget s b).toNat with
    | none => raise .operand
    | some k =>
      let s2 ← putEntries c k (c.regs.drop (k + 1)) s1
      objPut s2 c.x c.va 24 1 (c.nbind - 1 + 32 * c.hi)

/-- The line of waiters of a clasp: by its physical address, or, where the partner is its home, by its address here. -/
def claspKey (s : State) (c : ClaspView) : Nat :=
  if c.x.remote.isSome then 2 ^ 64 * (s.core.asid.toNat + 1) + c.va else c.x.pa

/-- Takes ownership of a free clasp: OWNER is written at the home slice. -/
def takeClasp (s : State) (c : ClaspView) : Res State :=
  (objPut (acquire s c) c.x c.va 0 8 (frameId s)).map fun s => s.onDev fun d =>
    { d with claspWait := d.claspWait.filter fun w => w != (claspKey s c, s.core.gcore) }

/-- Tries to take a clasp that was found free; none where its home at the partner has given it to another task meanwhile
(R319). -/
def winClasp (s : State) (c : ClaspView) : Res (Option State) :=
  match c.x.remote with
  | none => (takeClasp s c).map some
  | some r => do
    let (s, bs) ← askHome s (accOf s) r c.va true
      (.atomic (ownRank s.dev) s.core.asid 0 (BitVec.ofNat 64 c.va) 8 (.cas 0 (BitVec.ofNat 64 (frameId s))))
    if ofBytesLE bs = 0 then
      let k := (claspKey s c, s.core.gcore)
      pure (some ((acquire (s.mark c.x true) c).onDev fun d => { d with claspWait := d.claspWait.filter (· != k) }))
    else pure none

/-- The core stands in the line of a clasp. -/
def joinLine (s : State) (pa : Nat) : State :=
  if s.dev.claspWait.contains (pa, s.core.gcore) then s
  else s.onDev fun d => { d with claspWait := d.claspWait ++ [(pa, s.core.gcore)] }

/-- CACQ: waits for its turn, then takes a free clasp (R234, R235). -/
def execCacq (a : BitVec 5) (s : State) : Out :=
  match claspView s (xget s a).toNat .read with
  | .error c => stepI (.cacq a) s (.error c)
  | .ok (s1, c) =>
    if c.owner = frameId s then stepI (.cacq a) s (raise .operand)
    else
      let k := claspKey s1 c
      let s2 := joinLine s1 k
      let first := s2.dev.claspWait.find? fun w => w.1 == k
      if c.owner = 0 ∧ first = some (k, s.core.gcore) then
        match winClasp s2 c with
        | .ok none => waitX (dropAsks s2 .x) .cacq
        | .ok (some t) => nextX t
        | .error e => stepI (.cacq a) (joinLine s k) (.error e)
      else waitX s2 .cacq

/-- CTRY: takes a free clasp, or answers 0. -/
def execCtry (d a : BitVec 5) (s : State) : Out :=
  stepI (.ctry d a) s do
    let (s1, c) ← claspView s (xget s a).toNat .read
    if c.owner ≠ 0 then pure (xset s1 d 0)
    else match ← winClasp s1 c with
      | some t => pure (xset t d 1)
      | none => pure (xset (dropAsks s1 .x) d 0)

/-- CREL: releases an owned clasp. -/
def execCrel (a : BitVec 5) (s : State) : Out :=
  stepI (.crel a) s do
    let (s1, c) ← claspView s (xget s a).toNat .read
    if c.owner ≠ frameId s then raise .operand
    let s2 ← objPut (release s1 c) c.x c.va 8 8 ((c.relcnt + 1) % 2 ^ 64)
    objPut s2 c.x c.va 0 8 0

/-! ### Reduction windows -/

/-- The types of a reduction window (R237). -/
def windowType : Ty → Bool
  | .i32 | .n32 | .f16 | .bf16 | .f32 => true
  | _ => false

/-- The pages of a window, each an ordinary HBM page of the issuer (R238): their lines. The manual does not say which
rights the pages need: READ is asked (DESIGN CHOICE, log entry 82). -/
def windowLines (s : State) (base len : Nat) : Nat → Nat → Res (List Nat)
  | 0, _ => .ok []
  | k + 1, va =>
    if base + len ≤ va then .ok []
    else do
      let page := va / 4096 * 4096
      let hi := Nat.min (page + 4096) (base + len)
      let x ← match regionOf va with
        | .mem => translate s.dev (accOf s) .read va
        | .nothing => raiseAt .unmapped va
        | _ => raiseAt .perm va
      if x.attr == 1 then raiseAt .pleatAttr va
      if x.attr == 2 then raiseAt .cuffAttr va
      if x.pa ≥ farBase || x.remote.isSome then raiseAt .perm va
      let rest ← windowLines s base len k hi
      pure ((List.range ((hi - va) / 128)).map (fun i => x.pa / 128 + i) ++ rest)

/-- The first line of a list that an open window holds, as the offset of the line. -/
def lineTaken (d : Dev) : Nat → List Nat → Option Nat
  | _, [] => none
  | k, l :: ls => if d.rwins.any (fun w => w.lines.contains l) then some k else lineTaken d (k + 1) ls

/-- Die of a line of 128 bytes. -/
def lineDie (l : Nat) : Nat := stackOf (128 * l) / 4

/-- A die that homes some of the lines has as many open windows as it can (R238). -/
def diesFull (d : Dev) (lines : List Nat) : Bool :=
  (List.range 4).any fun die => lines.any (fun l => lineDie l == die)
    && decide ((d.rwins.filter fun r => r.lines.any fun l => lineDie l == die).length ≥ Config.windowsPerDie)

/-- A window as it opens, from its control word (R237). -/
def newWin (asid : BitVec 12) (base w : Nat) (lines : List Nat) : RWin :=
  { asid, base := BitVec.ofNat 64 base, lines, n := fld w 4 16 + 1, ty := tyOf (fld w 0 4), note := bit w 37,
    sem := bf 8 29 w, core := fld w 20 9, next := 0, claimed := [], acc := [], parked := [] }

/-- An attempt is not decided: its AID is the node's, in OPEN to INDOUBT. -/
def attemptPending (d : Dev) (a : BitVec 16) : Bool :=
  (d.seam.state = .opened || d.seam.state = .voted || d.seam.state = .indoubt) && d.seam.aid == a

/-- The value that an N operation leaves (R246): 0 add, 1 min, 2 max. -/
def nopValue (op : Nat) (f32 : Bool) (m c : Nat) : Nat :=
  if f32 then (match op with | 0 => memAdd .f32 m c | 1 => memMinMax false m c | _ => memMinMax true m c)
  else match op with
    | 0 => (m + c) % 2 ^ 32
    | 1 => if sint 32 c < sint 32 m then c else m
    | _ => if sint 32 m < sint 32 c then c else m

/-- The bytes that a fold of a block and the reads of an operation at a controller need hold an error (R331, R376). -/
def nopBad (d : Dev) (n : NOp) : Bool :=
  if n.pleat then metaBad d n.pa || foldBad d n.mset n.pa || (List.range 4).any fun k => pleatBad d n.mset (n.pa + k)
  else (l2Read d n.pa 4).isNone

/-- An N operation performed at home memory, or at the pleat controller under the match set taken at acceptance; one
whose attempt is decided is discarded (R224, R246). One that meets an uncorrectable error writes nothing, and the event
is logged at the stack; in a pleat controller it sets CORRUPT (R348, R360, R376, R377). -/
def performNop (s : State) (n : NOp) : State :=
  let dead := match n.mset with
    | a :: _ => !attemptPending s.dev a
    | [] => false
  if n.pleat && dead then s
  else if nopBad s.dev n then
    if !n.pleat && l2Bad s.dev n.pa 4 then elogOpen s (causeCode .sramUe 7) (rowKey (n.pa / 32)) n.pa
    else (elogOpen s dramCode (rowKey (n.pa / 32)) n.pa).onDev fun d =>
      let d := demote d (rowKey (n.pa / 32))
      if n.pleat then flagAttempt d flCorrupt else d
  else if n.pleat then
    (correctWords s (softIn s.dev n.mset n.pa 4)).onDev fun d =>
      let d := if n.mset.contains (blockMeta d n.pa).2 then d else pleatFold d n.foldAid n.pa
      let m := ofBytesLE ((List.range 4).map fun k => pleatByte d n.mset (n.pa + k))
      homeStore d (slotPa (pleatAt d (stackOf n.pa)) (!(blockMeta d n.pa).1) n.pa) (toBytesLE 4 (nopValue n.op n.f32 m n.val.toNat))
  else
    (correctSoft s n.pa 4).onDev fun d =>
      let m := ofBytesLE ((List.range 4).map fun k => l2Byte d (n.pa + k))
      homeStore (wbWhere d fun p => n.pa ≤ p && p < n.pa + 4) n.pa (toBytesLE 4 (nopValue n.op n.f32 m n.val.toNat))

/-- Accepted N operations on the lines of a window that opens are performed first: they were accepted while the lines
were ordinary (R243). -/
def drainNops (s : State) (lines : List Nat) : State :=
  let hit (n : NOp) : Bool := lines.contains (n.pa / 128)
  let t := (s.dev.nops.filter hit).foldl performNop s
  t.onDev fun d => { d with nops := d.nops.filter fun n => !hit n }

/-- RWIN: opens a window (R237, R238). -/
def execRwin (c a b : BitVec 5) (s : State) : Out :=
  let base := (xget s a).toNat
  let len := (xget s b).toNat
  let w := (xget s c).toNat
  let ty := tyOf (fld w 0 4)
  stepI (.rwin c a b) s do
    if base % 128 != 0 || len % 128 != 0 || len == 0 || len > 2 ^ 20 then raise .operand
    if fld w 38 26 != 0 || !windowType ty || fld w 20 9 > 287 then raise .operand
    let lines ← windowLines s base len 258 base
    match lineTaken s.dev 0 lines with
    | some k => raiseAt .windowConflict (base + 128 * k)
    | none => pure ()
    if diesFull s.dev lines then raise .queueOvf
    pure ((drainNops s lines).onDev fun d => { d with rwins := d.rwins ++ [newWin s.core.asid base w lines] })

/-- RWIN.CANCEL: closes the window of a base of the issuer's ASID (R244). -/
def execRwinCancel (a : BitVec 5) (s : State) : Out :=
  let mine (w : RWin) : Bool := w.base == xget s a && w.asid == s.core.asid
  stepI (.rwinCancel a) s
    (if s.dev.rwins.any mine then .ok (s.onDev fun d => { d with rwins := d.rwins.filter fun w => !mine w }) else raise .operand)

/-- acc folded with a contribution (R241). -/
def foldValue (t : Ty) (acc c : Nat) : Nat :=
  match numOf t with
  | .flt k => memAdd k acc c
  | .int _ w => (acc + c) % 2 ^ w

/-- Applies a contribution to an element in its L2 slice. -/
def applyElem (d : Dev) (t : Ty) (pa v : Nat) : Dev :=
  let n := groupBytes t
  let old := ofBytesLE ((List.range n).map fun i => l2Byte d (pa + i))
  l2Store d pa (toBytesLE n (foldValue t old v))

/-- Replaces an open window. -/
def putWin (d : Dev) (w : RWin) : Dev :=
  { d with rwins := d.rwins.map fun x => if x.lines == w.lines then w else x }

/-- The parked contributions of the next key are applied and freed (R242). -/
def applyParked (d : Dev) (w : RWin) : Dev × RWin :=
  let now := w.parked.filter fun p => p.1 == w.next
  (now.foldl (fun d p => applyElem d w.ty p.2.1 p.2.2.toNat) d, { w with parked := w.parked.filter fun p => p.1 != w.next })

/-- Keys accepted whole are applied in ascending order, on fuel. -/
def advanceWin : Nat → Dev → RWin → Dev × RWin
  | 0, d, w => (d, w)
  | k + 1, d, w =>
    let r := applyParked d w
    if r.2.acc.contains r.2.next then advanceWin k r.1 { r.2 with next := r.2.next + 1 } else r

/-- Runs a step of X on another core and comes back. -/
def onCoreNo (s : State) (g : Nat) (f : State → State) : State := focus (f (focus s g)) s.core.gcore

/-- The closure notice of a window (R244): bit 6 of the mask; an overflow is SYNC.SEM_OVF in the target's X. The manual
does not say what becomes of a notice to a core without a task: it is discarded (DESIGN CHOICE, log entry 82). -/
def closureNotice (s : State) (w : RWin) : State :=
  let c := coreAt s w.core
  if !w.note || c.task.isNone || c.asid != w.asid then s
  else match semAdd c 6 w.sem 1 with
    | .ok c' => putCore s w.core c'
    | .error .refused => s
    | .error .overflow =>
      onCoreNo s w.core fun s => trapX s { cause := .semOvf, info := w.sem.setWidth 64 }

/-- The key is accepted whole: the window goes on, and closes after its last key. -/
def keyDone (s : State) (lines : List Nat) (key : Nat) : State :=
  match s.dev.rwins.find? fun w => w.lines == lines with
  | none => s
  | some w =>
    let r := advanceWin (w.acc.length + 2) s.dev { w with acc := key :: w.acc }
    if r.2.next ≥ r.2.n then
      closureNotice { s with dev := { r.1 with rwins := r.1.rwins.filter fun x => x.lines != lines } } r.2
    else { s with dev := putWin r.1 r.2 }

/-- The slice of a line: its die and its slice there. -/
def sliceOf (l : Nat) : Nat × Nat := lineSlice l

/-- Parking lines in use at the slice of a line, beside the reserved ones (R242): one for each key and line. -/
def parkedAt (d : Dev) (l : Nat) : List (Nat × Nat × Nat) :=
  (d.rwins.map fun w => (w.parked.filter fun p => sliceOf (p.2.1 / 128) == sliceOf l).map fun p =>
    (w.base.toNat, p.1, p.2.1 / 128)).flatten.eraseDups

/-- A parking line is free for a key at a line, or already holds it. Each open window with lines at the slice has one
line reserved. -/
def canPark (d : Dev) (w : RWin) (key l : Nat) : Bool :=
  let used := parkedAt d l
  let reserved := (d.rwins.filter fun x => x.lines.any fun m => sliceOf m == sliceOf l).length
  used.contains (w.base.toNat, key, l) || decide (used.length + reserved < Config.parkingLines)

/-- What a REDST element meets. -/
inductive Accept where
  | done (s : State) (lines : List Nat)
  | full
  deriving DecidableEq, Repr

/-- One element of a REDST at an aligned address (R240, R242); `mine` names the window of the word's earlier elements. An
element that the pass visits again later is checked and contributes nothing (R239). -/
def redstElem (s : State) (t : Ty) (key va : Nat) (v : BitVec 32) (mine : Option (List Nat)) (again : Bool) : Res Accept := do
  let a := accOf s
  if a.run != 0 then raiseAt .pleatAttr va true
  let x ← match regionOf va with
    | .mem => translate s.dev a .both va
    | _ => raiseAt .windowConflict va true
  match (if x.remote.isNone && x.attr == 0 then windowOf s.dev x.pa else none) with
  | none => raiseAt .windowConflict va true
  | some w =>
    let other := match mine with
      | some l => l != w.lines
      | none => w.claimed.contains key
    if other || decide (t ≠ w.ty) || key ≥ w.n || key < w.next then raiseAt .windowConflict va true
    if (l2Read s.dev x.pa (groupBytes t)).isNone then sysErr s.dev [] va x.pa (groupBytes t)
    let s1 := correctSoft (s.mark x true) x.pa (groupBytes t)
    let w1 := { w with claimed := if mine.isNone then key :: w.claimed else w.claimed }
    if again then pure (.done { s1 with dev := putWin s1.dev w1 } w.lines)
    else if key = w.next then
      pure (.done { s1 with dev := applyElem (putWin s1.dev w1) t x.pa v.toNat } w.lines)
    else if canPark s.dev w key (x.pa / 128) then
      pure (.done { s1 with dev := putWin s1.dev { w1 with parked := w1.parked ++ [(key, x.pa, v)] } } w.lines)
    else pure .full

/-- REDST of X (R239): one element. -/
def execRedst (k a xs : BitVec 5) (ty : Ty) (s : State) : Out :=
  let i : Instr := .redst k a xs ty
  let va := (xget s a).toNat
  let key := (xget s k).toNat
  if !windowType ty then stepI i s (raise .operand)
  else if va % groupBytes ty != 0 then stepI i s (raiseAt .align va true)
  else match redstElem s ty key va ((xget s xs).setWidth 32 &&& BitVec.ofNat 32 (2 ^ laneBits ty - 1)) none false with
    | .error c => stepI i s (.error c)
    | .ok .full => waitX s .redst
    | .ok (.done s1 lines) => nextX (keyDone s1 lines key)

/-! ### Near-memory operations -/

/-- Accepts one N operation of a unit at an aligned address (R224, R246); at a PEER page its home accepts it (R319). -/
def nopAccept (s : State) (u : UnitId) (op : Nat) (f32 : Bool) (va : Nat) (v : BitVec 32) : Res State := do
  let a := accOf s
  let x ← match regionOf va with
    | .mem => translate s.dev a .write va
    | .nothing => raiseAt .unmapped va true
    | _ => raiseAt .perm va true
  if x.attr == 2 then raiseAt .cuffAttr va true
  if x.pa ≥ farBase then raiseAt .perm va true
  match x.remote with
  | some r =>
    let (s, _) ← askHome s a r va true (.nop (ownRank s.dev) a.asid 0 (BitVec.ofNat 64 va) op f32 v)
    pure (s.mark x true)
  | none =>
    placeWriteCheck s.dev a x va 4
    let o : NOp := { core := s.core.gcore, unit := u, pa := x.pa, op, f32, val := v, pleat := x.attr == 1, mset := a.mset,
                     foldAid := a.foldAid }
    let s := (s.mark x true).onDev fun d => { d with nops := d.nops ++ [o] }
    pure (if x.attr == 1 then digest s u va (toBytesLE 4 v.toNat) else s)

/-- A scalar N operation (R245). -/
def nopX (i : Instr) (op : Nat) (a xs : BitVec 5) (ty : Ty) (s : State) : Out :=
  let va := (xget s a).toNat
  stepI i s do
    if ty ≠ .i32 ∧ ty ≠ .f32 then raise .operand
    if op = 0 ∧ ty = .f32 ∧ detStrict s then raise .priv
    if va % 4 != 0 then raiseAt .align va true
    nopAccept s .x op (decide (ty = .f32)) va ((xget s xs).setWidth 32)

/-- NMADD. -/
def execNmadd (a xs : BitVec 5) (ty : Ty) (s : State) : Out := nopX (.nmadd a xs ty) 0 a xs ty s
/-- NMMIN. -/
def execNmmin (a xs : BitVec 5) (ty : Ty) (s : State) : Out := nopX (.nmmin a xs ty) 1 a xs ty s
/-- NMMAX. -/
def execNmmax (a xs : BitVec 5) (ty : Ty) (s : State) : Out := nopX (.nmmax a xs ty) 2 a xs ty s

/-- NMFEN in X waits until its N operations are performed (R247). -/
def execNmfen (s : State) : Out :=
  if nopsPending s .x then waitX s .nmfen else nextX s

/-- NMFEN in S or a copy engine. -/
def execNmfenEngine (y : Sync) (s : State) : Out :=
  issueWord (.nmfenEngine y) y { s := true, e := true } noCheck noWait noCheck (fun s _ _ => { s, kind := .nmfen }) s

end Sys2Proof.Machine
end

