-- ==== Sys2Proof/Machine/Operands.lean ====
section
/-! DEFINITION. The operand codes of C's words (R30 to R33), registers under rotation (R52), predicates, stream pops and
pushes (R99 to R106), result-queue pops (R190, R261, R268), register groups (R122), and the shape that every vector word
shares: read the sources in order, compute, then write the destination. -/

namespace Sys2Proof.Machine

/-! ### Registers (R52) -/

/-- The physical vector register of a name. -/
def vphys (c : Core) (n : Nat) : Nat := if n < 32 then n else 32 + (n - 32 + c.vrb.toNat) % 32

/-- The physical predicate of a name. -/
def pphys (c : Core) (n : Nat) : Nat := if n < 8 then n else 8 + (n - 8 + c.prb.toNat) % 8

/-- v[n], as a number. -/
def vget (c : Core) (n : Nat) : Nat := if h : vphys c n < 64 then (c.v[vphys c n]'h).toNat else 0

/-- Writes v[n]. -/
def vset (c : Core) (n v : Nat) : Core :=
  if h : vphys c n < 64 then { c with v := c.v.set (vphys c n) (BitVec.ofNat 4096 v) h } else c

/-- p[n]; p0 reads all true (R10). -/
def pget (c : Core) (n : BitVec 4) : Pred :=
  if n = 0 then BitVec.allOnes 1024 else if h : pphys c n.toNat < 16 then c.p[pphys c n.toNat]'h else 0

/-- Writes p[n]. -/
def pset (c : Core) (n : BitVec 4) (v : Pred) : Core :=
  if h : pphys c n.toNat < 16 then { c with p := c.p.set (pphys c n.toNat) v h } else c

/-- A predicate from its bits. -/
def predOf (l : List Bool) : Pred := BitVec.ofNat 1024 (vecOf 1 (l.map fun b => if b then 1 else 0))

/-- Writes an index register of C. -/
def csetIdx (c : Core) (i : BitVec 4) (v : Word) : Core := { c with c := iset c.c i v }

/-- A stream register. -/
def gget (c : Core) (g : BitVec 4) : StreamReg := c.g[g.toNat]'(g.isLt)

/-- Replaces a stream register. -/
def gsetReg (c : Core) (g : BitVec 4) (r : StreamReg) : Core := { c with g := c.g.set g.toNat r (g.isLt) }

/-- The descriptor of a stream register. -/
def gdesc (c : Core) (g : BitVec 4) : Desc := descOf (gget c g).desc.toNat

/-- A result queue. -/
def qget (c : Core) (n : BitVec 3) : RQueue := c.q[n.toNat]'(n.isLt)

/-- Replaces a result queue. -/
def qsetReg (c : Core) (n : BitVec 3) (r : RQueue) : Core := { c with q := c.q.set n.toNat r (n.isLt) }

/-! ### Operand codes (R30) -/

/-- What an operand code names. -/
inductive Opd where
  | v (n : Nat)
  | g (n : BitVec 4)
  | q (n : BitVec 3)
  | bc (n : BitVec 4)
  | k (code : Nat)
  deriving DecidableEq, Repr

/-- The operand of a code. -/
def opdOf (c : BitVec 7) : Opd :=
  let n := c.toNat
  if n < 0x40 then .v n
  else if n < 0x50 then .g (BitVec.ofNat 4 n)
  else if n < 0x58 then .q (BitVec.ofNat 3 n)
  else if n < 0x60 then .bc (BitVec.ofNat 4 (n - 0x58))
  else .k n

/-- A real of the constant table as m × 2^-160, the last bit of an irrational one standing for the rest (R33). -/
def constReal : Nat → Option (Bool × Nat × Int)
  | 0x60 => some (false, 0, 0) | 0x61 => some (false, 1, 0) | 0x62 => some (false, 2, 0) | 0x63 => some (false, 4, 0)
  | 0x64 => some (false, 8, 0) | 0x65 => some (false, 16, 0) | 0x66 => some (false, 1, -1) | 0x67 => some (false, 1, -2)
  | 0x68 => some (true, 1, 0) | 0x69 => some (true, 2, 0) | 0x6A => some (true, 1, -1) | 0x6B => some (true, 0, 0)
  | 0x7B => some (false, 3, 0) | 0x7D => some (false, 127, 0)
  | 0x72 => some (false, 0xb17217f7d1cf79abc9e3b39803f2f6af40f34327, -160)
  | 0x73 => some (false, 0x171547652b82fe1777d0ffda0d23a7d11d6aef551, -160)
  | 0x74 => some (false, 0x3243f6a8885a308d313198a2e03707344a4093823, -160)
  | 0x75 => some (false, 0x1921fb54442d18469898cc51701b839a252049c11, -160)
  | 0x76 => some (false, 0x517cc1b727220a94fe13abe8fa9a6ee06db14acd, -160)
  | 0x77 => some (false, 0x16a09e667f3bcc908b2fb1366ea957d3e3adec175, -160)
  | 0x78 => some (false, 0xb504f333f9de6484597d89b3754abe9f1d6f60bb, -160)
  | 0x79 => some (false, 0x2b7e151628aed2a6abf7158809cf4f3c762e7160f, -160)
  | 0x7A => some (false, 0xcc42299ea1b284687e59e2805d5c717fa7053e61, -160)
  | 0x7C => some (false, 0x5555555555555555555555555555555555555555, -160)
  | _ => none

/-- The lane value of a constant in a type; none is INSN.OPERAND (R33). -/
def constVal (t : Ty) (code : Nat) : Option Nat :=
  match numOf t with
  | .int sg w =>
    if code == 0x6F then some (intPat w (intMax sg w))
    else if code == 0x70 then some (intPat w (intMin sg w))
    else if code == 0x7E then some (2 ^ w - 1)
    else if code == 0x7F then some (2 ^ (w - 1))
    else if code == 0x68 || code == 0x69 then
      if sg then some (intPat w (intSat sg w (if code == 0x68 then -1 else -2))) else none
    else if code ≤ 0x65 || code == 0x7B || code == 0x7D then
      match constReal code with
      | some (_, m, _) => some (intPat w (intSat sg w m))
      | none => none
    else none
  | .flt k =>
    let f := k.fmt
    if code == 0x6C then (if f.sp = .ieee then some (f.infinity false) else none)
    else if code == 0x6D then (if f.sp = .ieee then some (f.infinity true) else none)
    else if code == 0x6E then (if f.sp = .none then none else some (f.nan false))
    else if code == 0x6F then some (f.largest false)
    else if code == 0x70 then some (f.largest true)
    else if code == 0x71 then some (2 ^ f.fb)
    else if code == 0x7E then some (2 ^ f.w - 1)
    else if code == 0x7F then some (2 ^ (f.w - 1))
    else match constReal code with
      | none => none
      | some (neg, m, x) =>
        let r := deliver k { mode := .rne } (.num neg m x)
        some (if r.2.getLsbD 2 then f.largest neg else r.1)

/-! ### Checks -/

/-- What a source or destination position of a word needs: its code, the size of its register group, the type that it
holds, and whether an MX stream is admitted. -/
structure Spec where
  code : BitVec 7
  w : Nat := 1
  ty : Ty
  mx : Bool := false
  deriving DecidableEq, Repr

/-- The decode check of a position (R30, R31, R33, R122). The three-register group of VSMRG has a rule of its own. -/
def specDecode (dst : Bool) (p : Spec) : Res Unit :=
  match opdOf p.code with
  | .v n => if p.w != 3 && n % p.w != 0 then raise .operand else .ok ()
  | .g _ => .ok ()
  | .q _ | .bc _ => if dst then raise .operand else .ok ()
  | .k c => if dst || (constVal p.ty c).isNone then raise .operand else .ok ()

/-- The issue-cycle check of a stream that a position names (R31, R100, R101, R121). -/
def specEarly (s : State) (dst : Bool) (p : Spec) : Res Unit :=
  match opdOf p.code with
  | .g g =>
    let d := gdesc s.core g
    if d.mem || d.push != dst || d.ty ≠ p.ty || (d.mx && !p.mx) then raise .operand else .ok ()
  | _ => .ok ()

/-- QPOSTs of the core in focus to a queue that still have triples to push. -/
def postsPending (s : State) (n : BitVec 3) : Bool :=
  s.dev.qposts.any fun q => q.core == s.core.gcore && q.q == n.toNat && q.next < q.banks

/-- Pops of a queue that some positions make. -/
def popsOf (n : BitVec 3) : List Spec → Nat
  | [] => 0
  | p :: ps => (if opdOf p.code = .q n then p.w else 0) + popsOf n ps

/-- A pop of an empty queue waits while a QPOST still has triples for it (R261). -/
def specsReady (s : State) (ps : List Spec) : Option SWait :=
  if ps.any fun p => match opdOf p.code with
      | .q n => (qget s.core n).vecs.length < popsOf n ps && postsPending s n
      | _ => false
  then some .counted else none

/-! ### Reading a source -/

/-- A source position as read: its vectors, and the block scales of each when it is an MX stream. -/
structure Src where
  vecs : List Nat
  scales : List (List Byte)
  deriving DecidableEq, Repr

/-- Groups of a pass walked from the first element of a vector. -/
def vecGroups (d : Desc) (v : Nat) : Nat × Nat :=
  let r := d.vecRange v
  (r.1 / groupElems d.ty, (r.2 + groupElems d.ty - 1) / groupElems d.ty)

/-- The window of the core in focus. -/
def ownWin (s : State) : Side := .win (clusterOf s.core.gcore)

/-- Pops one vector of a window stream (R99 to R101): pad lanes are zero, a whole pad block has scale 0x7F. -/
def popStream (s : State) (g : BitVec 4) : Res (State × Nat × List Byte) :=
  let r := gget s.core g
  let d := descOf r.desc.toNat
  let v := if r.pos ≥ d.vectors then 0 else r.pos
  if r.pos ≥ d.vectors && !d.wrap then raise .queueUnf
  else
    let gr := vecGroups d v
    let p := readPass (.seq .c) (accOf s) (ownWin s) d gr.2 gr.1 s
    match p.2.2 with
    | some c => .error c
    | none =>
      let vec := vecOf (laneBits d.ty) ((p.2.1.map fun x => unpackGroup d.ty x.bytes).flatten)
      let sc := p.2.1.filterMap (·.scale)
      let sc := sc ++ List.replicate (lanes d.ty / 32 - sc.length) 0x7F
      .ok ({ p.1 with core := gsetReg p.1.core g { r with pos := v + 1 } }, vec, if d.mx then sc else [])

/-- Pops one vector of a result queue (R190). A marked head raises CUFF_BANK_UE before it is removed (R268), and one that
the queue array holds with an error raises SRAM_UE (R377). -/
def popQueue (s : State) (n : BitVec 3) : Res (State × QVec) :=
  let r := qget s.core n
  match r.vecs with
  | [] => raise .queueUnf
  | x :: xs =>
    match x.ue with
    | some l => raise .cuffBankUe (l.setWidth 64)
    | none => if x.bad then raise .sramUe else .ok ({ s with core := qsetReg s.core n { r with vecs := xs, held := r.held + 1 } }, x)

/-- The lanes of a type that all hold one value. -/
def splat (t : Ty) (v : Nat) : Nat := vecOf (laneBits t) (List.replicate (lanes t) v)

/-- One vector of a position; `j` counts the registers of its group. -/
def readOne (s : State) (p : Spec) (j : Nat) : Res (State × Nat × List Byte) :=
  match opdOf p.code with
  | .v n => .ok (s, vget s.core (n + j), [])
  | .g g => popStream s g
  | .q n => (popQueue s n).map fun r => (r.1, r.2.data.toNat, [])
  | .bc i => .ok (s, splat p.ty ((iget s.core.c i).toNat % 2 ^ elemBits p.ty), [])
  | .k c => .ok (s, splat p.ty ((constVal p.ty c).getD 0), [])

/-- The vectors of a position, in order. -/
def readVecs (p : Spec) : Nat → Nat → State → Res (State × Src)
  | 0, _, s => .ok (s, { vecs := [], scales := [] })
  | k + 1, j, s => do
    let (s, v, sc) ← readOne s p j
    let (s, r) ← readVecs p k (j + 1) s
    pure (s, { vecs := v :: r.vecs, scales := sc :: r.scales })

/-- The sources of a word, popped in order (R31). -/
def readSrcs : List Spec → State → Res (State × List Src)
  | [], s => .ok (s, [])
  | p :: ps, s => do
    let (s, r) ← readVecs p p.w 0 s
    let (s, rs) ← readSrcs ps s
    pure (s, r :: rs)

/-- The first marked vector among the first k of a queue loses its mark: the re-executed pop delivers it (R268). -/
def unmark : Nat → List QVec → Option (List QVec)
  | 0, _ => none
  | _ + 1, [] => none
  | k + 1, x :: xs => if x.ue.isSome then some ({ x with ue := none } :: xs) else (unmark k xs).map (x :: ·)

/-- Clears the mark that a stopped word has met in the queues of its positions. -/
def unmarkSpecs (all : List Spec) : List Spec → State → State
  | [], s => s
  | p :: ps, s =>
    match opdOf p.code with
    | .q n =>
      match unmark (popsOf n all) (qget s.core n).vecs with
      | some l => { s with core := qsetReg s.core n { qget s.core n with vecs := l } }
      | none => unmarkSpecs all ps s
    | _ => unmarkSpecs all ps s

/-- The vectors that a word popped, by queue, for its retirement: what the queues held before and hold no more. -/
def heldBy (s0 s1 : State) (ps : List Spec) : List (Nat × List QVec) :=
  (ps.filterMap fun p => match opdOf p.code with | .q n => some n | _ => none).eraseDups.map fun n =>
    (n.toNat, (qget s0.core n).vecs.take ((qget s0.core n).vecs.length - (qget s1.core n).vecs.length))

/-! ### Writing a destination -/

/-- The plan of a push of one vector (R99, R106): active, non-pad elements; for an MX push the first lane of a block
decides for its codes and its scale. -/
def pushPlan (d : Desc) (v vec : Nat) (act : Nat → Bool) (scales : List Byte) : List Wr :=
  let r := d.vecRange v
  let ge := groupElems d.ty
  ((List.range ((r.2 + ge - 1) / ge)).map fun k =>
    let l := k * ge
    let e := r.1 + l
    let on (i : Nat) : Bool := if d.mx then act (i / 32 * 32) else act i
    let es := (List.range ge).map fun j => (laneOf d.ty (BitVec.ofNat 4096 vec) (l + j), on (l + j))
    let w : Wr := { e, addr := d.addr (e / ge), mode := d.swz, bytes := packGroup d.ty es }
    if d.mx && e % 32 == 0 && on l then
      [{ e, addr := d.scaleAddr (e / 32), mode := 0, bytes := [((scales[l / 32]?).getD 0, 0xFF)] }, w]
    else [w]).flatten

/-- The plan of a push of one vector, without the elements that it does not write. -/
def activePlan (d : Desc) (v vec : Nat) (act : Nat → Bool) (scales : List Byte) : List Wr :=
  (pushPlan d v vec act scales).filter fun w => w.bytes.any fun b => b.2 != 0

/-- Everything that a word is to push to a stream from a position on, for the lines that it writes whole (R105). -/
def wordPlan (d : Desc) (scales : List Byte) : Nat → List (Nat × (Nat → Bool)) → List Wr
  | _, [] => []
  | pos, x :: xs =>
    let v := if pos ≥ d.vectors then 0 else pos
    if pos ≥ d.vectors && !d.wrap then [] else activePlan d v x.1 x.2 scales ++ wordPlan d scales (v + 1) xs

/-- Pushes one vector to the pass of a stream register: the position after it, and the cause that it meets (R101). -/
def pushAt (s : State) (r : StreamReg) (vec : Nat) (act : Nat → Bool) (scales : List Byte) (whole : List Wr) :
    State × Nat × Option CauseRec :=
  let d := descOf r.desc.toNat
  let v := if r.pos ≥ d.vectors then 0 else r.pos
  if r.pos ≥ d.vectors && !d.wrap then (s, r.pos, some { cause := .queueOvf })
  else
    let q := writePlan (.seq .c) (accOf s) [ownWin s] d.ty whole (activePlan d v vec act scales) s
    (q.1, v + 1, q.2)

/-- Pushes one vector to a window stream; `whole` is what its word is to push. -/
def pushStream (s : State) (g : BitVec 4) (vec : Nat) (act : Nat → Bool) (scales : List Byte) (whole : List Wr) :
    State × Option CauseRec :=
  let r := gget s.core g
  let q := pushAt s r vec act scales whole
  ({ q.1 with core := gsetReg q.1.core g { r with pos := q.2.1 } }, q.2.2)

/-- Pushes vectors with the active lanes of each to the pass of a stream register, up to the first cause. -/
def pushAll (whole : List Wr) : List (Nat × (Nat → Bool)) → StreamReg → State → State × Option CauseRec
  | [], _, s => (s, none)
  | x :: xs, r, s =>
    match pushAt s r x.1 x.2 [] whole with
    | (s, _, some c) => (s, some c)
    | (s, pos, none) => pushAll whole xs { r with pos } s

/-- The position of a stream after n vectors of it. -/
def posAfter (d : Desc) : Nat → Nat → Nat
  | 0, pos => pos
  | n + 1, pos => if pos ≥ d.vectors && !d.wrap then pos else posAfter d n ((if pos ≥ d.vectors then 0 else pos) + 1)

/-- A register under a lane mask: inactive lanes keep their bits (R119). -/
def mergeLanes (bits n old new : Nat) (act : Nat → Bool) : Nat :=
  vecOf bits ((List.range n).map fun i => (if act i then new else old) / 2 ^ (bits * i) % 2 ^ bits)

/-- What a word is to push to its destination, if that is a stream. -/
def destPlan (s : State) (p : Spec) (vecs : List Nat) (act : Nat → Nat → Bool) (scales : List Byte) : List Wr :=
  match opdOf p.code with
  | .g g => wordPlan (gdesc s.core g) scales (gget s.core g).pos (vecs.zipIdx.map fun x => (x.1, act x.2))
  | _ => []

/-- Writes one vector of a destination. -/
def writeOne (s : State) (p : Spec) (j vec : Nat) (act : Nat → Bool) (scales : List Byte) (whole : List Wr) : State × Option CauseRec :=
  match opdOf p.code with
  | .v n => ({ s with core := vset s.core (n + j) (mergeLanes (laneBits p.ty) (lanes p.ty) (vget s.core (n + j)) vec act) }, none)
  | .g g => pushStream s g vec act scales whole
  | _ => (s, none)

/-- Writes the vectors of a destination in order, up to the first cause. -/
def writeVecs (p : Spec) (act : Nat → Nat → Bool) (scales : List Byte) (whole : List Wr) :
    Nat → List Nat → State → State × Option CauseRec
  | _, [], s => (s, none)
  | j, v :: vs, s =>
    let r := writeOne s p j v (act j) scales whole
    match r.2 with
    | some c => (r.1, some c)
    | none => writeVecs p act scales whole (j + 1) vs r.1

/-! ### The shape of a vector word -/

/-- What a vector word computes: destination vectors and which lanes of each are active, the scales of an MX push, its
flags, the lane-flag record that it rewrites, and its predicate and index results. -/
structure VRes where
  vecs : List Nat := []
  act : Nat → Nat → Bool := fun _ _ => true
  scales : List Byte := []
  flags : FFlags := 0
  lanes : Option (List FFlags) := none
  pred : Option (BitVec 4 × Pred) := none
  idx : Option (BitVec 4 × Word) := none

/-- The effect of a vector word after issue. A word that traps on a flag writes no destination, but its flags and lane
flags stand (R85); one that stops on another cause returns its queue vectors and stream positions (R101, R190). -/
def vecBody (srcs : List Spec) (dst : Option Spec) (f : State → List Src → VRes) (s : State) : Eng :=
  match readSrcs srcs s with
  | .error c => { s := if c.cause = .cuffBankUe then unmarkSpecs srcs srcs s else s, err := some c }
  | .ok (s1, rs) =>
    let r := f s rs
    let ten := tenOf s.core.vfctl
    let core := match r.lanes with
      | some l => setLaneFlags s.core l
      | none => s.core
    match (if ten = 0 then none else arithCause r.flags ten) with
    | some c =>
      { s := { s with core := { core with vfstat := core.vfstat ||| r.flags.setWidth 64 } }
        err := some { cause := c, info := r.flags.setWidth 64 } }
    | none =>
      let w := match dst with
        | some p => writeVecs p r.act r.scales (destPlan s1 p r.vecs r.act r.scales) 0 r.vecs s1
        | none => (s1, none)
      match w.2 with
      | some c => { s := { w.1 with core := s.core }, err := some c }
      | none =>
        let core := match r.lanes with
          | some l => setLaneFlags w.1.core l
          | none => w.1.core
        let core := match r.pred with
          | some (n, v) => pset core n v
          | none => core
        let core := match r.idx with
          | some (i, v) => csetIdx core i v
          | none => core
        { s := { w.1 with core }, flags := r.flags, held := heldBy s w.1 srcs }

/-- The decode checks of the positions of a word, and a check of its own before them. -/
def specsDecode (own : State → Res Unit) (srcs : List Spec) (dst : Option Spec) (s : State) (_ : SeqId) : Res Unit := do
  own s
  srcs.forM (specDecode false)
  match dst with
  | some p => specDecode true p
  | none => pure ()

/-- The issue-cycle checks of the positions of a word. -/
def specsEarly (srcs : List Spec) (dst : Option Spec) (s : State) (_ : SeqId) : Res Unit := do
  srcs.forM (specEarly s false)
  match dst with
  | some p => specEarly s true p
  | none => pure ()

/-- A vector word of C. -/
def vecWord (i : Instr) (y : Sync) (own : State → Res Unit) (srcs : List Spec) (dst : Option Spec)
    (f : State → List Src → VRes) (s : State) : Out :=
  issueWord i y { c := true } (specsDecode own srcs dst) (fun s _ => specsReady s srcs) (specsEarly srcs dst)
    (fun s _ _ => vecBody srcs dst f s) s

/-- INSN.OPERAND unless a condition holds. -/
def require (b : Bool) (_ : State) : Res Unit := if b then .ok () else raise .operand

end Sys2Proof.Machine
end

