-- ==== Sys2Proof/Machine/Sequence.lean ====
section
/-! DEFINITION. Command hand-off and tokens in X (R44 to R48, R300), and the sequencing words of the engines (R49 to
R55). -/

namespace Sys2Proof.Machine

/-! ### Commands -/

/-- The sequencer of a code: 1 L, 2 C, 3 S. -/
def seqCode : Nat → SeqId
  | 1 => .l
  | 2 => .c
  | _ => .s

/-- ECMD (R45): appends a command, or waits while four are pending. -/
def execEcmd (t a b : BitVec 5) (s : State) : Out :=
  let i : Instr := .ecmd t a b
  if t = 0 ∨ t.toNat > 3 then insnX s .operand i
  else if xget s a &&& 7 ≠ 0 then insnX s .alignPc i
  else
    let u := seqCode t.toNat
    let q := seqOf s u
    if q.queue.length ≥ Config.commandSlots then waitX s .ecmd
    else
      let q := { q with queue := q.queue ++ [(xget s a, xget s b)] }
      nextX (setSeq s u (if q.running then q else nextCommand q))

/-- The sequencers that a mask of EFEN or EFLUSH selects. -/
def maskSeqs (m : BitVec 3) : List SeqId :=
  (if m.getLsbD 0 then [SeqId.l] else []) ++ (if m.getLsbD 1 then [SeqId.c] else [])
    ++ (if m.getLsbD 2 then [SeqId.s] else [])

/-- The sequencer has no command. -/
def seqIdle (q : Seq) : Bool := !q.running && q.queue.isEmpty && q.flight.isNone && q.cause.isNone

/-- EFEN (R47): waits until the commands of the selected sequencers are complete. -/
def execEfen (m : BitVec 3) (s : State) : Out :=
  if (maskSeqs m).all fun u => !(seqOf s u).running && (seqOf s u).queue.isEmpty then nextX s else waitX s .efen

/-- Step 1 of EFLUSH: commands, unissued words and a raised cause are discarded; issued words go on (R300). -/
def flushSeq (s : State) (u : SeqId) : State :=
  let q := { seqOf s u with queue := [] }
  if q.flushed then setSeq s u q
  else if q.flight.isSome || stalledWord q then setSeq s u { q with flushed := true, running := true, drained := false }
  else
    setSeq s u { q with running := false, cause := none, delivered := false, resume := none, wait := .none, drained := false }

/-- EFLUSH (R300): waits until the issued words of the selected sequencers have retired. -/
def execEflush (m : BitVec 3) (s : State) : Out :=
  let s1 := (maskSeqs m).foldl flushSeq s
  if (maskSeqs m).any fun u => (seqOf s1 u).flushed then waitX s1 .eflush else nextX s1

/-- TOKS (R48). -/
def execToks (n : BitVec 2) (s : State) : Out :=
  let k := n.toNat - 1
  if n = 0 then insnX s .operand (.toks n)
  else if tokens s.core k ≥ Config.tokenSlots then .next (trapX s { cause := .tokenOvf })
  else nextX { s with core := pushToken s.core k }

/-- TOKR (R48). -/
def execTokr (n : BitVec 2) (s : State) : Out :=
  let k := 3 * n.toNat
  if n = 0 then insnX s .operand (.tokr n)
  else if tokens s.core k = 0 then .next (trapX s { cause := .tokenUnf })
  else nextX { s with core := setTokens s.core k (tokens s.core k - 1) }

/-! ### Engine sequencing -/

/-- Every sequencer. -/
def anySeq : Valid := { l := true, c := true, s := true, e := true }

/-- Only C. -/
def onlyC : Valid := { c := true }

/-- A word with no condition or check of its own. -/
def plainWord (i : Instr) (y : Sync) (v : Valid) (body : State → SeqId → Eng) (s : State) : Out :=
  issueWord i y v noCheck noWait noCheck (fun s u _ => body s u) s

/-- ENOP (R49). -/
def execEnop (y : Sync) (s : State) : Out := plainWord (.enop y) y anySeq (fun s _ => { s }) s

/-- ESTOP (R49): the command is complete when it retires. -/
def execEstop (y : Sync) (s : State) : Out := plainWord (.estop y) y anySeq (fun s _ => { s, estop := true }) s

/-- PC + 8 × a signed word distance. -/
def jumpTo {n : Nat} (pc : Word) (off : BitVec n) : Word := pc + 8 * off.signExtend 64

/-- EJMP (R50). -/
def execEjmp (y : Sync) (off : BitVec 29) (s : State) : Out :=
  plainWord (.ejmp y off) y anySeq (fun s u => { s, pc := some (jumpTo (seqOf s u).pc off) }) s

/-- A condition of EBR. -/
def ecompare (cc : ECond) (x y : Word) : Bool :=
  match cc with
  | .eq => x == y
  | .ne => x != y
  | .lt => x.slt y
  | .ge => !x.slt y
  | .ltu => x.ult y
  | .geu => !x.ult y

/-- EBR (R50). -/
def execEbr (y : Sync) (cc : ECond) (ia ib : BitVec 4) (off : BitVec 18) (s : State) : Out :=
  plainWord (.ebr y cc ia ib off) y anySeq (fun s u =>
    let q := seqOf s u
    { s, pc := if ecompare cc (iget q ia) (iget q ib) then some (jumpTo q.pc off) else none }) s

/-- The effect of ELOOP: counts down and branches while the counter is not 0. -/
def loopBody (i : BitVec 4) (off : BitVec 25) (s : State) (u : SeqId) : Eng :=
  let q := seqOf s u
  let v := iget q i - 1
  { s := setSeq s u (iset q i v), pc := if v = 0 then none else some (jumpTo q.pc off) }

/-- ELOOP (R51). -/
def execEloop (y : Sync) (i : BitVec 4) (off : BitVec 25) (s : State) : Out :=
  plainWord (.eloop y i off) y anySeq (loopBody i off) s

/-- The rotation of LOOP (R51). -/
def rotate (c : Core) : Core := { c with vrb := c.vrb - 1, prb := c.prb - 1 }

/-- LOOP (R51): as ELOOP, and the registers rotate. -/
def execLoop (y : Sync) (i : BitVec 4) (off : BitVec 25) (s : State) : Out :=
  plainWord (.loop y i off) y onlyC (fun s u => loopBody i off { s with core := rotate s.core } u) s

/-- ISET (R54). -/
def execIset (y : Sync) (i : BitVec 4) (imm : BitVec 25) (s : State) : Out :=
  plainWord (.iset y i imm) y anySeq (fun s u => { s := setSeq s u (iset (seqOf s u) i (imm.signExtend 64)) }) s

/-- IADD (R54). -/
def execIadd (y : Sync) (i : BitVec 4) (imm : BitVec 25) (s : State) : Out :=
  plainWord (.iadd y i imm) y anySeq
    (fun s u => { s := setSeq s u (iset (seqOf s u) i (iget (seqOf s u) i + imm.signExtend 64)) }) s

/-- ILD (R55): a 64-bit read at L2. -/
def execIld (y : Sync) (i ib : BitVec 4) (off : BitVec 21) (s : State) : Out :=
  plainWord (.ild y i ib off) y anySeq (fun s u =>
    let a := iget (seqOf s u) ib + 8 * off.signExtend 64
    let r : Res (State × Word) := if a &&& 7 ≠ 0 then raiseAt .align a.toNat else vread64 s (accOf s) a.toNat
    match r with
    | .error c => { s, err := some c }
    | .ok (s1, v) => { s := setSeq s1 u (iset (seqOf s1 u) i v) }) s

/-- RBSET (R53). -/
def execRbset (y : Sync) (vrb : BitVec 5) (prb : BitVec 3) (s : State) : Out :=
  plainWord (.rbset y vrb prb) y onlyC (fun s _ => { s := { s with core := { s.core with vrb, prb } } }) s

end Sys2Proof.Machine
end

