-- ==== Sys2Proof/Machine/Matrix.lean ====
section
/-! DEFINITION. The matrix engine: panel, tiles and gradient plane (R181 to R189), the queues it fills (R190), and the
words MWLD, MMA, MDRAIN, MZERO, MSAVE and MREST (R191 to R199). -/

namespace Sys2Proof.Machine

/-! ### Rows of a stream (R183) -/

/-- Rows of width w in a pass. -/
def Desc.rows (d : Desc) (w : Nat) : Nat :=
  if d.align0 then (d.run + w - 1) / w * d.n1 * d.n2 * d.n3 else (d.total + w - 1) / w

/-- The first element of a row and how many elements it holds. -/
def Desc.rowRange (d : Desc) (w v : Nat) : Nat × Nat :=
  if d.align0 then
    let per := (d.run + w - 1) / w
    let k := v % per * w
    (v / per * d.run + k, min w (d.run - k))
  else (v * w, min w (d.total - v * w))

/-- The positions after popping rows of given widths in order; none where a pass ends (R101). -/
def rowsPos (c : Core) : List (BitVec 4 × Nat) → Option Core
  | [] => some c
  | (g, w) :: l =>
    let r := gget c g
    let d := descOf r.desc.toNat
    if r.pos ≥ d.rows w then
      (if d.wrap then rowsPos (gsetReg c g { r with pos := 1 }) l else none)
    else rowsPos (gsetReg c g { r with pos := r.pos + 1 }) l

/-- A popped row: its elements, then pad zeros, and its block scales. -/
structure Row where
  elems  : List Nat
  scales : List Byte
  deriving DecidableEq, Repr

/-- Pops one row of width w. -/
def popRow (s : State) (g : BitVec 4) (w : Nat) : Res (State × Row) :=
  let r := gget s.core g
  let d := descOf r.desc.toNat
  let v := if r.pos ≥ d.rows w then 0 else r.pos
  if r.pos ≥ d.rows w && !d.wrap then raise .queueUnf
  else
    let rg := d.rowRange w v
    let ge := groupElems d.ty
    let i := rg.1 / ge
    let p := readPass (.seq .c) (accOf s) (ownWin s) d ((rg.1 + rg.2 + ge - 1) / ge - i) i s
    match p.2.2 with
    | some c => .error c
    | none =>
      let el := (p.2.1.map fun x => unpackGroup d.ty x.bytes).flatten
      let sc := p.2.1.filterMap (·.scale)
      .ok ({ p.1 with core := gsetReg p.1.core g { r with pos := v + 1 } },
           { elems := el ++ List.replicate (w - el.length) 0
             scales := if d.mx then sc ++ List.replicate (w / 32 - sc.length) 0x7F else [] })

/-- Pops rows in order. -/
def popRows : List (BitVec 4 × Nat) → State → Res (State × List Row)
  | [], s => .ok (s, [])
  | (g, w) :: l, s => do
    let (s, r) ← popRow s g w
    let (s, rs) ← popRows l s
    pure (s, r :: rs)

/-- A stream register is a window pop stream. -/
def windowPop (s : State) (g : BitVec 4) : Bool := !(gdesc s.core g).mem && !(gdesc s.core g).push

/-! ### The panel (R182, R188) -/

/-- Depth Kt of a panel of a type, MX flag and F64 flag; none where R182 has no such row. -/
def panelDepth (t : Ty) (mx f64 : Bool) : Option Nat :=
  if f64 then (if t = .n32 ∧ !mx then some 64 else none)
  else match t with
    | .f32 | .f16 | .bf16 => if mx then none else some 128
    | .e4m3 | .e5m2 => some 256
    | .e3m2 | .e2m3 | .i8 => if mx then some 256 else none
    | .e2m1 => if mx then some 1024 else none
    | _ => none

/-- Depth of a loaded panel. -/
def Panel.kt (p : Panel) : Nat := (panelDepth p.ty p.mx p.f64).getD 0

/-- Stream elements of a row for a panel. -/
def Panel.rowWidth (p : Panel) (w : Nat) : Nat := if p.f64 then 2 * w else w

/-- The panel admits a stream for its A operand. -/
def Panel.admits (p : Panel) (d : Desc) : Bool :=
  match p.ty with
  | .e4m3 | .e5m2 => (decide (d.ty = .e4m3) || decide (d.ty = .e5m2)) && d.mx == p.mx
  | .e3m2 | .e2m3 => (decide (d.ty = .e3m2) || decide (d.ty = .e2m3)) && d.mx
  | _ => decide (d.ty = p.ty) && d.mx == p.mx

/-- The exact value of a code under a block scale (R88, R184). -/
def scaled (t : Ty) (scale : Option Byte) (code : Nat) : FVal :=
  let v : FVal := match numOf t with
    | .flt k => k.fmt.value code
    | .int sg w =>
      let n := intOf sg w code
      .num (n < 0) n.natAbs (-6)
  match scale with
  | none => v
  | some s =>
    if s = 0xFF then .nan false
    else match v with
      | .num n m x => .num n m (x + s.toNat - 127)
      | w => w

/-- Pairs of N32 elements as F64 elements, low word first. -/
def pairUp : List Nat → List Nat
  | lo :: hi :: l => (lo % 2 ^ 32 + 2 ^ 32 * (hi % 2 ^ 32)) :: pairUp l
  | _ => []

/-- The values of a row for a panel's type: F64 elements or scaled codes. -/
def rowVals (t : Ty) (mx f64 : Bool) (r : Row) : List FVal :=
  if f64 then (pairUp r.elems).map FKind.f64.fmt.value
  else (List.range r.elems.length).map fun k =>
    scaled t (if mx then r.scales[k / 32]? else none) ((r.elems[k]?).getD 0)

/-- Element W[k][n] as a value. -/
def Panel.value (p : Panel) (k n : Nat) : FVal :=
  let code := (sget 0 p.elems (1024 * n + k)).toNat
  if p.f64 then FKind.f64.fmt.value code
  else scaled p.ty (if p.mx then some (sget 0 p.scales (32 * n + k / 32)) else none) code

/-- The kept positions of a nibble, at most two (R188). -/
def keptPos (n : Nat) : List Nat := ((List.range 4).filter fun k => n / 2 ^ k % 2 == 1).take 2

/-- A 2:4 column from its values and nibbles: elements and prune bits from k = 0. -/
def expand24 (vals nibs : List Nat) : List (Nat × Bool) :=
  ((List.range nibs.length).map fun g =>
    let kept := keptPos ((nibs[g]?).getD 0)
    (List.range 4).map fun k =>
      match kept.idxOf? k with
      | some i => ((vals[2 * g + i]?).getD 0, false)
      | none => (0, true)).flatten

/-- A column of a new panel. -/
def columnOf (sp f64 : Bool) : List Row → List (Nat × Bool)
  | col :: m :: _ => if sp then expand24 col.elems m.elems else (col.elems.map fun e => (e, false))
  | [col] => (if f64 then pairUp col.elems else col.elems).map fun e => (e, false)
  | [] => []

/-- The panel that the rows of an MWLD load. -/
def panelOf (t : Ty) (mx f64 sp : Bool) (rows : List Row) : Panel :=
  let step := if sp then 2 else 1
  let cols := (List.range 128).map fun n => (rows.drop (step * n)).take step
  let col (n : Nat) : List (Nat × Bool) := columnOf sp f64 ((cols[n]?).getD [])
  { ty := t, mx, f64, sp
    elems := ((List.range 128).map fun n => sfrom 0 (1024 * n) ((col n).map fun e => BitVec.ofNat 64 e.1)).flatten
    scales := ((List.range 128).map fun n =>
      sfrom 0 (32 * n) (match (cols[n]?).getD [] with | r :: _ => r.scales | [] => [])).flatten
    prune := ((List.range 128).map fun n => sfrom false (1024 * n) ((col n).map (·.2))).flatten }

/-- The pops of an MWLD, in order. -/
def mwldPops (sw sm : BitVec 4) (sp f64 : Bool) (kt : Nat) : List (BitVec 4 × Nat) :=
  ((List.range 128).map fun _ =>
    (sw, if sp then kt / 2 else if f64 then 2 * kt else kt) :: (if sp then [(sm, kt / 4)] else [])).flatten

/-- The type admits 2:4 loading (R188). -/
def type24 : Ty → Bool
  | .f32 | .f16 | .bf16 | .e4m3 | .e5m2 => true
  | _ => false

/-- Depth of the panel that an MWLD would load from its streams. -/
def mwldDepth (s : State) (sw : BitVec 4) (f64 : Bool) : Option Nat :=
  panelDepth (gdesc s.core sw).ty (gdesc s.core sw).mx f64

/-- The issue-cycle checks of MWLD (R191). -/
def mwldEarly (sw sm : BitVec 4) (sp f64 : Bool) (s : State) : Res Unit :=
  let d := gdesc s.core sw
  let m := gdesc s.core sm
  match mwldDepth s sw f64 with
  | none => raise .operand
  | some kt =>
    if !windowPop s sw then raise .operand
    else if sp && (!windowPop s sm || decide (m.ty ≠ .n4) || m.mx || d.mx || !type24 d.ty) then raise .operand
    else if (rowsPos s.core (mwldPops sw sm sp f64 kt)).isNone then raise .queueUnf
    else .ok ()

/-- A matrix word: it completes by an event of the matrix pipeline (R198). -/
def matrixWord (i : Instr) (y : Sync) (decode early : State → Res Unit) (body : State → Eng) (s : State) : Out :=
  issueWord i y onlyC (fun s _ => decode s) noWait (fun s _ => early s)
    (fun s _ _ =>
      let r := body s
      { r with kind := .matrix, done := false }) s

/-- MWLD (R191). -/
def execMwld (y : Sync) (sw sm : BitVec 4) (sp f64 : Bool) (s : State) : Out :=
  matrixWord (.mwld y sw sm sp f64) y
    (fun _ => if (!sp && sm != 0) || (sp && f64) then raise .operand else .ok ())
    (mwldEarly sw sm sp f64)
    (fun s =>
      let d := gdesc s.core sw
      match popRows (mwldPops sw sm sp f64 ((mwldDepth s sw f64).getD 0)) s with
      | .error c => stopAt' s c
      | .ok (s1, rows) => { s := { s1 with core := { s1.core with wp := some (panelOf d.ty d.mx f64 sp rows) } } }) s
where
  /-- A stop after issue that leaves the state. -/
  stopAt' (s : State) (c : CauseRec) : Eng := { s, err := some c }

/-! ### Accumulation (R184, R185) -/

/-- An accumulator entry with the status that its additions raised. -/
structure Accu where
  v  : Nat
  nv : Bool
  of : Bool
  deriving DecidableEq, Repr

/-- The sum of a block of products: its value and NV (R184). -/
def blockSum (ps : List FVal) : FVal × Bool :=
  if ps.any (·.isNan) then (.nan false, false)
  else
    let pos := ps.any fun p => p.isInf && !p.neg
    let neg := ps.any fun p => p.isInf && p.neg
    if pos && neg then (.nan false, true)
    else if pos then (.inf false, false)
    else if neg then (.inf true, false)
    else
      let nz := ps.filterMap fun p => match p with
        | .num n m x => if m == 0 then none else some (n, m, x)
        | _ => none
      match nz with
      | [] => (.zero false, false)
      | (_, m0, x0) :: _ =>
        let e := nz.foldl (fun a p => max a ((Nat.log2 p.2.1 : Int) + p.2.2)) ((Nat.log2 m0 : Int) + x0)
        let u := e - 57
        let sum := nz.foldl (fun (a : Int) p =>
          let q : Nat := if p.2.2 ≥ u then p.2.1 * 2 ^ (p.2.2 - u).toNat else p.2.1 / 2 ^ (u - p.2.2).toNat
          if p.1 then a - q else a + q) 0
        (if sum = 0 then .zero false else .num (sum < 0) sum.natAbs u, false)

/-- The canonical NaN of the engine has sign 0. -/
def plusNan (v : FVal) : FVal := if v.isNan then .nan false else v

/-- One block added into an ACC48 entry. -/
def addBlock (a : Accu) (ps : List FRes) : Accu :=
  let s := blockSum (ps.map (·.val))
  let r := addVal .rne (FKind.acc48.fmt.value a.v) s.1
  let d := deliver .acc48 { mode := .rne } (plusNan r.val)
  { v := d.1, nv := a.nv || s.2 || decide (r.fl ≠ 0) || ps.any (fun p => decide (p.fl ≠ 0)), of := a.of || d.2.getLsbD 2 }

/-- The products of an entry, in blocks of 32 along the contraction index (R184). -/
def accum48 : List (List FRes) → Accu → Accu
  | [], a => a
  | b :: bs, a => accum48 bs (addBlock a b)

/-- The factors of an entry, applied one at a time (R185). -/
def accum64 : List (FVal × FVal) → Accu → Accu
  | [], a => a
  | (x, w) :: l, a =>
    let r := fmaVal .rne false false x w (FKind.f64.fmt.value a.v)
    let d := deliver .f64 { mode := .rne } (plusNan r.val)
    accum64 l { v := d.1, nv := a.nv || decide (r.fl ≠ 0), of := a.of || d.2.getLsbD 2 }

/-- The active factors of a contraction, cut into blocks of 32 indices. -/
def blocksOf (depth : Nat) (fs : Nat → Option (FVal × FVal)) : List (List (FVal × FVal)) :=
  (List.range ((depth + 31) / 32)).map fun b =>
    ((List.range (min 32 (depth - 32 * b))).filterMap fun k => fs (32 * b + k))

/-- The new value of an entry from its active factors. -/
def accumulate (f64 : Bool) (depth : Nat) (fs : Nat → Option (FVal × FVal)) (old : Nat) : Accu :=
  let b := blocksOf depth fs
  let a : Accu := { v := old, nv := false, of := false }
  if f64 then accum64 b.flatten a else accum48 (b.map fun l => l.map fun p => mulVal p.1 p.2) a

/-- Writes entries of a tile: those that `on` admits, in rows 0 to rows - 1 and columns 0 to 127. -/
def writeEntries (t : Tile) (rows : Nat) (on : Nat → Nat → Bool) (new : Nat → Nat → Nat → Accu) : Tile :=
  let cells := ((List.range rows).map fun m => (List.range 128).filterMap fun j => if on m j then some (m, j) else none).flatten
  cells.foldl (fun t c =>
    let k := 128 * c.1 + c.2
    let r := new c.1 c.2 (sget 0 t.ent k).toNat
    { t with ent := sset 0 t.ent k (BitVec.ofNat 64 r.v), nv := t.nv || r.nv, of := t.of || r.of }) t

/-! ### MMA -/

/-- An accumulator tile. -/
def tileGet (c : Core) (a : BitVec 2) : Tile := c.a[a.toNat]'(a.isLt)

/-- Replaces a tile. -/
def tileSet (c : Core) (a : BitVec 2) (t : Tile) : Core := { c with a := c.a.set a.toNat t (a.isLt) }

/-- The mode of an MMA. -/
inductive MmaMode where
  | f | b | g
  deriving DecidableEq, Repr

/-- FLT types of R182. -/
def fltType : Ty → Bool
  | .f32 | .f16 | .bf16 => true
  | _ => false

/-- Rows, slice and chained type of the row-count register (R193). -/
structure RowCtl where
  m    : Nat
  ksel : Nat
  ct   : Nat
  rest : Nat
  deriving DecidableEq, Repr

/-- The row-count register. -/
def rowCtl (w : Word) : RowCtl :=
  { m := fld w.toNat 0 8 + 1, ct := fld w.toNat 8 4, ksel := fld w.toNat 12 3, rest := fld w.toNat 15 49 }

/-- The decode checks of MMA: fields that must be 0 in a mode (R192); those of R194 come at issue. -/
def mmaDecode (md : MmaMode) (o : MmaOp) : Res Unit :=
  let bad := match md with
    | .f => o.sb != 0 || (o.ch && o.sa.toNat % 4 != 0)
    | .b => o.sb != 0
    | .g => false
  if bad then raise .operand else .ok ()

/-- The pops of an MMA, in order. -/
def mmaPops (c : Core) (md : MmaMode) (o : MmaOp) (m : Nat) : List (BitVec 4 × Nat) :=
  match md with
  | .g => ((List.range m).map fun _ => [(o.sa, 128), (o.sb, 128)]).flatten
  | .f => if o.ch then [] else match c.wp with
    | some p => (List.range m).map fun _ => (o.sa, p.rowWidth p.kt)
    | none => []
  | .b => match c.wp with
    | some p => (List.range m).map fun _ => (o.sa, p.rowWidth 128)
    | none => []

/-- The operand rules of MMA in its issue cycle (R189, R192 to R194), those of CH outside mode F and of AD in mode G among them. -/
def mmaOk (s : State) (md : MmaMode) (o : MmaOp) : Bool :=
  let r := rowCtl (iget s.core.c o.im)
  r.rest == 0 && (o.ch || r.ct == 0) && (!o.ch || decide (md = .f)) && (o.ad == 0 || decide (md ≠ .g)) && match md with
    | .g =>
      let x := gdesc s.core o.sa
      let y := gdesc s.core o.sb
      let e8 (t : Ty) : Bool := decide (t = .e4m3) || decide (t = .e5m2)
      r.ksel == 0 && windowPop s o.sa && windowPop s o.sb && !x.mx && !y.mx
        && ((fltType x.ty && decide (x.ty = y.ty)) || (e8 x.ty && e8 y.ty))
    | _ =>
      match s.core.wp with
      | none => false
      | some p =>
        decide (r.m ≤ (if p.f64 then 64 else 128)) && (tileGet s.core o.ad).f64 == p.f64
          && (if md = .b then decide (r.ksel < max 1 (p.kt / 128)) else r.ksel == 0)
          && (if o.ch then
                let as := o.sa.extractLsb' 2 2
                p.kt == 128 && !p.mx && !p.f64 && decide (tyOf r.ct = p.ty) && !(tileGet s.core as).f64 && as != o.ad
              else windowPop s o.sa && p.admits (gdesc s.core o.sa))

/-- The issue-cycle checks of MMA. -/
def mmaEarly (md : MmaMode) (o : MmaOp) (s : State) : Res Unit :=
  if !mmaOk s md o then raise .operand
  else if (rowsPos s.core (mmaPops s.core md o (rowCtl (iget s.core.c o.im)).m)).isNone then raise .queueUnf
  else .ok ()

/-- The rounding context of a conversion out of the matrix engine, for entry (m, j) (R189, R195). -/
def drainCtx (s : State) (mode : RMode) (m j : Nat) : RCtx :=
  { mode, ftz := vfctlFtz s.core.vfctl, sat := vfctlSat s.core.vfctl
    draw := if mode = .srd then srdDraw (vfctlSeed s.core.vfctl) (fld (iget s.core.c 14).toNat 0 32)
        (((iget s.core.c 15).toNat + 128 * m + j) % 2 ^ 64) else 0 }

/-- Entry (m, j) of a tile, rounded to a format. -/
def drainEntry (s : State) (t : Tile) (k : FKind) (mode : RMode) (m j : Nat) : Nat × FFlags :=
  convert (.flt (if t.f64 then .f64 else .acc48)) (.flt k) (drainCtx s mode m j) (sget 0 t.ent (128 * m + j)).toNat

/-- The floating kind of a type. -/
def kindOf (t : Ty) : FKind :=
  match numOf t with
  | .flt k => k
  | _ => .f32

/-- The A rows of an F-mode word that takes them from a tile (R189): values and flags. -/
def chainRows (s : State) (t : Tile) (ty : Ty) (m : Nat) : List (List FVal) × FFlags :=
  let rows := (List.range m).map fun i => (List.range 128).map fun j =>
    drainEntry s t (kindOf ty) (rmodeOf (fld s.core.vfctl.toNat 0 3)) i j
  (rows.map fun r => r.map fun e => (kindOf ty).fmt.value e.1, unionFlags (rows.flatten.map (·.2)))

/-- Value k of row m. -/
def at2 (rows : List (List FVal)) (m k : Nat) : FVal := (((rows[m]?).getD [])[k]?).getD (.zero false)

/-- An MMA writes entry (m, j) of its tile, which it also accumulates into (R186). -/
def mmaWrites (c : Core) (md : MmaMode) (o : MmaOp) (r : RowCtl) (m j : Nat) : Bool :=
  (pget c o.pr).getLsbD m && (pget c o.pc).getLsbD j && match md with
    | .g => true
    | .f => decide (m < r.m)
    | .b => decide (m < r.m) && decide (128 * r.ksel + j < (c.wp.map Panel.kt).getD 0)

/-- The new core after the products of an MMA whose A rows (and dY rows in mode G) are given (R186). -/
def mmaApply (c : Core) (md : MmaMode) (o : MmaOp) (r : RowCtl) (x yv : List (List FVal)) : Core :=
  let pd := pget c o.pd
  match md, c.wp with
  | .g, _ =>
    { c with gp := writeEntries c.gp 128 (mmaWrites c md o r) fun k n =>
        accumulate false r.m fun i => if pd.getLsbD i then some (at2 x i k, at2 yv i n) else none }
  | _, none => c
  | .f, some p =>
    tileSet c o.ad (writeEntries (tileGet c o.ad) r.m (mmaWrites c md o r) fun m j =>
      accumulate p.f64 p.kt fun k =>
        if pd.getLsbD k && !sget false p.prune (1024 * j + k) then some (at2 x m k, p.value k j) else none)
  | .b, some p =>
    tileSet c o.ad (writeEntries (tileGet c o.ad) r.m (mmaWrites c md o r) fun m j =>
      accumulate p.f64 128 fun n =>
        let k := 128 * r.ksel + j
        if pd.getLsbD n && !sget false p.prune (1024 * n + k) then some (at2 x m n, p.value k n) else none)

/-- Every second row of a list. -/
def evens {α : Type} : List α → List α
  | a :: _ :: l => a :: evens l
  | l => l

/-- The body of an MMA. -/
def mmaBody (md : MmaMode) (o : MmaOp) (s : State) : Eng :=
  let r := rowCtl (iget s.core.c o.im)
  match popRows (mmaPops s.core md o r.m) s with
  | .error c => { s, err := some c }
  | .ok (s1, rows) =>
    if o.ch then
      let ty := tyOf r.ct
      let q := chainRows s (tileGet s.core (o.sa.extractLsb' 2 2)) ty r.m
      match arithCause q.2 (tenOf s.core.vfctl) with
      | some c =>
        { s := { s with core := { s.core with vfstat := s.core.vfstat ||| q.2.setWidth 64 } }
          err := some { cause := c, info := q.2.setWidth 64 } }
      | none => { s := { s with core := mmaApply s.core md o r q.1 [] }, flags := q.2 }
    else
      let p64 := md ≠ .g && ((s.core.wp.map (·.f64)).getD false)
      let vals (g : BitVec 4) (l : List Row) : List (List FVal) :=
        l.map (rowVals (gdesc s.core g).ty (gdesc s.core g).mx p64)
      let x := if md = .g then evens rows else rows
      let yv := if md = .g then evens rows.tail else []
      { s := { s1 with core := mmaApply s1.core md o r (vals o.sa x) (vals o.sb yv) } }

/-- MMA in a mode. -/
def mmaWord (i : Instr) (y : Sync) (md : MmaMode) (o : MmaOp) (s : State) : Out :=
  matrixWord i y (fun _ => mmaDecode md o) (mmaEarly md o) (mmaBody md o) s

/-- MMA.F. -/
def execMmaF (y : Sync) (o : MmaOp) (s : State) : Out := mmaWord (.mmaF y o) y .f o s
/-- MMA.B. -/
def execMmaB (y : Sync) (o : MmaOp) (s : State) : Out := mmaWord (.mmaB y o) y .b o s
/-- MMA.G. -/
def execMmaG (y : Sync) (o : MmaOp) (s : State) : Out := mmaWord (.mmaG y o) y .g o s

/-! ### MDRAIN, MZERO -/

/-- Free room of a result queue of the core in focus (R190); one that has been retired has none (R379, log entry 68). -/
def queueRoom (s : State) (n : BitVec 3) : Nat :=
  let r := qget s.core n
  if s.dev.sramOut.any fun o => o.1 == n.toNat + 1 && o.2.2 == s.core.gcore then 0
  else Config.queueVectors - (r.vecs.length + r.held + r.rsvd)

/-- Pushes vectors to a result queue. -/
def pushQueue (c : Core) (n : BitVec 3) (vs : List Nat) : Core :=
  let r := qget c n
  qsetReg c n { r with vecs := r.vecs ++ vs.map fun v => { data := BitVec.ofNat 4096 v, ue := none } }

/-- First row and row count of an MDRAIN. -/
def drainRows (s : State) (ir : BitVec 4) : Nat × Nat :=
  let w := (iget s.core.c ir).toNat
  (fld w 8 8, fld w 0 8 + 1)

/-- The issue-cycle checks of MDRAIN. -/
def drainEarly (o : DrainOp) (s : State) : Res Unit :=
  let r := drainRows s o.ir
  let t := tileGet s.core o.as
  if fld (iget s.core.c o.ir).toNat 16 48 != 0 || r.1 + r.2 > (if t.f64 then 64 else 128) then raise .operand
  else if queueRoom s o.q < r.2 * (if o.d64 then 2 else 1) then raise .queueOvf
  else .ok ()

/-- The body of MDRAIN (R195). -/
def drainBody (o : DrainOp) (s : State) : Eng :=
  let r := drainRows s o.ir
  let t := tileGet s.core o.as
  let k := if o.d64 then FKind.f64 else kindOf o.t
  let rows := (List.range r.2).map fun i => (List.range 128).map fun j =>
    drainEntry s t k (effMode o.rm s.core.vfctl) (r.1 + i) j
  let fl := unionFlags (rows.flatten.map (·.2)) ||| (if t.nv then fNV else 0) ||| (if t.of then fOF else 0)
  match arithCause fl (tenOf s.core.vfctl) with
  | some c =>
    { s := { s with core := { s.core with vfstat := s.core.vfstat ||| fl.setWidth 64 } }
      err := some { cause := c, info := fl.setWidth 64 } }
  | none =>
    let vecs := (rows.map fun row =>
      let v := row.map (·.1)
      if o.d64 then [vecOf 64 (v.take 64), vecOf 64 (v.drop 64)] else [vecOf (laneBits o.t) v]).flatten
    let core := pushQueue s.core o.q vecs
    let lo := 128 * r.1
    let hi := 128 * (r.1 + r.2)
    let core := if o.z then tileSet core o.as { t with ent := t.ent.filter fun e => e.1 < lo || hi ≤ e.1 } else core
    { s := { s with core }, flags := fl }

/-- MDRAIN (R195). -/
def execMdrain (y : Sync) (o : DrainOp) (s : State) : Out :=
  matrixWord (.mdrain y o) y
    (fun _ => if (if o.d64 then decide (o.t ≠ tyOf 0) else !type24 o.t) then raise .operand else .ok ())
    (drainEarly o) (drainBody o) s

/-- MZERO (R196). -/
def execMzero (y : Sync) (mask : BitVec 5) (f64 : Bool) (s : State) : Out :=
  matrixWord (.mzero y mask f64) y
    (fun _ => if mask = 0 || (f64 && mask.getLsbD 4) then raise .operand else .ok ())
    (fun _ => .ok ())
    (fun s =>
      let new : Tile := { Tile.init with f64 }
      let c := (List.range 4).foldl (fun c k => if mask.getLsbD k then tileSet c (BitVec.ofNat 2 k) new else c) s.core
      { s := { s with core := if mask.getLsbD 4 then { c with gp := Tile.init } else c } }) s

/-! ### Images (R197) -/

/-- A byte of a number. -/
def byteAt (n k : Nat) : Nat := n / 2 ^ (8 * k) % 256

/-- Byte k of a tile's image. -/
def tileByte (t : Tile) (k : Nat) : Nat :=
  if k == 0 then ofBit t.f64
  else if k == 1 then ofBit t.nv + 2 * ofBit t.of
  else if k < 512 then 0
  else
    let w := if t.f64 then 8 else 6
    let i := (k - 512) / w
    if i < (if t.f64 then 8192 else 16384) then byteAt (sget 0 t.ent i).toNat ((k - 512) % w) else 0

/-- Column n of a panel, packed as in memory (R95). -/
def columnBits (p : Panel) (n : Nat) : Nat :=
  vecOf (if p.f64 then 64 else elemBits p.ty) ((List.range p.kt).map fun k => (sget 0 p.elems (1024 * n + k)).toNat)

/-- Byte k of a panel's image. The manual gives no image of an empty panel and no scale bytes of a panel without MX: the
image is zero, and the scale bytes are those that the panel holds (zero after MWLD, kept by MREST): DESIGN CHOICE (log
entry 82). -/
def panelByte (wp : Option Panel) (k : Nat) : Nat :=
  match wp with
  | none => 0
  | some p =>
    if k == 0 then p.ty.code
    else if k == 1 then ofBit p.mx + 2 * ofBit p.f64 + 4 + 8 * ofBit p.sp
    else if k < 512 then 0
    else if k < 66048 then byteAt (columnBits p ((k - 512) / 512)) ((k - 512) % 512)
    else if k < 70144 then (sget 0 p.scales (k - 66048)).toNat
    else if k < 86528 then
      let n := (k - 70144) / 128
      let b := (k - 70144) % 128
      vecOf 1 ((List.range 8).map fun i => ofBit (sget false p.prune (1024 * n + 8 * b + i)))
    else 0

/-- The tile of an image. -/
def tileOfImage (gp : Bool) (b : Nat → Nat) : Tile :=
  let f64 := !gp && bit (b 0) 0
  let w := if f64 then 8 else 6
  { f64, nv := bit (b 1) 0, of := bit (b 1) 1
    ent := sfrom 0 0 ((List.range (if f64 then 8192 else 16384)).map fun i =>
      BitVec.ofNat 64 (vecOf 8 ((List.range w).map fun k => b (512 + w * i + k)))) }

/-- The panel of an image; none when its header names no row of R182 or the panel is not loaded. -/
def panelOfImage (b : Nat → Nat) : Option Panel :=
  let t := tyOf (fld (b 0) 0 4)
  let mx := bit (b 1) 0
  let f64 := bit (b 1) 1
  match (if bit (b 1) 2 then panelDepth t mx f64 else none) with
  | none => none
  | some kt =>
    let w := if f64 then 64 else elemBits t
    let col (n : Nat) : Nat := vecOf 8 ((List.range 512).map fun k => b (512 + 512 * n + k))
    some { ty := t, mx, f64, sp := bit (b 1) 3
           elems := ((List.range 128).map fun n => sfrom 0 (1024 * n)
             ((List.range kt).map fun k => BitVec.ofNat 64 (col n / 2 ^ (w * k) % 2 ^ w))).flatten
           scales := ((List.range 128).map fun n => sfrom 0 (32 * n)
             ((List.range (kt / 32)).map fun k => BitVec.ofNat 8 (b (66048 + 32 * n + k)))).flatten
           prune := ((List.range 128).map fun n => sfrom false (1024 * n)
             ((List.range kt).map fun k => bit (b (70144 + 128 * n + k / 8)) (k % 8))).flatten }

/-- Byte k of the image of a target. -/
def imageByte (c : Core) (t : MTgt) (k : Nat) : Nat :=
  match t with
  | .a0 => tileByte (tileGet c 0) k
  | .a1 => tileByte (tileGet c 1) k
  | .a2 => tileByte (tileGet c 2) k
  | .a3 => tileByte (tileGet c 3) k
  | .gp => tileByte c.gp k
  | .wp => panelByte c.wp k

/-- Puts an image into a target. -/
def putImage (c : Core) (t : MTgt) (b : Nat → Nat) : Core :=
  match t with
  | .a0 => tileSet c 0 (tileOfImage false b)
  | .a1 => tileSet c 1 (tileOfImage false b)
  | .a2 => tileSet c 2 (tileOfImage false b)
  | .a3 => tileSet c 3 (tileOfImage false b)
  | .gp => { c with gp := tileOfImage true b }
  | .wp => { c with wp := panelOfImage b }

/-- Vectors of an image. -/
def imageVecs : MTgt → Nat
  | .wp => 169
  | _ => 193

/-- Vector v of an image. -/
def imageVec (c : Core) (t : MTgt) (v : Nat) : Nat := vecOf 8 ((List.range 512).map fun k => imageByte c t (512 * v + k))

/-- Vectors still in a pass from its position, if it does not wrap. -/
def passLeft (r : StreamReg) : Nat := (descOf r.desc.toNat).vectors - r.pos

/-- The stream that an MSAVE or MREST names. -/
def imageStream (g : BitVec 7) : BitVec 4 := g.setWidth 4

/-- The decode check of the stream operand of MSAVE and MREST. -/
def imageDecode (g : BitVec 7) : Res Unit :=
  match opdOf g with
  | .g _ => .ok ()
  | _ => raise .operand

/-- The issue-cycle checks of MSAVE and MREST. -/
def imageEarly (push : Bool) (t : MTgt) (g : BitVec 7) (s : State) : Res Unit :=
  let r := gget s.core (imageStream g)
  let d := descOf r.desc.toNat
  if d.mem || d.push != push || decide (d.ty ≠ .n8) || d.mx then raise .operand
  else if !d.wrap && passLeft r < imageVecs t then raise (if push then .queueOvf else .queueUnf)
  else .ok ()

/-- Pushes image vectors in order; `whole` is what the word is to push. -/
def pushImage (c : Core) (t : MTgt) (g : BitVec 4) (whole : List Wr) : Nat → Nat → State → State × Option CauseRec
  | 0, _, s => (s, none)
  | n + 1, v, s =>
    let r := pushStream s g (imageVec c t v) (fun _ => true) [] whole
    match r.2 with
    | some e => (r.1, some e)
    | none => pushImage c t g whole n (v + 1) r.1

/-- Pops image vectors in order. -/
def popImage (g : BitVec 4) : Nat → State → Res (State × List Nat)
  | 0, s => .ok (s, [])
  | n + 1, s => do
    let (s, v, _) ← popStream s g
    let (s, vs) ← popImage g n s
    pure (s, v :: vs)

/-- MSAVE (R197). -/
def execMsave (y : Sync) (t : MTgt) (g : BitVec 7) (s : State) : Out :=
  matrixWord (.msave y t g) y (fun _ => imageDecode g) (imageEarly true t g)
    (fun s =>
      let g' := gget s.core (imageStream g)
      let whole := wordPlan (descOf g'.desc.toNat) [] g'.pos ((List.range (imageVecs t)).map fun v => (imageVec s.core t v, fun _ => true))
      let r := pushImage s.core t (imageStream g) whole (imageVecs t) 0 s
      match r.2 with
      | some c => { s := { r.1 with core := s.core }, err := some c }
      | none => { s := r.1 }) s

/-- MREST (R197). -/
def execMrest (y : Sync) (t : MTgt) (g : BitVec 7) (s : State) : Out :=
  matrixWord (.mrest y t g) y (fun _ => imageDecode g) (imageEarly false t g)
    (fun s =>
      match popImage (imageStream g) (imageVecs t) s with
      | .error c => { s, err := some c }
      | .ok (s1, vs) =>
        { s := { s1 with core := putImage s1.core t fun k => byteAt ((vs[k / 512]?).getD 0) (k % 512) } }) s

end Sys2Proof.Machine
end

