-- ==== Sys2Proof/Machine/Vector.lean ====
section
/-! DEFINITION. C's vector words: arithmetic (R134 to R136), logic and shifts (R137), compares and predicates (R138 to
R140), conversions and quantisation (R86 to R88, R141 to R143), moves (R144 to R147), reductions and scans (R148, R149),
sorting and routing (R150 to R152), random numbers (R153, R154) and the lane-flag words (R155 to R157). -/

namespace Sys2Proof

/-! ### Type classes (R121) -/

/-- INT. -/
def Ty.isInt : Ty → Bool
  | .i4 | .n4 | .i8 | .n8 | .i16 | .n16 | .i32 | .n32 | .i64 | .n64 => true
  | _ => false

/-- FLT, and F64 in the dedicated forms. -/
def Ty.isFlt : Ty → Bool
  | .f16 | .bf16 | .f32 | .f64 => true
  | _ => false

/-- F8. -/
def Ty.isF8 : Ty → Bool
  | .e4m3 | .e5m2 => true
  | _ => false

/-- Any floating type. -/
def Ty.isFloat (t : Ty) : Bool := !t.isInt

/-- Types of VADD and its kin (R134). -/
def Ty.arithOk (t : Ty) : Bool := t.isInt || t.isFlt

end Sys2Proof

namespace Sys2Proof.Machine

/-! ### Lanes -/

/-- The elements that the lanes of a vector hold: bits [7:6] of an FP6 lane are no part of it (R69). -/
def lanesOf (t : Ty) (v : Nat) : List Nat := (List.range (lanes t)).map fun i => v >>> (laneBits t * i) % 2 ^ elemBits t

/-- Lane i of a position that holds one vector. -/
def Src.lane (r : Src) (t : Ty) (i : Nat) : Nat := (r.vecs[0]?).getD 0 >>> (laneBits t * i) % 2 ^ elemBits t

/-- All lanes of a position that holds one vector. -/
def Src.lanes (r : Src) (t : Ty) : List Nat := lanesOf t ((r.vecs[0]?).getD 0)

/-- A vector of a type from its lanes. -/
def packLanes (t : Ty) (l : List Nat) : Nat := vecOf (laneBits t) l

/-- Position k of the sources that a word read. -/
def srcAt (rs : List Src) (k : Nat) : Src := (rs[k]?).getD { vecs := [], scales := [] }

/-- The result of a lane-by-lane word under a predicate (R119, R89): inactive lanes set no flag. -/
def laneRes (t : Ty) (record : Bool) (act : Nat → Bool) (rs : List (Nat × FFlags)) : VRes :=
  let fl := ((List.range rs.length).zip rs).map fun x => if act x.1 then x.2.2 else 0
  { vecs := [packLanes t (rs.map (·.1))], act := fun _ i => act i, flags := unionFlags fl
    lanes := if record then some fl else none }

/-- What a lane-by-lane word computes from its sources. -/
def laneBody (t : Ty) (record : Bool) (pg : BitVec 4) (op : State → List Nat → Nat × FFlags) (s : State) (rs : List Src) : VRes :=
  laneRes t record (pget s.core pg).getLsbD
    ((List.range (lanes t)).map fun k =>
      if (pget s.core pg).getLsbD k then op s (rs.map fun r => r.lane t k) else (0, 0))

/-- A lane-by-lane word of one type (R134): its positions in reading order, its rounding, whether it rewrites the
lane-flag record, and the result of a lane from the lanes of its sources. -/
def laneWord (i : Instr) (y : Sync) (ok rounds record : Bool) (t : Ty) (vd : BitVec 7) (srcs : List (BitVec 7))
    (pg : BitVec 4) (op : State → List Nat → Nat × FFlags) (s : State) : Out :=
  vecWord i y (fun s => do require ok s; if rounds then roundCheck s) (srcs.map fun c => { code := c, ty := t })
    (some { code := vd, ty := t }) (laneBody t record pg op) s

/-- The operation on a type: a floating one on values, rounded, or an integer one, wrapped. -/
def arith (t : Ty) (ff : RMode → List FVal → FRes) (fi : Nat → List Int → Int) (s : State) (xs : List Nat) : Nat × FFlags :=
  match numOf t with
  | .flt k => deliverRes k (vctx s) (ff (vctx s).mode (xs.map (k.read (vfctlFtz s.core.vfctl))))
  | .int sg w => (intPat w (fi w (xs.map (intOf sg w))), 0)

/-- An operation that selects one of its operands, and sets no flag (R136). -/
def choose (t : Ty) (ff : List FVal → FVal) (fi : List Int → Int) (s : State) (xs : List Nat) : Nat × FFlags :=
  match numOf t with
  | .flt k => ((deliver k { mode := .rne } (ff (xs.map (k.read (vfctlFtz s.core.vfctl))))).1, 0)
  | .int sg w => (intPat w (fi (xs.map (intOf sg w))), 0)

/-- Element k of an operand list. -/
def argI (xs : List Int) (k : Nat) : Int := (xs[k]?).getD 0

/-- Element k of an operand list. -/
def argF (xs : List FVal) (k : Nat) : FVal := (xs[k]?).getD (.zero false)

/-- Element k of an operand list. -/
def argN (xs : List Nat) (k : Nat) : Nat := (xs[k]?).getD 0

/-- A two-operand arithmetic word. -/
def arithWord (i : Instr) (y : Sync) (o : VOp) (ff : RMode → List FVal → FRes) (fi : Nat → List Int → Int) (s : State) : Out :=
  laneWord i y o.ty.arithOk o.ty.isFlt o.ty.isFlt o.ty o.vd [o.va, o.vb] o.pg (arith o.ty ff fi) s

/-- A destructive multiply-add word: vd is a register (R31). -/
def fmaWord (i : Instr) (y : Sync) (o : VOp) (negProd negC : Bool) (s : State) : Out :=
  laneWord i y (o.ty.arithOk && decide (o.vd.toNat < 64)) o.ty.isFlt o.ty.isFlt o.ty o.vd [o.va, o.vb, o.vd] o.pg
    (arith o.ty (fun m xs => fmaVal m negProd negC (argF xs 0) (argF xs 1) (argF xs 2))
      (fun _ xs => (if negProd then -1 else 1) * (argI xs 0 * argI xs 1) + (if negC then -1 else 1) * argI xs 2)) s

/-- A word without rounding or flags over the bits of its lanes. -/
def bitWord (i : Instr) (y : Sync) (ok : Bool) (t : Ty) (vd : BitVec 7) (srcs : List (BitVec 7)) (pg : BitVec 4)
    (op : List Nat → Nat) (s : State) : Out :=
  laneWord i y ok false false t vd srcs pg (fun _ xs => (op xs % 2 ^ elemBits t, 0)) s

/-- VADD (R134). -/
def execVadd (y : Sync) (o : VOp) (s : State) : Out :=
  arithWord (.vadd y o) y o (fun m xs => addVal m (argF xs 0) (argF xs 1)) (fun _ xs => argI xs 0 + argI xs 1) s

/-- Exact(a - b): a NaN keeps its own sign (R80). -/
def subVal (m : RMode) (a b : FVal) : FRes := addVal m a (if b.isNan then b else b.flip)

/-- VSUB (R134). -/
def execVsub (y : Sync) (o : VOp) (s : State) : Out :=
  arithWord (.vsub y o) y o (fun m xs => subVal m (argF xs 0) (argF xs 1)) (fun _ xs => argI xs 0 - argI xs 1) s

/-- VMUL (R134). -/
def execVmul (y : Sync) (o : VOp) (s : State) : Out :=
  arithWord (.vmul y o) y o (fun _ xs => mulVal (argF xs 0) (argF xs 1)) (fun _ xs => argI xs 0 * argI xs 1) s

/-- VFMA (R134). -/
def execVfma (y : Sync) (o : VOp) (s : State) : Out := fmaWord (.vfma y o) y o false false s

/-- VFMS (R134). -/
def execVfms (y : Sync) (o : VOp) (s : State) : Out := fmaWord (.vfms y o) y o false true s

/-- VFNMA (R134). -/
def execVfnma (y : Sync) (o : VOp) (s : State) : Out := fmaWord (.vfnma y o) y o true false s

/-- VMIN (R136). -/
def execVmin (y : Sync) (o : VOp) (s : State) : Out :=
  laneWord (.vmin y o) y o.ty.arithOk false false o.ty o.vd [o.va, o.vb] o.pg
    (choose o.ty (fun xs => minVal (argF xs 0) (argF xs 1)) (fun xs => min (argI xs 0) (argI xs 1))) s

/-- VMAX (R136). -/
def execVmax (y : Sync) (o : VOp) (s : State) : Out :=
  laneWord (.vmax y o) y o.ty.arithOk false false o.ty o.vd [o.va, o.vb] o.pg
    (choose o.ty (fun xs => maxVal (argF xs 0) (argF xs 1)) (fun xs => max (argI xs 0) (argI xs 1))) s

/-- VABS of a lane (R135): the sign bit cleared, or Wrap(|a|). -/
def absLane (t : Ty) (xs : List Nat) : Nat :=
  match numOf t with
  | .flt k => argN xs 0 % 2 ^ (k.fmt.w - 1)
  | .int sg w => intPat w ((intOf sg w (argN xs 0)).natAbs)

/-- VNEG of a lane (R135): the sign bit inverted, or Wrap(-a). -/
def negLane (t : Ty) (xs : List Nat) : Nat :=
  match numOf t with
  | .flt k => argN xs 0 ^^^ 2 ^ (k.fmt.w - 1)
  | .int sg w => intPat w (-(intOf sg w (argN xs 0)))

/-- VABS (R135). -/
def execVabs (y : Sync) (o : UOp) (s : State) : Out :=
  bitWord (.vabs y o) y o.ty.arithOk o.ty o.vd [o.va] o.pg (absLane o.ty) s

/-- VNEG (R135). -/
def execVneg (y : Sync) (o : UOp) (s : State) : Out :=
  bitWord (.vneg y o) y o.ty.arithOk o.ty o.vd [o.va] o.pg (negLane o.ty) s

/-- An integer operation of a lane. -/
def intLane (t : Ty) (f : Bool → Nat → Int → Int → Int) (xs : List Nat) : Nat :=
  match numOf t with
  | .flt _ => 0
  | .int sg w => intPat w (f sg w (intOf sg w (argN xs 0)) (intOf sg w (argN xs 1)))

/-- VSADD (R134). -/
def execVsadd (y : Sync) (o : VOp) (s : State) : Out :=
  bitWord (.vsadd y o) y o.ty.isInt o.ty o.vd [o.va, o.vb] o.pg (intLane o.ty fun sg w a b => intSat sg w (a + b)) s

/-- VSSUB (R134). -/
def execVssub (y : Sync) (o : VOp) (s : State) : Out :=
  bitWord (.vssub y o) y o.ty.isInt o.ty o.vd [o.va, o.vb] o.pg (intLane o.ty fun sg w a b => intSat sg w (a - b)) s

/-- VMULH (R134). -/
def execVmulh (y : Sync) (o : VOp) (s : State) : Out :=
  bitWord (.vmulh y o) y o.ty.isInt o.ty o.vd [o.va, o.vb] o.pg (intLane o.ty fun _ w a b => (a * b) / (2 ^ w : Int)) s

/-- min(max(c, a), b) with the NaN order va, vb, vd (R136). -/
def clampVal (xs : List FVal) : FVal :=
  (firstNan [argF xs 0, argF xs 1, argF xs 2]).getD (minVal (maxVal (argF xs 2) (argF xs 0)) (argF xs 1))

/-- VCLAMP (R136), destructive. -/
def execVclamp (y : Sync) (o : VOp) (s : State) : Out :=
  laneWord (.vclamp y o) y (o.ty.arithOk && decide (o.vd.toNat < 64)) false false o.ty o.vd [o.va, o.vb, o.vd] o.pg
    (choose o.ty clampVal (fun xs => min (max (argI xs 2) (argI xs 0)) (argI xs 1))) s

/-- VCPSGN (R135). -/
def execVcpsgn (y : Sync) (o : VOp) (s : State) : Out :=
  let h := 2 ^ (elemBits o.ty - 1)
  bitWord (.vcpsgn y o) y o.ty.isFlt o.ty o.vd [o.va, o.vb] o.pg (fun xs => argN xs 0 % h + argN xs 1 / h % 2 * h) s

/-! ### Logic, shifts, counts (R137) -/

/-- VAND. -/
def execVand (y : Sync) (o : VOp) (s : State) : Out :=
  bitWord (.vand y o) y true o.ty o.vd [o.va, o.vb] o.pg (fun xs => argN xs 0 &&& argN xs 1) s

/-- VOR. -/
def execVor (y : Sync) (o : VOp) (s : State) : Out :=
  bitWord (.vor y o) y true o.ty o.vd [o.va, o.vb] o.pg (fun xs => argN xs 0 ||| argN xs 1) s

/-- VXOR. -/
def execVxor (y : Sync) (o : VOp) (s : State) : Out :=
  bitWord (.vxor y o) y true o.ty o.vd [o.va, o.vb] o.pg (fun xs => argN xs 0 ^^^ argN xs 1) s

/-- VNOT. -/
def execVnot (y : Sync) (o : UOp) (s : State) : Out :=
  bitWord (.vnot y o) y true o.ty o.vd [o.va] o.pg
    (fun xs => argN xs 0 % 2 ^ elemBits o.ty ^^^ (2 ^ elemBits o.ty - 1)) s

/-- VSLL. -/
def execVsll (y : Sync) (o : VOp) (s : State) : Out :=
  bitWord (.vsll y o) y o.ty.isInt o.ty o.vd [o.va, o.vb] o.pg
    (fun xs => argN xs 0 * 2 ^ (argN xs 1 % elemBits o.ty)) s

/-- VSRL. -/
def execVsrl (y : Sync) (o : VOp) (s : State) : Out :=
  bitWord (.vsrl y o) y o.ty.isInt o.ty o.vd [o.va, o.vb] o.pg
    (fun xs => argN xs 0 / 2 ^ (argN xs 1 % elemBits o.ty)) s

/-- VSRA: fills with bit w - 1 for I and N types alike. -/
def execVsra (y : Sync) (o : VOp) (s : State) : Out :=
  let w := elemBits o.ty
  bitWord (.vsra y o) y o.ty.isInt o.ty o.vd [o.va, o.vb] o.pg
    (fun xs => intPat w (intOf true w (argN xs 0) / (2 ^ (argN xs 1 % w) : Int))) s

/-- Number of one bits among the lowest w. -/
def popcount (w n : Nat) : Nat := ((List.range w).filter fun k => bit n k).length

/-- VPOPC. -/
def execVpopc (y : Sync) (o : UOp) (s : State) : Out :=
  bitWord (.vpopc y o) y o.ty.isInt o.ty o.vd [o.va] o.pg (fun xs => popcount (elemBits o.ty) (argN xs 0)) s

/-! ### Compares and predicates (R138 to R140) -/

/-- The conditions of a vector compare. -/
inductive VCond where
  | eq | ne | lt | le | un
  deriving DecidableEq, Repr

/-- The truth of a condition of two lanes (R138). -/
def cmpLane (t : Ty) (cc : VCond) (s : State) (a b : Nat) : Bool :=
  match numOf t with
  | .flt k =>
    let x := k.read (vfctlFtz s.core.vfctl) a
    let z := k.read (vfctlFtz s.core.vfctl) b
    match cc with
    | .eq => eqVal x z
    | .ne => !eqVal x z
    | .lt => ltVal x z
    | .le => ltVal x z || eqVal x z
    | .un => x.isNan || z.isNan
  | .int sg w =>
    let x := intOf sg w a
    let z := intOf sg w b
    match cc with
    | .eq => decide (x = z)
    | .ne => decide (x ≠ z)
    | .lt => decide (x < z)
    | .le => decide (x ≤ z)
    | .un => false

/-- A compare (R138): bits of inactive lanes and beyond E are 0. -/
def cmpWord (i : Instr) (y : Sync) (ok : Bool) (t : Ty) (pd : BitVec 4) (va vb : BitVec 7) (pg : BitVec 4) (cc : VCond)
    (s : State) : Out :=
  vecWord i y (require (ok && pd != 0)) [{ code := va, ty := t }, { code := vb, ty := t }] none
    (fun s rs =>
      { pred := some (pd, predOf ((List.range (lanes t)).map fun k =>
          (pget s.core pg).getLsbD k && cmpLane t cc s ((srcAt rs 0).lane t k) ((srcAt rs 1).lane t k))) }) s

/-- VCMPEQ. -/
def execVcmpeq (y : Sync) (o : COp) (s : State) : Out := cmpWord (.vcmpeq y o) y true o.ty o.pd o.va o.vb o.pg .eq s
/-- VCMPNE. -/
def execVcmpne (y : Sync) (o : COp) (s : State) : Out := cmpWord (.vcmpne y o) y true o.ty o.pd o.va o.vb o.pg .ne s
/-- VCMPLT. -/
def execVcmplt (y : Sync) (o : COp) (s : State) : Out := cmpWord (.vcmplt y o) y true o.ty o.pd o.va o.vb o.pg .lt s
/-- VCMPLE. -/
def execVcmple (y : Sync) (o : COp) (s : State) : Out := cmpWord (.vcmple y o) y true o.ty o.pd o.va o.vb o.pg .le s
/-- VCMPUN: floating types only. -/
def execVcmpun (y : Sync) (o : COp) (s : State) : Out :=
  cmpWord (.vcmpun y o) y o.ty.isFloat o.ty o.pd o.va o.vb o.pg .un s

/-- A word over whole predicates (R139). -/
def predWord (i : Instr) (y : Sync) (pd : BitVec 4) (f : State → Pred) (s : State) : Out :=
  vecWord i y (require (pd != 0)) [] none (fun s _ => { pred := some (pd, f s) }) s

/-- PAND. -/
def execPand (y : Sync) (pd pa pb : BitVec 4) (s : State) : Out :=
  predWord (.pand y pd pa pb) y pd (fun s => pget s.core pa &&& pget s.core pb) s
/-- POR. -/
def execPor (y : Sync) (pd pa pb : BitVec 4) (s : State) : Out :=
  predWord (.por y pd pa pb) y pd (fun s => pget s.core pa ||| pget s.core pb) s
/-- PXOR. -/
def execPxor (y : Sync) (pd pa pb : BitVec 4) (s : State) : Out :=
  predWord (.pxor y pd pa pb) y pd (fun s => pget s.core pa ^^^ pget s.core pb) s
/-- PNOT. -/
def execPnot (y : Sync) (pd pa : BitVec 4) (s : State) : Out :=
  predWord (.pnot y pd pa) y pd (fun s => ~~~pget s.core pa) s

/-- PSET (R140). -/
def execPset (y : Sync) (t : Ty) (pd i : BitVec 4) (s : State) : Out :=
  predWord (.pset y t pd i) y pd (fun s => BitVec.ofNat 1024 (2 ^ min (iget s.core.c i).toNat (lanes t) - 1)) s

/-- A word that counts over predicates into an index register (R140). -/
def countWord (i : Instr) (y : Sync) (t : Ty) (id pa pg : BitVec 4) (f : List Bool → Nat) (s : State) : Out :=
  vecWord i y (fun _ => .ok ()) [] none
    (fun s _ =>
      let both := pget s.core pa &&& pget s.core pg
      { idx := some (id, BitVec.ofNat 64 (f ((List.range (lanes t)).map both.getLsbD))) }) s

/-- PCNT. -/
def execPcnt (y : Sync) (t : Ty) (id pa pg : BitVec 4) (s : State) : Out :=
  countWord (.pcnt y t id pa pg) y t id pa pg (fun l => l.count true) s
/-- PFIRST. -/
def execPfirst (y : Sync) (t : Ty) (id pa pg : BitVec 4) (s : State) : Out :=
  countWord (.pfirst y t id pa pg) y t id pa pg (fun l => l.findIdx id') s
where id' (b : Bool) : Bool := b

/-! ### Conversions (R86 to R88, R141 to R143) -/

/-- The rounding context of a conversion for an element (R142). -/
def cvtCtx (s : State) (rm : RmSel) (e : Nat) : RCtx :=
  let mode := effMode rm s.core.vfctl
  let draw := if mode = .srd then
      srdDraw (vfctlSeed s.core.vfctl) ((iget s.core.c 14).toNat % 2 ^ 32) (((iget s.core.c 15).toNat + e) % 2 ^ 64)
    else 0
  { mode, ftz := vfctlFtz s.core.vfctl, sat := vfctlSat s.core.vfctl, draw }

/-- A value rounded into a type (R86, R88). -/
def intoNum (d : Num) (c : RCtx) (v : FVal) : Nat × FFlags :=
  match d with
  | .flt k => deliver k c v
  | .int sg w =>
    match v with
    | .nan _ => (0, fNV)
    | .inf neg => (intPat w (if neg then intMin sg w else intMax sg w), fNV)
    | .num neg m x => if m == 0 then (0, 0) else toInt sg w c neg m x

/-- Element e of a group of r registers, and the scale of its block (R123). -/
def groupElem (r : Nat) (t : Ty) (src : Src) (e : Nat) : Nat × Option Byte :=
  let v := (src.vecs[e % r]?).getD 0
  let l := e / r
  (v >>> (laneBits t * l) % 2 ^ laneBits t, (src.scales[e % r]?).bind fun sc => sc[l / 32]?)

/-- The vectors of a group of r registers from n elements. -/
def groupVecs (r : Nat) (t : Ty) (es : List Nat) : List Nat :=
  (List.range r).map fun j => packLanes t ((List.range (es.length / r)).map fun l => argN es (l * r + j))

/-- Widening and narrowing ratios of a conversion: registers of the source group and of the destination group; none for a
ratio of 8 or 16 (R123). -/
def ratioOf (dst src : Ty) : Option (Nat × Nat) :=
  let d := laneBits dst
  let b := laneBits src
  if d ≥ b then (if d / b ≤ 4 then some (1, d / b) else none) else if b / d ≤ 4 then some (b / d, 1) else none

/-- A conversion word between two types (R123, R141, R159) of `run` elements: predicate bit e governs element e, and those beyond
are no elements of the word. -/
def convWord (i : Instr) (y : Sync) (dst src : Ty) (mx : Bool) (run : Nat) (vd va : BitVec 7) (rm : RmSel) (pg : BitVec 4)
    (s : State) : Out :=
  let r := (ratioOf dst src).getD (1, 1)
  let n := max (lanes dst) (lanes src)
  vecWord i y (require (ratioOf dst src).isSome) [{ code := va, w := r.1, ty := src, mx }] (some { code := vd, w := r.2, ty := dst })
    (fun s rs =>
      let on (e : Nat) : Bool := decide (e < run) && (pget s.core pg).getLsbD e
      let res := (List.range n).map fun e =>
        let x := groupElem r.1 src (srcAt rs 0) e
        let c := cvtCtx s rm e
        match x.2 with
        | none => convert (numOf src) (numOf dst) c x.1
        | some sc => intoNum (numOf dst) c (scaled src (some sc) x.1)
      let fl := ((List.range n).zip res).map fun z => if on z.1 then z.2.2 else 0
      { vecs := groupVecs r.2 dst (res.map (·.1)), act := fun j l => on (l * r.2 + j)
        flags := unionFlags fl, lanes := some fl }) s

/-- VCVT (R141). -/
def execVcvt (y : Sync) (o : CvtOp) (s : State) : Out := convWord (.vcvt y o) y o.d o.s true (max (lanes o.d) (lanes o.s)) o.vd o.va o.rm o.pg s

/-- EMAX of an element type of MX. -/
def mxEmax (t : Ty) : Int :=
  match numOf t with
  | .flt k => k.fmt.emax
  | .int _ _ => 0

/-- Largest floor(log2 |x|) over the finite nonzero values of a block. -/
def topExp : List FVal → Option Int
  | [] => none
  | .num _ m x :: vs =>
    if m == 0 then topExp vs
    else
      let e := (Nat.log2 m : Int) + x
      match topExp vs with
      | some e' => some (max e e')
      | none => some e
  | _ :: vs => topExp vs

/-- One element of a block, already scaled (R87): clamped to the largest code with NX, else rounded once. -/
def quantElem (t : Ty) (c : RCtx) (v : FVal) : Nat × FFlags :=
  match numOf t, v with
  | .flt k, .num neg m x =>
    if m == 0 then (k.fmt.sign neg, 0)
    else
      let q := (Nat.log2 m : Int) + x - k.fmt.fb
      if magGt (roundAt c neg m x q).1 q k.fmt.maxSig (k.fmt.emax - k.fmt.fb) then (k.fmt.largest neg, fNX)
      else roundNum k c neg m x
  | .flt k, .inf neg => (k.fmt.overflow c neg, fOF ||| fNX)
  | .int _ w, .num neg m x =>
    if m == 0 then (0, 0)
    else
      let r := roundAt c neg m x (-6)
      if r.1 > 127 then (intPat w (if neg then -127 else 127), fNX)
      else (intPat w (if neg then -(r.1 : Int) else r.1), if r.2 then fNX else 0)
  | _, _ => (0, 0)

/-- One block quantised (R87): its scale, codes and flags. `cs` are the rounding contexts of its elements. -/
def quantBlock (t : Ty) (xs : List FVal) (cs : List RCtx) : Byte × List (Nat × FFlags) :=
  let narrow := match numOf t with | .flt k => decide (k.fmt.sp = .none) | .int .. => true
  if xs.any FVal.isNan || (narrow && xs.any FVal.isInf) then (0xFF, xs.map fun _ => (0, fNV))
  else
    let e := match topExp xs with
      | some e => e - mxEmax t
      | none => -127
    let e := max (-127) (min 127 e)
    (BitVec.ofInt 8 (e + 127), (xs.zip cs).map fun p =>
      quantElem t p.2 (match p.1 with | .num n m x => .num n m (x - e) | v => v))

/-- Element types of an MX block (R143). -/
def quantType (t : Ty) : Bool := mxType t

/-- All blocks of the narrowed elements. -/
def quantAll (t : Ty) (xs : List FVal) (cs : List RCtx) : List (Byte × List (Nat × FFlags)) :=
  (List.range (xs.length / 32)).map fun b => quantBlock t ((xs.drop (32 * b)).take 32) ((cs.drop (32 * b)).take 32)

/-- The old bytes of the scale register under the new ones (R143). -/
def mergeScales (old : Nat) (scales : List Byte) (act : Nat → Bool) : Nat :=
  vecOf 8 ((List.range scales.length).map fun b => if act b then ((scales[b]?).getD 0).toNat else old / 2 ^ (8 * b) % 2 ^ 8)

/-- What VQUANT computes. -/
def quantRes (o : CvtOp) (r : Nat) (s : State) (rs : List Src) : VRes :=
  let p := pget s.core o.pg
  let n := lanes o.d
  let k := match numOf o.s with | .flt k => k | .int .. => .f32
  let xs := (List.range n).map fun e => k.read (vfctlFtz s.core.vfctl) (groupElem r o.s (srcAt rs 0) e).1
  let bl := quantAll o.d xs ((List.range n).map (cvtCtx s o.rm))
  let act (l : Nat) : Bool := p.getLsbD (l / 32 * 32)
  let cells := (bl.map (·.2)).flatten
  let fl := ((List.range n).zip cells).map fun z => if act z.1 then z.2.2 else 0
  let codes := packLanes o.d (cells.map (·.1))
  let scales := bl.map (·.1)
  match opdOf o.vd with
  | .v m =>
    { vecs := [codes, mergeScales (vget s.core (m + 1)) scales fun b => p.getLsbD (32 * b)]
      act := fun j l => j == 1 || act l, flags := unionFlags fl, lanes := some fl }
  | _ => { vecs := [codes], act := fun _ l => act l, scales, flags := unionFlags fl, lanes := some fl }

/-- VQUANT (R143): into a register group of 2, codes then scales, or into an MX push stream. -/
def execVquant (y : Sync) (o : CvtOp) (s : State) : Out :=
  let r := ((ratioOf o.d o.s).getD (1, 1)).1
  let src : Spec := { code := o.va, w := r, ty := o.s }
  let dst : Spec := { code := o.vd, w := 2, ty := o.d, mx := true }
  let ok := quantType o.d && o.s.isFlt && (match ratioOf o.d o.s with | some q => q.2 == 1 | none => false)
  issueWord (.vquant y o) y { c := true } (specsDecode (require ok) [src] (some dst)) (fun s _ => specsReady s [src])
    (fun s u => do
      specsEarly [src] (some dst) s u
      match opdOf o.vd with
      | .g g => require (gdesc s.core g).mx s
      | _ => pure ())
    (fun s _ _ => vecBody [src] (some dst) (quantRes o r) s) s

/-! ### Moves (R144 to R147) -/

/-- VMOV. -/
def execVmov (y : Sync) (o : UOp) (s : State) : Out :=
  laneWord (.vmov y o) y true false false o.ty o.vd [o.va] o.pg (fun _ xs => (argN xs 0, 0)) s

/-- A word that builds its one destination vector from whole sources, under an activity mask. -/
def shapeWord (i : Instr) (y : Sync) (ok : Bool) (t : Ty) (vd : BitVec 7) (srcs : List Spec)
    (f : State → List Src → List Nat) (act : State → Nat → Bool) (s : State) : Out :=
  vecWord i y (require ok) srcs (some { code := vd, ty := t })
    (fun s rs => { vecs := [packLanes t (f s rs)], act := fun _ l => act s l }) s

/-- Every lane is written. -/
def allLanes (_ : State) (_ : Nat) : Bool := true

/-- VBCAST (R144). -/
def execVbcast (y : Sync) (o : UOp) (ib : BitVec 4) (s : State) : Out :=
  shapeWord (.vbcast y o ib) y true o.ty o.vd [{ code := o.va, ty := o.ty }]
    (fun s rs => List.replicate (lanes o.ty) ((srcAt rs 0).lane o.ty ((iget s.core.c ib).toNat % lanes o.ty)))
    (fun s => (pget s.core o.pg).getLsbD) s

/-- VPERM (R145): indices are N16 lanes of a register group. -/
def execVperm (y : Sync) (o : VOp) (s : State) : Out :=
  let e := lanes o.ty
  shapeWord (.vperm y o) y (decide (o.vb.toNat < 64)) o.ty o.vd
    [{ code := o.va, ty := o.ty }, { code := o.vb, w := max 1 (e / 256), ty := .n16 }]
    (fun _ rs => (List.range e).map fun j =>
      (srcAt rs 0).lane o.ty (argN (srcAt rs 1).vecs (j / 256) >>> (16 * (j % 256)) % 2 ^ 16 % e))
    (fun s => (pget s.core o.pg).getLsbD) s

/-- VSLIDE (R146): bits [3:0] name an index register. -/
def execVslide (y : Sync) (o : VOp) (s : State) : Out :=
  let e := lanes o.ty
  shapeWord (.vslide y o) y true o.ty o.vd [{ code := o.va, ty := o.ty }, { code := o.vb, ty := o.ty }]
    (fun s rs =>
      let k := (iget s.core.c o.pg).toNat % e
      (((srcAt rs 0).lanes o.ty).drop k ++ ((srcAt rs 1).lanes o.ty).take k))
    allLanes s

/-- VSEL (R147). -/
def execVsel (y : Sync) (o : VOp) (s : State) : Out :=
  shapeWord (.vsel y o) y true o.ty o.vd [{ code := o.va, ty := o.ty }, { code := o.vb, ty := o.ty }]
    (fun s rs => (List.range (lanes o.ty)).map fun k =>
      if (pget s.core o.pg).getLsbD k then (srcAt rs 0).lane o.ty k else (srcAt rs 1).lane o.ty k)
    allLanes s

/-! ### Reductions and scans (R148, R149) -/

/-- A running exact sum: the lowest-indexed NaN, whether an infinity of each sign was met, and the sum of the rest. -/
structure Sum where
  nan : Option Bool := none
  pos : Bool := false
  neg : Bool := false
  num : Option FVal := none
  deriving DecidableEq, Repr

/-- One more lane. -/
def Sum.add (m : RMode) (a : Sum) (v : FVal) : Sum :=
  match v with
  | .nan n => { a with nan := some (a.nan.getD n) }
  | .inf n => if n then { a with neg := true } else { a with pos := true }
  | .num .. => { a with num := some (match a.num with | some w => (addVal m w v).val | none => v) }

/-- The sum (R148): infinities of both signs set NV, also beside a NaN (R80). -/
def Sum.value (a : Sum) : FRes :=
  match a.nan with
  | some n => ⟨.nan n, if a.pos && a.neg then fNV else 0⟩
  | none =>
    if a.pos && a.neg then ⟨.nan false, fNV⟩
    else if a.pos then ⟨.inf false, 0⟩
    else if a.neg then ⟨.inf true, 0⟩
    else ⟨a.num.getD (.zero false), 0⟩

/-- The lanes that a predicate selects, with their numbers. -/
def activeLanes (p : Pred) (l : List Nat) : List (Nat × Nat) := ((List.range l.length).zip l).filter fun x => p.getLsbD x.1

/-- The VREDSUM result over values of a type: pattern and flags. -/
def sumOf (t : Ty) (s : State) (l : List Nat) : Nat × FFlags :=
  match numOf t with
  | .flt k =>
    let c := vctx s
    deliverRes k c (l.foldl (fun a x => a.add c.mode (k.read c.ftz x)) ({} : Sum)).value
  | .int sg w => (intPat w ((l.map (intOf sg w)).sum), 0)

/-- VREDMAX or VREDMIN over values of a type (R136, R148). -/
def extremeOf (isMax : Bool) (t : Ty) (s : State) (l : List Nat) : Nat :=
  match numOf t with
  | .flt k =>
    let vs := l.map (k.read (vfctlFtz s.core.vfctl))
    let pick : FVal → FVal → FVal := if isMax then maxVal else minVal
    (deliver k { mode := .rne } ((firstNan vs).getD (vs.foldl pick (.inf isMax)))).1
  | .int sg w =>
    let vs := l.map (intOf sg w)
    intPat w (if isMax then vs.foldl max (intMin sg w) else vs.foldl min (intMax sg w))

/-- What a reduction computes: one result in every lane; its flags stand in entry 0 of the record (R148, R155). -/
def redBody (t : Ty) (record : Bool) (pg : BitVec 4) (f : State → List Nat → Nat × FFlags) (s : State) (rs : List Src) : VRes :=
  let r := f s ((activeLanes (pget s.core pg) ((srcAt rs 0).lanes t)).map (·.2))
  { vecs := [splat t r.1], flags := r.2, lanes := if record then some [r.2] else none }

/-- A reduction (R148). -/
def redWord (i : Instr) (y : Sync) (t : Ty) (rounds record : Bool) (vd va : BitVec 7) (pg : BitVec 4)
    (f : State → List Nat → Nat × FFlags) (s : State) : Out :=
  vecWord i y (fun s => do require t.arithOk s; if rounds then roundCheck s) [{ code := va, ty := t }] (some { code := vd, ty := t })
    (redBody t record pg f) s

/-- VREDSUM. -/
def execVredsum (y : Sync) (o : UOp) (s : State) : Out :=
  redWord (.vredsum y o) y o.ty o.ty.isFlt true o.vd o.va o.pg (sumOf o.ty) s

/-- VREDMAX. -/
def execVredmax (y : Sync) (o : UOp) (s : State) : Out :=
  redWord (.vredmax y o) y o.ty false false o.vd o.va o.pg (fun s l => (extremeOf true o.ty s l, 0)) s

/-- VREDMIN. -/
def execVredmin (y : Sync) (o : UOp) (s : State) : Out :=
  redWord (.vredmin y o) y o.ty false false o.vd o.va o.pg (fun s l => (extremeOf false o.ty s l, 0)) s

/-- The prefix sums of floating lanes: (active, value) to pattern and flags (R149). -/
def scanFlt (k : FKind) (c : RCtx) : Sum → List (Bool × FVal) → List (Nat × FFlags)
  | _, [] => []
  | a, (on, v) :: l =>
    let a := if on then a.add c.mode v else a
    let r := deliverRes k c a.value
    (r.1, if on then r.2 else 0) :: scanFlt k c a l

/-- The prefix sums of integer lanes. -/
def scanInt (w : Nat) : Int → List (Bool × Int) → List (Nat × FFlags)
  | _, [] => []
  | a, (on, v) :: l =>
    let a := if on then a + v else a
    (intPat w a, 0) :: scanInt w a l

/-- A scan of a type (R149): every lane is written. -/
def scanWord (i : Instr) (y : Sync) (t : Ty) (vd va : BitVec 7) (pg : BitVec 4) (s : State) : Out :=
  vecWord i y (fun s => do require t.arithOk s; if t.isFlt then roundCheck s) [{ code := va, ty := t }] (some { code := vd, ty := t })
    (fun s rs =>
      let l := (srcAt rs 0).lanes t
      let on := (List.range l.length).map (pget s.core pg).getLsbD
      let r := match numOf t with
        | .flt k => scanFlt k (vctx s) {} (on.zip (l.map (k.read (vfctlFtz s.core.vfctl))))
        | .int sg w => scanInt w 0 (on.zip (l.map (intOf sg w)))
      { vecs := [packLanes t (r.map (·.1))], flags := unionFlags (r.map (·.2)), lanes := some (r.map (·.2)) }) s

/-- VSCAN. -/
def execVscan (y : Sync) (o : UOp) (s : State) : Out := scanWord (.vscan y o) y o.ty o.vd o.va o.pg s

/-! ### Sorting, selection and routing (R150 to R152) -/

/-- The rank of a key (R150): sign and magnitude of a float's bits, the value of an integer. -/
def sortKey (t : Ty) (x : Nat) : Int :=
  match numOf t with
  | .int sg w => intOf sg w x
  | .flt k =>
    let h := 2 ^ (k.fmt.w - 1)
    if x % (2 * h) ≥ h then -((x % h : Nat) : Int) - 1 else (x % h : Nat)

/-- Puts a pair before the first one that it does not follow; equal keys keep the order of insertion from the back. -/
def insertPair (before : Int → Int → Bool) (p : Int × Nat × Nat) : List (Int × Nat × Nat) → List (Int × Nat × Nat)
  | [] => [p]
  | q :: l => if before p.1 q.1 then p :: q :: l else q :: insertPair before p l

/-- Stable sort of pairs by key. -/
def sortPairs (before : Int → Int → Bool) (l : List (Int × Nat × Nat)) : List (Int × Nat × Nat) :=
  l.foldr (insertPair before) []

/-- Types of VSORT and VTOPK (R150). -/
def sortType : Ty → Bool
  | .i4 | .n4 | .e3m2 | .e2m3 | .e2m1 | .f64 | .i64 | .n64 => false
  | _ => true

/-- A list filled up with zeros to n entries. -/
def padTo (n : Nat) (l : List Nat) : List Nat := l ++ List.replicate (n - l.length) 0

/-- VSORT or VTOPK: keys into vd, payloads into vd + 1, all lanes written. -/
def sortWord (i : Instr) (y : Sync) (o : VOp) (f : State → List (Int × Nat × Nat) → List (Int × Nat × Nat)) (s : State) : Out :=
  vecWord i y (require (sortType o.ty && decide (o.vd.toNat < 64)))
    [{ code := o.va, ty := o.ty }, { code := o.vb, ty := o.ty }] (some { code := o.vd, w := 2, ty := o.ty })
    (fun s rs =>
      let n := lanes o.ty
      let ps := (((srcAt rs 0).lanes o.ty).zip ((srcAt rs 1).lanes o.ty)).map fun x => (sortKey o.ty x.1, x.1, x.2)
      let r := f s ps
      { vecs := [packLanes o.ty (padTo n (r.map (·.2.1))), packLanes o.ty (padTo n (r.map (·.2.2)))] }) s

/-- VSORT. -/
def execVsort (y : Sync) (o : VOp) (s : State) : Out :=
  sortWord (.vsort y o) y o
    (fun s ps =>
      let p := pget s.core o.pg
      sortPairs (fun a b => decide (a ≤ b)) (((List.range ps.length).zip ps).filterMap fun x =>
        if p.getLsbD x.1 then some x.2 else none)) s

/-- VTOPK: bits [3:0] name an index register. -/
def execVtopk (y : Sync) (o : VOp) (s : State) : Out :=
  sortWord (.vtopk y o) y o
    (fun s ps => (sortPairs (fun a b => decide (a ≥ b)) ps).take (min (iget s.core.c o.pg).toNat (lanes o.ty))) s

/-- VCOMPACT (R151). -/
def execVcompact (y : Sync) (o : UOp) (s : State) : Out :=
  shapeWord (.vcompact y o) y true o.ty o.vd [{ code := o.va, ty := o.ty }]
    (fun s rs => padTo (lanes o.ty) ((activeLanes (pget s.core o.pg) ((srcAt rs 0).lanes o.ty)).map (·.2))) allLanes s

/-- VIOTA (R151). -/
def execViota (y : Sync) (t : Ty) (vd : BitVec 7) (ib pg : BitVec 4) (s : State) : Out :=
  shapeWord (.viota y t vd ib pg) y t.isInt t vd []
    (fun s _ => (List.range (lanes t)).map fun k => (iget s.core.c ib).toNat + k) (fun s => (pget s.core pg).getLsbD) s

/-- Slots of the lanes of VROUTE: none for a lane that is not routed or is dropped, with its bit of pd (R152). -/
def routeLanes (none' cap : Nat) : SMap Nat → List Nat → List (Nat × Bool)
  | _, [] => []
  | used, x :: l =>
    if x == none' then (none', false) :: routeLanes none' cap used l
    else
      let n := sget 0 used x
      (if n < cap then (n, false) else (none', true)) :: routeLanes none' cap (sset 0 used x (n + 1)) l

/-- VROUTE (R152). -/
def execVroute (y : Sync) (t : Ty) (vd va : BitVec 7) (ic pd : BitVec 4) (s : State) : Out :=
  vecWord (.vroute y t vd va ic pd) y (require ((t == .n16 || t == .n32) && pd != 0)) [{ code := va, ty := t }]
    (some { code := vd, ty := t })
    (fun s rs =>
      let r := routeLanes (2 ^ laneBits t - 1) (iget s.core.c ic).toNat [] ((srcAt rs 0).lanes t)
      { vecs := [packLanes t (r.map (·.1))], pred := some (pd, predOf (r.map (·.2))) }) s

/-- The four words of a Philox draw as a list. -/
def philoxWords (k t : Nat) : List Nat :=
  let r := philox k (k / 2 ^ 32) t (t / 2 ^ 32) 0 0
  [r.1, r.2.1, r.2.2.1, r.2.2.2]

/-- (w >> 8) × 2^-24 in F32 (R154). -/
def unitF32 (w : Nat) : Nat := (deliver .f32 { mode := .rne } (.num false (w / 256) (-24))).1

/-- VRAND (R154). -/
def execVrand (y : Sync) (t : Ty) (vd : BitVec 7) (ik ic pg : BitVec 4) (s : State) : Out :=
  shapeWord (.vrand y t vd ik ic pg) y (t == .n32 || t == .f32) t vd []
    (fun s _ =>
      let k := (iget s.core.c ik).toNat
      let c := (iget s.core.c ic).toNat
      (((List.range 32).map fun j => philoxWords k ((c + j) % 2 ^ 64)).flatten).map
        fun w => if t == .f32 then unitF32 w else w)
    (fun s => (pget s.core pg).getLsbD) s

/-! ### Lane flags and checks (R156, R157) -/

/-- The flags that a selector of VFLG tests. -/
def selMask : FlagSel → FFlags
  | .nx => fNX | .uf => fUF | .of => fOF | .dz => fDZ | .nv => fNV | .any => 0b11111

/-- VFLG. -/
def execVflg (y : Sync) (pd : BitVec 4) (sel : FlagSel) (pg : BitVec 4) (s : State) : Out :=
  predWord (.vflg y pd sel pg) y pd
    (fun s => predOf ((List.range 1024).map fun k => laneFlag s.core k &&& selMask sel != 0) &&& pget s.core pg) s

/-- VCHK: active lanes that hold NaN or an infinity, and their number. -/
def execVchk (y : Sync) (t : Ty) (pd : BitVec 4) (va : BitVec 7) (id pg : BitVec 4) (s : State) : Out :=
  vecWord (.vchk y t pd va id pg) y (require ((t.isFlt || t.isF8) && pd != 0)) [{ code := va, ty := t }] none
    (fun s rs =>
      let k := match numOf t with | .flt k => k | .int .. => .f32
      let bad := ((List.range (lanes t)).zip ((srcAt rs 0).lanes t)).map fun x =>
        (pget s.core pg).getLsbD x.1 && (let v := k.fmt.value x.2; v.isNan || v.isInf)
      { pred := some (pd, predOf bad), idx := some (id, BitVec.ofNat 64 (bad.count true)) }) s

end Sys2Proof.Machine
end

