-- ==== Sys2Proof/Machine/Elem.lean ====
section
/-! DEFINITION. The elementary functions (R160 to R165) with their special values, the approximate family (R174 to R177),
and the merge of attention triples (R158). A transcendental value is given as a dyadic with about 700 bits whose last bit
is odd: it is on the same side of every rounding boundary as the exact value, and is never one. -/

namespace Sys2Proof.Machine

/-! ### Fixed-point series -/

/-- π × 2^1600, rounded down. -/
def piBits : Nat :=
  0x3243f6a8885a308d313198a2e03707344a4093822299f31d0082efa98ec4e6c89452821e638d01377be5466cf34e90c6cc0ac29b7c97c50dd3f84d5b5b54709179216d5d98979fb1bd1310ba698dfb5ac2ffd72dbd01adfb7b8e1afed6a267e96ba7c9045f12c7f9924a19947b3916cf70801f2e2858efc16636920d871574e69a458fea3f4933d7e0d95748f728eb658718bcd5882154aee7b54a41dc25a59b59c30d5392af26013c5d1b023286085f0ca417918b8db38ef8e79dcb0603a180e6c9e0e8bb01e8a3e

/-- ln 2 × 2^1600, rounded down. -/
def ln2Bits : Nat :=
  0xb17217f7d1cf79abc9e3b39803f2f6af40f343267298b62d8a0d175b8baafa2be7b876206debac98559552fb4afa1b10ed2eae35c138214427573b291169b8253e96ca16224ae8c51acbda11317c387eb9ea9bc3b136603b256fa0ec7657f74b72ce87b19d6548caf5dfa6bd38303248655fa1872f20e3a2da2d97c50f3fd5c607f4ca11fb5bfb90610d30f88fe551a2ee569d6dfc1efa157d2e23de1400b39617460775db8990e5c943e732b479cd33cccc4e659393514c4c1a1e0bd1d6095d25669b333564a337

/-- Fraction bits of the fixed-point numbers below. -/
def fixBits : Nat := 700

/-- 1 in fixed point. -/
def fixOne : Nat := 2 ^ fixBits

/-- ln 2 in fixed point. -/
def ln2Fix : Nat := ln2Bits / 2 ^ (1600 - fixBits)

/-- m × 2^x in fixed point. -/
def toFix (m : Nat) (x : Int) : Nat :=
  if 0 ≤ x + fixBits then m * 2 ^ (x + fixBits).toNat else m / 2 ^ (-(x + fixBits)).toNat

/-- A real just above v × 2^x. -/
def sticky (neg : Bool) (v : Nat) (x : Int) : FVal := .num neg (2 * v + 1) (x - 1)

/-- A real just above or below m × 2^x in magnitude. -/
def nudge (up neg : Bool) (m : Nat) (x : Int) : FVal :=
  .num neg (if up then m * 2 ^ 200 + 1 else m * 2 ^ 200 - 1) (x - 200)

/-- floor(log2) of m × 2^x. -/
def topBit (m : Nat) (x : Int) : Int := (Nat.log2 m : Int) + x

/-- Sum of r^k / k! in fixed point. -/
def expLoop (r : Nat) : Nat → Nat → Nat → Nat → Nat
  | 0, _, _, acc => acc
  | n + 1, k, t, acc =>
    let t := t * r / fixOne / k
    if t == 0 then acc else expLoop r n (k + 1) t (acc + t)

/-- e^(±m × 2^x) as v × 2^(n - fixBits), v in [1, 2) in fixed point; the argument is below 2^13 in magnitude. -/
def expPart (neg : Bool) (m : Nat) (x : Int) : Nat × Int :=
  let a := toFix m x
  let n := a / ln2Fix
  let r := a % ln2Fix
  if neg then (expLoop (ln2Fix - r) 400 1 fixOne fixOne, -(n : Int) - 1) else (expLoop r 400 1 fixOne fixOne, n)

/-- Sum of z^(2k+1) / (2k+1) in fixed point, z2 = z². -/
def atanhLoop (z2 : Nat) : Nat → Nat → Nat → Nat → Nat
  | 0, _, _, acc => acc
  | n + 1, k, t, acc =>
    let t := t * z2 / fixOne
    if t == 0 then acc else atanhLoop z2 n (k + 2) t (acc + t / k)

/-- ln(m × 2^x) in fixed point. -/
def lnFix (m : Nat) (x : Int) : Int :=
  let l := Nat.log2 m
  let u := m * fixOne / 2 ^ l
  let z := (u - fixOne) * fixOne / (u + fixOne)
  (2 * atanhLoop (z * z / fixOne) 500 3 z z : Nat) + ((l : Int) + x) * ln2Fix

/-- Alternating sum of t × r2^k with denominators (k+1)(k+2) in fixed point. -/
def altLoop (r2 : Nat) : Nat → Nat → Bool → Nat → Int → Int
  | 0, _, _, _, acc => acc
  | n + 1, k, minus, t, acc =>
    let t := t * r2 / fixOne / ((k + 1) * (k + 2))
    if t == 0 then acc else altLoop r2 n (k + 2) (!minus) t (if minus then acc - t else acc + t)

/-- sin and cos of an angle a × 2^-1600, in fixed point. -/
def sinCosFix (a : Nat) : Int × Int :=
  let hp := piBits / 2
  let q := (a + hp / 2) / hp
  let r := ((a : Int) - (q * hp : Nat)) / (2 ^ (1600 - fixBits) : Int)
  let r2 := r.natAbs * r.natAbs / fixOne
  let sn := altLoop r2 200 1 true r.natAbs r.natAbs
  let sn := if r < 0 then -sn else sn
  let cs := altLoop r2 200 0 true fixOne fixOne
  match q % 4 with
  | 0 => (sn, cs)
  | 1 => (cs, -sn)
  | 2 => (-sn, -cs)
  | _ => (-cs, sn)

/-- Sum of 2^n x^(2n+1) / (1 · 3 · … · (2n+1)) in fixed point. -/
def erfLoop (x2 : Nat) : Nat → Nat → Nat → Nat → Nat
  | 0, _, _, acc => acc
  | n + 1, k, t, acc =>
    let t := 2 * (t * x2) / fixOne / k
    if t == 0 then acc else erfLoop x2 n (k + 2) t (acc + t)

/-- √π in fixed point. -/
def sqrtPiFix : Nat := isqrt (piBits / 2 ^ (1600 - 2 * fixBits))

/-- A fixed-point number as a real. -/
def ofFix (v : Int) (x : Int) : FVal := sticky (v < 0) v.natAbs (x - fixBits)

/-! ### Real values of the functions -/

/-- e^x, x ≠ 0. -/
def expReal (neg : Bool) (m : Nat) (x : Int) : FVal :=
  if topBit m x ≥ 12 then .num false 3 (if neg then -20000 else 20000)
  else if topBit m x < -300 then nudge (!neg) false 1 0
  else
    let e := expPart neg m x
    sticky false e.1 (e.2 - fixBits)

/-- floor of (-1)^neg × m × 2^x. -/
def floorNum (neg : Bool) (m : Nat) (x : Int) : Int :=
  let v : Int := if neg then -(m : Int) else m
  if 0 ≤ x then v * 2 ^ x.toNat else v / 2 ^ (-x).toNat

/-- floor of a value. -/
def floorVal : FVal → Int
  | .num n m x => floorNum n m x
  | _ => 0

/-- 2^x, x ≠ 0; exact when x is an integer. -/
def exp2Real (neg : Bool) (m : Nat) (x : Int) : FVal × Bool :=
  if topBit m x ≥ 14 then (.num false 3 (if neg then -20000 else 20000), false)
  else if topBit m x < -300 then (nudge (!neg) false 1 0, false)
  else
    let n := floorNum neg m x
    let v : Int := if neg then -(m : Int) else m
    if 0 ≤ x || v % 2 ^ (-x).toNat == 0 then (.num false 1 n, true)
    else
      -- the fraction of x in [0, 1), in fixed point
      let fr := toFix (v % 2 ^ (-x).toNat).toNat x
      (sticky false (expLoop (fr * ln2Fix / fixOne) 400 1 fixOne fixOne) (n - fixBits), false)

/-- 1 + x as a number. -/
def onePlus (neg : Bool) (m : Nat) (x : Int) : FVal := addNum .rne false 1 0 neg m x

/-- e^x - 1, x ≠ 0. -/
def expm1Real (neg : Bool) (m : Nat) (x : Int) : FVal :=
  if topBit m x < -300 then nudge (!neg) neg m x
  else if topBit m x ≥ 12 then (if neg then nudge false true 1 0 else .num false 3 20000)
  else
    let e := expPart neg m x
    if e.2 ≥ 0 then ofFix ((e.1 * 2 ^ e.2.toNat : Nat) - (fixOne : Int)) 0
    else if e.1 / 2 ^ (-e.2).toNat == 0 then nudge false true 1 0
    else ofFix ((e.1 / 2 ^ (-e.2).toNat : Nat) - (fixOne : Int)) 0

/-- ln x, x > 0 and x ≠ 1. -/
def lnReal (m : Nat) (x : Int) : FVal := ofFix (lnFix m x) 0

/-- Whether a natural number is a power of two. -/
def isPow2 (m : Nat) : Bool := m == 2 ^ Nat.log2 m

/-- log2 x, x > 0; exact for a power of two. -/
def log2Real (m : Nat) (x : Int) : FVal × Bool :=
  if isPow2 m then
    let n := topBit m x
    (.num (n < 0) n.natAbs 0, true)
  else (ofFix (lnFix m x * (fixOne : Int) / (ln2Fix : Int)) 0, false)

/-- ln(1 + x), x > -1 and x ≠ 0. -/
def log1pReal (neg : Bool) (m : Nat) (x : Int) : FVal :=
  if topBit m x < -300 then nudge neg neg m x
  else match onePlus neg m x with
    | .num _ m' x' => lnReal m' x'
    | v => v

/-- 1/√x, x > 0. -/
def rsqrtReal (m : Nat) (x : Int) : FVal × Bool :=
  let odd := x % 2 != 0
  let m' := if odd then 2 * m else m
  let h := (if odd then x - 1 else x) / 2
  let k := 600 + Nat.log2 m'
  let r := isqrt (2 ^ (2 * k) / m')
  if r * r * m' == 2 ^ (2 * k) then (.num false r (-(k : Int) - h), true) else (sticky false r (-(k : Int) - h), false)

/-- Whether √(m × 2^x) is dyadic. -/
def sqrtExact (m : Nat) (x : Int) : Bool :=
  let m' := if x % 2 != 0 then 2 * m else m
  isqrt m' * isqrt m' == m'

/-- sin x or cos x, x ≠ 0, by reduction modulo π/2 (R169). -/
def trigReal (isSin neg : Bool) (m : Nat) (x : Int) : FVal :=
  if topBit m x < -150 then (if isSin then nudge false neg m x else nudge false false 1 0)
  else
    let r := sinCosFix (m * 2 ^ (x + 1600).toNat)
    if isSin then ofFix (if neg then -r.1 else r.1) 0 else ofFix r.2 0

/-- tanh x, x ≠ 0. -/
def tanhReal (neg : Bool) (m : Nat) (x : Int) : FVal :=
  if topBit m x < -150 then nudge false neg m x
  else if topBit m x ≥ 9 then nudge false neg 1 0
  else
    let e := expPart false m (x + 1)
    let v := e.1 * 2 ^ e.2.toNat
    sticky neg ((v - fixOne) * fixOne / (v + fixOne)) (-(fixBits : Int))

/-- erf x, x ≠ 0. -/
def erfReal (neg : Bool) (m : Nat) (x : Int) : FVal :=
  if topBit m x < -300 then sticky neg (m * (2 * fixOne * fixOne / sqrtPiFix)) (x - fixBits)
  else if topBit m x ≥ 4 then nudge false neg 1 0
  else
    let a := toFix m x
    let e := expPart true (m * m) (2 * x)
    let t := erfLoop (a * a / fixOne) 2000 3 a a
    sticky neg (2 * fixOne * fixOne / sqrtPiFix * e.1 * t) (e.2 - 3 * fixBits)

/-- 1/(1 + e^(-x)), x ≠ 0. -/
def sigmReal (neg : Bool) (m : Nat) (x : Int) : FVal :=
  if topBit m x < -300 then nudge (!neg) false 1 (-1)
  else if topBit m x ≥ 12 then (if neg then .num false 3 (-20000) else nudge false false 1 0)
  else
    let e := expPart neg m x
    if e.2 ≥ 0 then
      let v := e.1 * 2 ^ e.2.toNat
      sticky false (v * fixOne / (v + fixOne)) (-(fixBits : Int))
    else
      let d := 2 ^ (fixBits + (-e.2).toNat)
      sticky false (e.1 * d / (d + e.1)) (e.2 - fixBits)

/-- 1 as a value. -/
def oneVal : FVal := .num false 1 0

/-- f(x) for an operand that R163 does not list, and whether it is that dyadic exactly. -/
def elemReal (fn : Fn) (neg : Bool) (m : Nat) (x : Int) : FVal × Bool :=
  match fn with
  | .exp => (expReal neg m x, false)
  | .exp2 => exp2Real neg m x
  | .expm1 => (expm1Real neg m x, false)
  | .log => (lnReal m x, false)
  | .log2 => log2Real m x
  | .log1p => (log1pReal neg m x, false)
  | .rcp | .div => ((divVal oneVal (.num neg m x)).val, isPow2 m)
  | .rsqrt => rsqrtReal m x
  | .sqrt => ((sqrtVal (.num neg m x)).val, sqrtExact m x)
  | .sin => (trigReal true neg m x, false)
  | .cos => (trigReal false neg m x, false)
  | .tanh => (tanhReal neg m x, false)
  | .erf => (erfReal neg m x, false)
  | .sigm => (sigmReal neg m x, false)

/-! ### Special values (R163, R164) -/

/-- The invalid result. -/
def invalid : FRes := ⟨.nan false, fNV⟩

/-- The listed result of R163, if the operand is listed. -/
def special (fn : Fn) (v : FVal) : Option FRes :=
  match v with
  | .nan n => some ⟨.nan n, 0⟩
  | .inf n =>
    match fn with
    | .exp | .exp2 => some ⟨if n then .zero false else .inf false, 0⟩
    | .expm1 => some ⟨if n then .num true 1 0 else .inf false, 0⟩
    | .log | .log2 | .log1p | .sqrt => some (if n then invalid else ⟨.inf false, 0⟩)
    | .rcp | .div => some ⟨.zero n, 0⟩
    | .rsqrt => some (if n then invalid else ⟨.zero false, 0⟩)
    | .sin | .cos => some invalid
    | .tanh | .erf => some ⟨.num n 1 0, 0⟩
    | .sigm => some ⟨if n then .zero false else oneVal, 0⟩
  | .num n m _ =>
    if m == 0 then
      match fn with
      | .exp | .exp2 | .cos => some ⟨oneVal, 0⟩
      | .expm1 | .log1p | .sqrt | .sin | .tanh | .erf => some ⟨.zero n, 0⟩
      | .log | .log2 => some ⟨.inf true, fDZ⟩
      | .rcp | .rsqrt | .div => some ⟨.inf n, fDZ⟩
      | .sigm => some ⟨.num false 1 (-1), 0⟩
    else
      match fn with
      | .log | .log2 => if n then some invalid else if eqVal v oneVal then some ⟨.zero false, 0⟩ else none
      | .log1p =>
        if eqVal v (.num true 1 0) then some ⟨.inf true, fDZ⟩
        else if ltVal v (.num true 1 0) then some invalid
        else none
      | .rsqrt | .sqrt => if n then some invalid else none
      | _ => none

/-- f(x) as an exact result (R162 to R164). -/
def elemVal (fn : Fn) (v : FVal) : FRes :=
  match special fn v with
  | some r => r
  | none =>
    match v with
    | .num n m x => ⟨(elemReal fn n m x).1, 0⟩
    | w => ⟨w, 0⟩

/-- A correctly rounded lane (R162, R165). -/
def elemLane (fn : Fn) (t : Ty) (s : State) (xs : List Nat) : Nat × FFlags :=
  match numOf t with
  | .int .. => (0, 0)
  | .flt k =>
    let c := vctx s
    let a := k.read c.ftz (argN xs 0)
    match fn with
    | .div => deliverRes k c (divVal a (k.read c.ftz (argN xs 1)))
    | _ => deliverRes k c (elemVal fn a)

/-! ### The approximate family (R174 to R177) -/

/-- Rn: rounded to F32's precision over an unbounded exponent range, to nearest even. -/
def rn (v : FVal) : FVal :=
  match v with
  | .num n m x =>
    if m == 0 then v
    else
      let q := topBit m x - 23
      .num n (roundAt { mode := .rne } n m x q).1 q
  | w => w

/-- Exact sum. -/
def plus (a b : FVal) : FVal := (addVal .rne a b).val

/-- Exact product. -/
def times (a b : FVal) : FVal := (mulVal a b).val

/-- The integer n × 2^x. -/
def dyad (n : Int) (x : Int) : FVal := .num (n < 0) n.natAbs x

/-- v × 2^n, with n kept to where every format has long overflowed or underflowed. -/
def scaleBy (v : FVal) (n : Int) : FVal :=
  match v with
  | .num s m x => .num s m (x + max (-2000) (min 2000 n))
  | w => w

/-- L2E, LN2 and INV2PI of R177. -/
def l2e : FVal := FKind.f32.fmt.value 0x3FB8AA3B
/-- See `l2e`. -/
def ln2f : FVal := FKind.f32.fmt.value 0x3F317218
/-- See `l2e`. -/
def inv2pi : FVal := FKind.f32.fmt.value 0x3E22F983

/-- The tables of R176. -/
inductive Tab where
  | exp2 | expm1 | log2 | log1p | rcp | rsqrt | sqrt | sin | cos | tanh | erf | sigm
  deriving DecidableEq, Repr

/-- ln 2 and 1/ln 2 as reals. -/
def ln2Real : FVal := ofFix ln2Fix 0

/-- f(u) of a positive or negative dyadic u. -/
def realAt (fn : Fn) (u : FVal) : FVal := (elemVal fn u).val

/-- The quotient of two reals. -/
def quotReal (a b : FVal) : FVal := (divVal a b).val

/-- sin or cos of 2πu. -/
def turnReal (isSin : Bool) (u : FVal) : FVal :=
  match u with
  | .num _ m x =>
    let r := sinCosFix (2 * piBits * m / 2 ^ (-x).toNat)
    ofFix (if isSin then r.1 else r.2) 0
  | w => w

/-- g, g' and g''/2 of a table at t (R175). -/
def tabAt (g : Tab) (t : FVal) : FVal × FVal × FVal :=
  let half := dyad 1 (-1)
  let pi2 := ofFix (piBits / 2 ^ (1600 - fixBits) : Nat) 1
  match g with
  | .exp2 =>
    let v := realAt .exp2 t
    (v, times ln2Real v, times half (times ln2Real (times ln2Real v)))
  | .expm1 => (realAt .expm1 t, realAt .exp t, times half (realAt .exp t))
  | .log2 => (realAt .log2 t, quotReal oneVal (times t ln2Real), quotReal (dyad (-1) (-1)) (times (times t t) ln2Real))
  | .log1p =>
    let w := plus oneVal t
    (realAt .log1p t, quotReal oneVal w, quotReal (dyad (-1) (-1)) (times w w))
  | .rcp => (quotReal oneVal t, quotReal (dyad (-1) 0) (times t t), quotReal oneVal (times t (times t t)))
  | .rsqrt =>
    let v := realAt .rsqrt t
    (v, quotReal (times (dyad (-1) (-1)) v) t, quotReal (times (dyad 3 (-3)) v) (times t t))
  | .sqrt =>
    let v := realAt .rsqrt t
    (realAt .sqrt t, times half v, quotReal (times (dyad (-1) (-3)) v) t)
  | .sin =>
    let sn := turnReal true t
    (sn, times pi2 (turnReal false t), times (dyad (-1) (-1)) (times pi2 (times pi2 sn)))
  | .cos =>
    let cs := turnReal false t
    (cs, (times pi2 (turnReal true t)).flip, times (dyad (-1) (-1)) (times pi2 (times pi2 cs)))
  | .tanh =>
    let v := realAt .tanh t
    let w := plus oneVal (times v v).flip
    (v, w, (times v w).flip)
  | .erf =>
    let e := times (ofFix (2 * fixOne * fixOne / sqrtPiFix : Nat) 0) (realAt .exp (times t t).flip)
    (realAt .erf t, e, (times t e).flip)
  | .sigm =>
    let v := realAt .sigm t
    let w := plus oneVal v.flip
    let p := times v w
    (v, p, times half (times p (plus w v.flip)))

/-- The shared core Q, with lo = lo' × 2^-e and h = h' × 2^-e (R175). -/
def quad (g : Tab) (lo' h' : Int) (e : Nat) (u : FVal) : FVal :=
  let j := min 255 (max 0 (floorVal (plus (scaleBy u e) (dyad (-lo') 0)) / h'))
  let t := dyad (2 * lo' + (2 * j + 1) * h') (-(e : Int) - 1)
  let a := tabAt g t
  let d := rn (plus u t.flip)
  let q := rn (plus (times (rn a.2.2) d) (rn a.2.1))
  rn (plus (times q d) (rn a.1))

/-- z of VEXP2A for y. -/
def zExp2 (y : FVal) : FVal :=
  let n := floorVal y
  scaleBy (quad .exp2 0 1 8 (plus y (dyad (-n) 0))) n

/-- z of VEXPA. -/
def zExp (x : FVal) : FVal := zExp2 (rn (times x l2e))

/-- |x| < m × 2^e. -/
def absLt (x : FVal) (m : Nat) (e : Int) : Bool :=
  match x with
  | .num _ n y => magGt m e n y
  | _ => false

/-- floor(log2 |x|). -/
def expOf : FVal → Int
  | .num _ m x => topBit m x
  | _ => 0

/-- |x|. -/
def absVal : FVal → FVal
  | .num _ m x => .num false m x
  | w => w

/-- z of VEXPM1A. -/
def zExpm1 (x : FVal) : FVal :=
  if absLt x 1 (-2) then quad .expm1 (-128) 1 9 x else plus (rn (zExp x)) (dyad (-1) 0)

/-- z of VLOG2A. -/
def zLog2 (x : FVal) : FVal :=
  let n := expOf x
  plus (dyad n 0) (quad .log2 256 1 8 (scaleBy x (-n)))

/-- z of VLOGA. -/
def zLog (x : FVal) : FVal := times (rn (zLog2 x)) ln2f

/-- z of VLOG1PA. -/
def zLog1p (x : FVal) : FVal :=
  if absLt x 1 (-2) then quad .log1p (-128) 1 9 x else zLog (rn (plus oneVal x))

/-- v with the sign of x. -/
def signLike (x v : FVal) : FVal := if x.neg then v.flip else v

/-- z of VRCPA. -/
def zRcp (x : FVal) : FVal :=
  let n := expOf x
  signLike x (scaleBy (quad .rcp 256 1 8 (scaleBy (absVal x) (-n))) (-n))

/-- z of VRSQRTA or VSQRTA. -/
def zRoot (inverse : Bool) (x : FVal) : FVal :=
  let h := expOf x / 2
  let u := scaleBy x (-(2 * h))
  if inverse then scaleBy (quad .rsqrt 256 3 8 u) (-h) else scaleBy (quad .sqrt 256 3 8 u) h

/-- z of VSINA or VCOSA. -/
def zTurn (isSin : Bool) (x : FVal) : FVal :=
  let y := rn (times x inv2pi)
  quad (if isSin then .sin else .cos) 0 1 8 (plus y (dyad (-(floorVal y)) 0))

/-- z of VTANHA. -/
def zTanh (x : FVal) : FVal :=
  signLike x (if absLt x 16 0 then quad .tanh 0 1 4 (absVal x) else oneVal)

/-- z of VERFA. -/
def zErf (x : FVal) : FVal :=
  signLike x (if absLt x 4 0 then quad .erf 0 1 6 (absVal x) else oneVal)

/-- z of VSIGMA. -/
def zSigm (x : FVal) : FVal :=
  if !ltVal x (dyad 16 0) then oneVal
  else if ltVal x (dyad (-16) 0) then rn (zExp x)
  else quad .sigm (-128) 1 3 x

/-- z of an approximate word (R176). -/
def approxReal (fn : Fn) (x : FVal) : FVal :=
  match fn with
  | .exp => zExp x
  | .exp2 => zExp2 x
  | .expm1 => zExpm1 x
  | .log => zLog x
  | .log2 => zLog2 x
  | .log1p => zLog1p x
  | .rcp | .div => zRcp x
  | .rsqrt => zRoot true x
  | .sqrt => zRoot false x
  | .sin => zTurn true x
  | .cos => zTurn false x
  | .tanh => zTanh x
  | .erf => zErf x
  | .sigm => zSigm x

/-- An approximate result delivered: NX says whether it differs from the exact value of f (R174). -/
def deliverApprox (k : FKind) (c : RCtx) (z : FVal) (exact : FVal → Bool) : Nat × FFlags :=
  let r := deliver k c z
  (r.1, (r.2 &&& ~~~fNX) ||| (if exact (k.fmt.value r.1) then 0 else fNX))

/-- A lane of an approximate word. -/
def approxLane (fn : Fn) (t : Ty) (s : State) (xs : List Nat) : Nat × FFlags :=
  match numOf t with
  | .int .. => (0, 0)
  | .flt k =>
    let c := vctx s
    let a := k.read c.ftz (argN xs 0)
    match fn, a with
    | .div, a =>
      let b := k.read c.ftz (argN xs 1)
      match a, b with
      | .num _ m _, .num _ n _ =>
        if m == 0 || n == 0 then deliverRes k c (divVal a b)
        else deliverApprox k c (times a (rn (zRcp b))) (fun v => eqVal (times v b) a)
      | _, _ => deliverRes k c (divVal a b)
    | fn, a =>
      match special fn a, a with
      | none, .num n m x =>
        let e := elemReal fn n m x
        deliverApprox k c (approxReal fn a) (fun v => e.2 && eqVal v e.1)
      | some r, _ => deliverRes k c r
      | none, w => deliverRes k c ⟨w, 0⟩

/-! ### The words -/

/-- The vector registers in which two cores differ, as the second holds them. -/
def regsOf (a b : Core) : List (Nat × VReg) :=
  ((List.range 64).zip (a.v.toList.zip b.v.toList)).filterMap fun x => if x.2.1 = x.2.2 then none else some (x.1, x.2.2)

/-- Positions of the streams that some positions of a word name. -/
def posOf (c : Core) (ps : List Spec) : List (BitVec 4 × Nat) :=
  ps.filterMap fun p => match opdOf p.code with
    | .g g => some (g, (gget c g).pos)
    | _ => none

/-- What a word is to push to the stream that its destination names, as the word finds the register, with the active lanes
of each vector. -/
def latePush (c : Core) (p : Spec) (r : VRes) : Option (StreamReg × Ty × List (Nat × Nat)) :=
  match opdOf p.code with
  | .g g => some (gget c g, p.ty, r.vecs.zipIdx.map fun x => (x.1, vecOf 1 ((List.range (lanes p.ty)).map fun i => if r.act x.2 i then 1 else 0)))
  | _ => none

/-- The stream that a word is to push to stands after what it pushes once the word has issued (R101, R102). -/
def takePush (c : Core) (p : Spec) (r : VRes) : Core :=
  match opdOf p.code with
  | .g g => gsetReg c g { gget c g with pos := posAfter (gdesc c g) r.vecs.length (gget c g).pos }
  | _ => c

/-- The effect of an elementary-function word at its issue (R171, R173): it takes its operands, and holds back everything
that it writes until its hem phase ends. -/
def hemBody (srcs : List Spec) (dst : Option Spec) (f : State → List Src → VRes) (s : State) : Eng :=
  match readSrcs srcs s with
  | .error c => { s := if c.cause = .cuffBankUe then unmarkSpecs srcs srcs s else s, err := some c }
  | .ok (s1, rs) =>
    let r := f s rs
    let regs := match dst with
      | some p => match opdOf p.code with
        | .v _ => regsOf s.core (writeVecs p r.act r.scales [] 0 r.vecs s1).1.core
        | _ => []
      | none => []
    let late : Late :=
      { regs, push := dst.bind (latePush s1.core · r), flags := r.flags, info := r.flags.setWidth 64, cause := arithCause r.flags (tenOf s.core.vfctl)
        lflags := match r.lanes with
          | some l => (setLaneFlags s.core l).lflags
          | none => s.core.lflags
        pos := posOf s.core (srcs ++ dst.toList) }
    { s := { s1 with core := (dst.map (takePush s1.core · r)).getD s1.core }, kind := .hem, done := false, held := heldBy s s1 srcs, late := some late }

/-- A word that completes when its first phase, or its hem phase, ends (R171). -/
def hemWord (i : Instr) (y : Sync) (own : State → Res Unit) (srcs : List Spec) (dst : Option Spec)
    (f : State → List Src → VRes) (s : State) : Out :=
  issueWord i y { c := true } (specsDecode own srcs dst) (fun s _ => specsReady s srcs) (specsEarly srcs dst)
    (fun s _ _ => hemBody srcs dst f s) s

/-- A correctly rounded word (R161). -/
def elemWord (i : Instr) (y : Sync) (fn : Fn) (t : Ty) (vd : BitVec 7) (srcs : List (BitVec 7)) (pg : BitVec 4)
    (s : State) : Out :=
  hemWord i y (fun s => do require t.isFloat s; roundCheck s) (srcs.map fun c => { code := c, ty := t })
    (some { code := vd, ty := t }) (laneBody t true pg (elemLane fn t)) s

/-- An approximate word: FLT only. It completes as its first phase ends, and writes everything together then (R171). -/
def approxWord (i : Instr) (y : Sync) (fn : Fn) (t : Ty) (vd : BitVec 7) (srcs : List (BitVec 7)) (pg : BitVec 4)
    (s : State) : Out :=
  hemWord i y (fun s => do require t.isFlt s; roundCheck s) (srcs.map fun c => { code := c, ty := t })
    (some { code := vd, ty := t }) (laneBody t true pg (approxLane fn t)) s

/-- VEXP (R160). -/
def execVexp (y : Sync) (o : UOp) (s : State) : Out := elemWord (.vexp y o) y .exp o.ty o.vd [o.va] o.pg s
/-- VEXP2 (R160). -/
def execVexp2 (y : Sync) (o : UOp) (s : State) : Out := elemWord (.vexp2 y o) y .exp2 o.ty o.vd [o.va] o.pg s
/-- VEXPM1 (R160). -/
def execVexpm1 (y : Sync) (o : UOp) (s : State) : Out := elemWord (.vexpm1 y o) y .expm1 o.ty o.vd [o.va] o.pg s
/-- VLOG (R160). -/
def execVlog (y : Sync) (o : UOp) (s : State) : Out := elemWord (.vlog y o) y .log o.ty o.vd [o.va] o.pg s
/-- VLOG2 (R160). -/
def execVlog2 (y : Sync) (o : UOp) (s : State) : Out := elemWord (.vlog2 y o) y .log2 o.ty o.vd [o.va] o.pg s
/-- VLOG1P (R160). -/
def execVlog1p (y : Sync) (o : UOp) (s : State) : Out := elemWord (.vlog1p y o) y .log1p o.ty o.vd [o.va] o.pg s
/-- VRCP (R160). -/
def execVrcp (y : Sync) (o : UOp) (s : State) : Out := elemWord (.vrcp y o) y .rcp o.ty o.vd [o.va] o.pg s
/-- VRSQRT (R160). -/
def execVrsqrt (y : Sync) (o : UOp) (s : State) : Out := elemWord (.vrsqrt y o) y .rsqrt o.ty o.vd [o.va] o.pg s
/-- VSQRT (R160). -/
def execVsqrt (y : Sync) (o : UOp) (s : State) : Out := elemWord (.vsqrt y o) y .sqrt o.ty o.vd [o.va] o.pg s
/-- VSIN (R160). -/
def execVsin (y : Sync) (o : UOp) (s : State) : Out := elemWord (.vsin y o) y .sin o.ty o.vd [o.va] o.pg s
/-- VCOS (R160). -/
def execVcos (y : Sync) (o : UOp) (s : State) : Out := elemWord (.vcos y o) y .cos o.ty o.vd [o.va] o.pg s
/-- VTANH (R160). -/
def execVtanh (y : Sync) (o : UOp) (s : State) : Out := elemWord (.vtanh y o) y .tanh o.ty o.vd [o.va] o.pg s
/-- VERF (R160). -/
def execVerf (y : Sync) (o : UOp) (s : State) : Out := elemWord (.verf y o) y .erf o.ty o.vd [o.va] o.pg s
/-- VSIGM (R160). -/
def execVsigm (y : Sync) (o : UOp) (s : State) : Out := elemWord (.vsigm y o) y .sigm o.ty o.vd [o.va] o.pg s
/-- VDIV (R164). -/
def execVdiv (y : Sync) (o : VOp) (s : State) : Out := elemWord (.vdiv y o) y .div o.ty o.vd [o.va, o.vb] o.pg s

/-- VEXPA (R176). -/
def execVexpa (y : Sync) (o : UOp) (s : State) : Out := approxWord (.vexpa y o) y .exp o.ty o.vd [o.va] o.pg s
/-- VEXP2A (R176). -/
def execVexp2a (y : Sync) (o : UOp) (s : State) : Out := approxWord (.vexp2a y o) y .exp2 o.ty o.vd [o.va] o.pg s
/-- VEXPM1A (R176). -/
def execVexpm1a (y : Sync) (o : UOp) (s : State) : Out := approxWord (.vexpm1a y o) y .expm1 o.ty o.vd [o.va] o.pg s
/-- VLOGA (R176). -/
def execVloga (y : Sync) (o : UOp) (s : State) : Out := approxWord (.vloga y o) y .log o.ty o.vd [o.va] o.pg s
/-- VLOG2A (R176). -/
def execVlog2a (y : Sync) (o : UOp) (s : State) : Out := approxWord (.vlog2a y o) y .log2 o.ty o.vd [o.va] o.pg s
/-- VLOG1PA (R176). -/
def execVlog1pa (y : Sync) (o : UOp) (s : State) : Out := approxWord (.vlog1pa y o) y .log1p o.ty o.vd [o.va] o.pg s
/-- VRCPA (R176). -/
def execVrcpa (y : Sync) (o : UOp) (s : State) : Out := approxWord (.vrcpa y o) y .rcp o.ty o.vd [o.va] o.pg s
/-- VRSQRTA (R176). -/
def execVrsqrta (y : Sync) (o : UOp) (s : State) : Out := approxWord (.vrsqrta y o) y .rsqrt o.ty o.vd [o.va] o.pg s
/-- VSQRTA (R176). -/
def execVsqrta (y : Sync) (o : UOp) (s : State) : Out := approxWord (.vsqrta y o) y .sqrt o.ty o.vd [o.va] o.pg s
/-- VSINA (R176). -/
def execVsina (y : Sync) (o : UOp) (s : State) : Out := approxWord (.vsina y o) y .sin o.ty o.vd [o.va] o.pg s
/-- VCOSA (R176). -/
def execVcosa (y : Sync) (o : UOp) (s : State) : Out := approxWord (.vcosa y o) y .cos o.ty o.vd [o.va] o.pg s
/-- VTANHA (R176). -/
def execVtanha (y : Sync) (o : UOp) (s : State) : Out := approxWord (.vtanha y o) y .tanh o.ty o.vd [o.va] o.pg s
/-- VERFA (R176). -/
def execVerfa (y : Sync) (o : UOp) (s : State) : Out := approxWord (.verfa y o) y .erf o.ty o.vd [o.va] o.pg s
/-- VSIGMA (R176). -/
def execVsigma (y : Sync) (o : UOp) (s : State) : Out := approxWord (.vsigma y o) y .sigm o.ty o.vd [o.va] o.pg s
/-- VDIVA (R176). -/
def execVdiva (y : Sync) (o : VOp) (s : State) : Out := approxWord (.vdiva y o) y .div o.ty o.vd [o.va, o.vb] o.pg s

/-! ### The merge of attention triples (R158) -/

/-- Registers of a triple. -/
def tripleRegs : HeadDim → Nat
  | .d256 => 3
  | _ => 2

/-- Head dimension. -/
def headDim : HeadDim → Nat
  | .d64 => 64
  | .d128 => 128
  | .d256 => 256

/-- The weight exp(mj - m) of a triple: an exact 0 or 1, or a real (R158). -/
def mergeWeight (mj m : FVal) : FVal × Bool :=
  if eqVal mj m then (oneVal, true)
  else match mj, addVal .rne mj m.flip with
    | .inf true, _ => (.zero false, true)
    | _, ⟨.num n k x, _⟩ => if k == 0 then (oneVal, true) else (expReal n k x, false)
    | _, ⟨.inf n, _⟩ => (if n then .zero false else .inf false, true)
    | _, ⟨w, _⟩ => (w, true)

/-- s1 × f1 + s2 × f2 rounded once to F32 (R158). A sum in which a weight is irrational is never a boundary. A NaN of va
comes before one of vd (R80); R80 does not order the lanes of one triple: s or acc[k] comes before m (DESIGN CHOICE, log
entry 39). -/
def mergeSum (ftz : Bool) (m1 m2 s1 s2 : FVal) (f1 f2 : FVal × Bool) : Nat × FFlags :=
  let p1 := mulVal s1 f1.1
  let p2 := mulVal s2 f2.1
  let c : RCtx := { mode := .rne, ftz }
  match firstNan [s2, m2, s1, m1] with
  | some v => deliverRes .f32 c ⟨v, (p1.fl ||| p2.fl)⟩
  | none =>
    if p2.fl ≠ 0 || p1.fl ≠ 0 then deliverRes .f32 c invalid
    else
      let r := addVal .rne p1.val p2.val
      let rough := (!f1.2 && !s1.isZero) || (!f2.2 && !s2.isZero)
      deliverRes .f32 c (match r.val with
        | .num n m x => if rough && m != 0 then ⟨sticky n m x, r.fl⟩ else r
        | _ => r)

/-- F32 lane l of register j of a triple. -/
def tripleLane (r : Src) (j l : Nat) : Nat := (r.vecs[j]?).getD 0 >>> (32 * l) % 2 ^ 32

/-- The merged triple: `r1` from vd, `r2` from va. -/
def mergeRes (hd : HeadDim) (s : State) (rs : List Src) : VRes :=
  let ftz := vfctlFtz s.core.vfctl
  let r2 := srcAt rs 0
  let r1 := srcAt rs 1
  let rd (r : Src) (j l : Nat) : FVal := FKind.f32.read ftz (tripleLane r j l)
  let m1 := rd r1 0 0
  let m2 := rd r2 0 0
  let m := (firstNan [m2, m1]).getD (maxVal m1 m2)
  let f1 := mergeWeight m1 m
  let f2 := mergeWeight m2 m
  let sum := mergeSum ftz m1 m2 (rd r1 0 1) (rd r2 0 1) f1 f2
  let acc := (List.range (headDim hd)).map fun k =>
    mergeSum ftz m1 m2 (rd r1 (1 + k / 128) (k % 128)) (rd r2 (1 + k / 128) (k % 128)) f1 f2
  let top := (deliver .f32 { mode := .rne } m).1
  let fl := sum.2 :: acc.map (·.2)
  { vecs := packLanes .f32 [top, sum.1] :: (List.range (tripleRegs hd - 1)).map fun j =>
      packLanes .f32 (((acc.map (·.1)).drop (128 * j)).take 128)
    act := fun j l => if j == 0 then decide (l < 2) else decide (128 * (j - 1) + l < headDim hd)
    flags := unionFlags fl, lanes := some fl }

/-- A three-register group lies in one half of the register file (R122). -/
def thirdsOk (code : BitVec 7) : Bool :=
  let n := code.toNat
  decide (n ≥ 64) || decide (n + 2 < 32) || (decide (32 ≤ n) && decide (n + 2 < 64))

/-- The position of a triple: a group of two registers is aligned, one of three lies in one half. -/
def tripleSpec (code : BitVec 7) (hd : HeadDim) : Spec := { code, w := tripleRegs hd, ty := .f32 }

/-- VSMRG (R158). -/
def execVsmrg (y : Sync) (vd va : BitVec 7) (hd : HeadDim) (s : State) : Out :=
  hemWord (.vsmrg y vd va hd) y
    (require (decide (vd.toNat < 64) && (decide (hd ≠ .d256) || (thirdsOk vd && thirdsOk va))))
    [tripleSpec va hd, tripleSpec vd hd] (some (tripleSpec vd hd)) (mergeRes hd) s

end Sys2Proof.Machine
end

