-- ==== Sys2Proof/Machine/Transfers.lean ====
section
/-! DEFINITION. GCFG and GSET (R107, R108), the transfers LDS, STS, MCAST and BCOPY (R109 to R114), gather and scatter
(R248), and the engine forms of REDST and the near-memory operations (R239, R245). -/

namespace Sys2Proof.Machine

/-! ### Descriptors -/

/-- A stop of a word after issue at its first element. -/
def stopAt (s : State) (c : CauseRec) : Eng :=
  match (match s.unit with | .seq u => (seqOf s u).resume | .x => none) with
  | none => { s, err := some c }
  | some r =>
    if c.await.isSome then { s, err := some c }
    else { s := { s with core := releaseHeld s.core r }, err := some { c with e := r.e, keep := r.keep, descs := r.descs } }

/-- Descriptor bits read from the address that an index register holds (R109). -/
def rawDesc (s : State) (u : SeqId) (r : BitVec 4) : Res (State × Nat) := do
  let a := (iget (seqOf s u) r).toNat
  if a % 64 != 0 then raiseAt .align a
  let (s, bs) ← vread s (accOf s) .l2 a 64
  pure (s, ofBytesLE bs)

/-- A descriptor, which is static-valid (R109). -/
def readDesc (s : State) (u : SeqId) (r : BitVec 4) : Res (State × Nat) := do
  let x ← rawDesc s u r
  if !staticValid x.2 then raise .operand
  pure x

/-- A position that a stop would restore is forgotten: the stream has started a new walk since (R101, R102). -/
def Flight.forget (g : BitVec 4) (f : Flight) : Flight :=
  { f with late := f.late.map fun l => { l with pos := l.pos.filter (·.1 != g) }
           back := f.back.map fun x => { x with pos := x.pos.set g.toNat 0 } }

/-- GCFG and GSET write a stream register, which starts at its first vector. The words of C that have issued keep what they
took of it, and a stop of one does not bring its old position back (R101, R102). -/
def setStream (s : State) (g : BitVec 4) (desc : BitVec 512) : State :=
  let q := s.core.c
  { s with core := gsetReg { s.core with c := { q with
      flight := q.flight.map (·.forget g), early := q.early.map (·.forget g)
      undo := q.undo.map fun x => { x with pos := x.pos.set g.toNat 0 } } } g { desc, pos := 0 } }

/-- GCFG (R107). -/
def execGcfg (y : Sync) (g ib : BitVec 4) (off : BitVec 21) (s : State) : Out :=
  plainWord (.gcfg y g ib off) y { l := true, s := true } (fun s u =>
    let a := (iget (seqOf s u) ib + 64 * off.signExtend 64).toNat
    let r : Res State := do
      if a % 64 != 0 then raiseAt .align a
      let (s, bs) ← vread s (accOf s) .l2 a 64
      let n := ofBytesLE bs
      if !staticValid n then raise .operand
      pure (setStream s g (BitVec.ofNat 512 n))
    match r with
    | .error c => stopAt s c
    | .ok s1 => { s := s1 }) s

/-- A number with the bits [lo+w-1:lo] replaced. -/
def putBits (n lo w v : Nat) : Nat := n - fld n lo w * 2 ^ lo + v % 2 ^ w * 2 ^ lo

/-- The place and width of a GSET field, and the value that it takes from a register; none when it is out of range
(R108). POS has no bits in the descriptor. -/
def gsetValue (f : GField) (v : Word) : Option (Nat × Nat × Nat) :=
  let n := v.toNat
  let i := v.toInt
  let addr (lo : Nat) : Option (Nat × Nat × Nat) := if n < 2 ^ 57 then some (lo, 57, n) else none
  let cnt (lo : Nat) : Option (Nat × Nat × Nat) := if 1 ≤ n ∧ n ≤ 65536 then some (lo, 16, n - 1) else none
  let str (lo w : Nat) : Option (Nat × Nat × Nat) :=
    if -(2 ^ (w - 1)) ≤ i ∧ i < 2 ^ (w - 1) then some (lo, w, n) else none
  match f with
  | .base => addr 0
  | .sbase => addr 384
  | .n0 => cnt 176 | .n1 => cnt 240 | .n2 => cnt 304 | .n3 => cnt 368
  | .s0 => str 128 40 | .s1 => str 192 40 | .s2 => str 256 40 | .s3 => str 320 40
  | .sstr => str 448 32
  | .swz => if n < 8 then some (119, 3, n) else none
  | .dir => if n < 2 then some (122, 1, n) else none
  | .pos => some (0, 0, 0)

/-- The descriptor that GSET leaves; none where it is not static-valid. -/
def gsetResult (s : State) (u : SeqId) (g : BitVec 4) (f : GField) (ia : BitVec 4) : Option Nat :=
  match gsetValue f (iget (seqOf s u) ia) with
  | none => none
  | some (lo, w, v) =>
    let n := putBits (gget s.core g).desc.toNat lo w v
    if staticValid n then some n else none

/-- GSET (R108). -/
def execGset (y : Sync) (g : BitVec 4) (f : GField) (ia : BitVec 4) (s : State) : Out :=
  issueWord (.gset y g f ia) y { l := true, s := true }
    (fun s u => if (gsetValue f (iget (seqOf s u) ia)).isNone then raise .operand else .ok ())
    noWait
    (fun s u => if (gsetResult s u g f ia).isNone then raise .operand else .ok ())
    (fun s u _ =>
      match gsetResult s u g f ia with
      | some n => { s := setStream s g (BitVec.ofNat 512 n) }
      | none => { s }) s

/-! ### The two ends of a transfer -/

/-- What a transfer word asks of its ends (R110). -/
structure Move where
  /-- the spaces that the source may have: window, memory -/
  srcWin : Bool := false
  srcMem : Bool := false
  dstMem : Bool := false
  queue  : Bool := false
  multi  : Bool := false
  /-- D is an index register in every form -/
  dDesc  : Bool := false
  /-- a check of the destination pass -/
  also   : Desc → Bool := fun _ => true

/-- The ends of a transfer as found: the source pass or the source queue, the destination pass, and the descriptors that
the word keeps until it retires (R102), the destination's first. -/
structure Ends where
  sd : Option Desc
  q  : BitVec 3
  dd : Desc
  descs : List Nat := []
  deriving DecidableEq, Repr

/-- The queue of a source code. -/
def srcQueue (c : BitVec 5) : BitVec 3 := c.setWidth 3

/-- Decode checks of R109 and R110. -/
def moveDecode (m : Move) (o : XOp) (_ : State) (u : SeqId) : Res Unit :=
  let c := o.src.toNat
  if c ≥ 24 || (c ≥ 16 && !m.queue) || (isCopy u && !o.f && !(m.dDesc && c ≥ 16)) then raise .operand else .ok ()

/-- Whether a CMASK names exactly one cluster of the die (R111). -/
def oneBit (m : Nat) : Bool := m != 0 && m == 2 ^ Nat.log2 m

/-- The window of a descriptor for a unit (R111). -/
def sideOf (s : State) (u : SeqId) (d : Desc) : Side :=
  if d.mem then .mem
  else match u with
    | .e m => .win (9 * (m / 12) + Nat.log2 d.cmask)
    | _ => ownWin s

/-- The windows that MCAST writes. -/
def castSides (s : State) (u : SeqId) (d : Desc) : List Side :=
  let die := match u with
    | .e m => m / 12
    | _ => dieOf s.core.gcore
  ((List.range 9).filter fun k => bit d.cmask k).map fun k => .win (9 * die + k)

/-- The operand rules of R110 and R111. A queue's vectors hold no scales and the manual gives no MX flag to one: an MX
destination of a queue source raises INSN.OPERAND (DESIGN CHOICE, log entry 82). -/
def endsOk (m : Move) (u : SeqId) (e : Ends) : Bool :=
  let dd := e.dd
  let mask (d : Desc) : Bool := !isCopy u || d.mem || oneBit d.cmask
  dd.push && dd.mem == m.dstMem && m.also dd && (if m.multi then dd.cmask != 0 else mask dd)
    && match e.sd with
      | none => !dd.mx
      | some sd =>
        !sd.push && (if sd.mem then m.srcMem else m.srcWin) && decide (sd.ty = dd.ty) && sd.mx == dd.mx
          && sd.total == dd.total && mask sd && (!isCopy u || sd.mem || dd.mem || m.multi || sd.cmask == dd.cmask)

/-- The ends that descriptors describe, the destination's first. -/
def endsOf (o : XOp) (l : List Nat) : Ends :=
  { sd := (l[1]?).map descOf, q := srcQueue o.src, dd := descOf (l.headD 0), descs := l }

/-- The resumption of a word. -/
def resumeOf (s : State) (u : SeqId) : Option Resume := (seqOf s u).resume

/-- The descriptors that an issued word has kept (R102). -/
def keptDescs (s : State) (u : SeqId) : List Nat := ((resumeOf s u).map (·.descs)).getD []

/-- The descriptors in the stream registers that a word names. -/
def regDescs (s : State) (o : XOp) : List Nat :=
  (gget s.core o.d).desc.toNat :: (if o.src.toNat < 16 then [(gget s.core (o.src.setWidth 4)).desc.toNat] else [])

/-- The issue-cycle checks of the stream registers that a register-form word names. -/
def moveEarly (m : Move) (o : XOp) (s : State) (u : SeqId) : Res Unit :=
  if o.f || m.dDesc || !(keptDescs s u).isEmpty || endsOk m u (endsOf o (regDescs s o)) then .ok () else raise .operand

/-- The descriptors of a word that has kept none. The manual does not say which of two descriptors in memory is read
first, and so which cause stands when both meet one: the destination's is (DESIGN CHOICE, log entry 82). -/
def fetchDescs (m : Move) (o : XOp) (s : State) (u : SeqId) : Res (State × List Nat) := do
  let (s, dd) ← if o.f || m.dDesc then rawDesc s u o.d else pure (s, (gget s.core o.d).desc.toNat)
  if o.src.toNat ≥ 16 then pure (s, [dd])
  else
    let (s, sd) ← if o.f then rawDesc s u (o.src.setWidth 4) else pure (s, (gget s.core (o.src.setWidth 4)).desc.toNat)
    pure (s, [dd, sd])

/-- The ends of a word, with the descriptors that it reads; `own` is a check that comes before theirs (R38). -/
def fetchEnds (own : Ends → Res Unit) (m : Move) (o : XOp) (s : State) (u : SeqId) : Res (State × Ends) :=
  match keptDescs s u with
  | [] => do
    let (s, l) ← fetchDescs m o s u
    let e := endsOf o l
    own e
    if !l.all staticValid || !endsOk m u e then raise .operand
    pure (s, e)
  | l => .ok (s, endsOf o l)

/-- No check of its own. -/
def noOwn (_ : Ends) : Res Unit := .ok ()

/-! ### Reading the source -/

/-- What a word has read of its source: the groups, how the reading ended, the vectors that it has popped, and the groups
that it keeps for a resumption. -/
structure Pull where
  s      : State
  grps   : List Grp
  halt   : Halt := .done
  popped : List QVec := []
  keep   : List Grp := []
  deriving DecidableEq, Repr

/-- The groups that a queue vector supplies to destination vector v, from element e0 on (R112). -/
def vecGrps (d : Desc) (v e0 vec : Nat) : List Grp :=
  let r := d.vecRange v
  let ge := groupElems d.ty
  ((List.range ((r.2 + ge - 1) / ge)).map fun k =>
    ({ e := r.1 + k * ge, scale := none,
       bytes := (packGroup d.ty ((List.range ge).map fun j => (laneOf d.ty (BitVec.ofNat 4096 vec) (k * ge + j), true))).map (·.1) }
      : Grp)).filter fun g => e0 ≤ g.e

/-- Pops the vectors of a destination pass, on the number of vectors left; `cur` is one that the word still holds. A pop
of an empty queue waits while a QPOST still has triples for it (R261). -/
def pullQueue (d : Desc) (n : BitVec 3) (e0 : Nat) : Nat → Nat → Option QVec → State → Pull
  | 0, _, _, s => { s, grps := [] }
  | k + 1, v, some x, s =>
    let r := pullQueue d n e0 k (v + 1) none s
    { r with grps := vecGrps d v e0 x.data.toNat ++ r.grps, popped := x :: r.popped }
  | k + 1, v, none, s =>
    let e := Nat.max e0 (d.vecRange v).1
    if (qget s.core n).vecs.isEmpty && postsPending s n then { s, grps := [], halt := .wait e true none }
    else match popQueue s n with
      | .error c =>
        { s, grps := [], halt := .stop { c with e, issued := true, info := if c.cause = .cuffBankUe then c.info else BitVec.ofNat 64 e } }
      | .ok (s, x) =>
        let r := pullQueue d n e0 k (v + 1) none s
        { r with grps := vecGrps d v e0 x.data.toNat ++ r.grps, popped := x :: r.popped }

/-- A source group of a BCOPY: one that it kept, or read now (R113). -/
def copyGroup (s : State) (u : SeqId) (d : Desc) (kept : List (Nat × List Byte × Option Byte)) (i : Nat) : Res Grp :=
  match kept.find? fun k => k.1 == groupElems d.ty * i with
  | some k => .ok { e := k.1, bytes := k.2.1, scale := k.2.2 }
  | none => (readGroup s (.seq u) (accOf s) (sideOf s u d) d i).map (·.2)

/-- The results before the first cause, and that cause. -/
def upToCause : List (Res Grp) → List Grp × Option CauseRec
  | [] => ([], none)
  | .ok g :: l => let r := upToCause l; (g :: r.1, r.2)
  | .error c :: _ => ([], some c)

/-- The groups that could be read. -/
def readable : List (Res Grp) → List Grp
  | [] => []
  | .ok g :: l => g :: readable l
  | .error _ :: l => readable l

/-- A copy from window to window moves what the source held when it issued (R113): every group is read then, also those
beyond one that stops it. -/
def pullCopy (s : State) (u : SeqId) (d : Desc) (kept : List (Nat × List Byte × Option Byte)) (i : Nat) : Pull :=
  let l := (List.range (d.groups - i)).map fun k => copyGroup s u d kept (i + k)
  let r := upToCause l
  { s, grps := r.1, halt := haltOf r.2, keep := readable l }

/-- The groups from index i on that a word has kept, on the number of groups left. -/
def keptRun (t : Ty) (kept : List (Nat × List Byte × Option Byte)) : Nat → Nat → List Grp
  | 0, _ => []
  | n + 1, i => match kept.find? fun k => k.1 == groupElems t * i with
    | some k => { e := k.1, bytes := k.2.1, scale := k.2.2 } :: keptRun t kept n (i + 1)
    | none => []

/-- The groups of a pass from index i on, those that the word has kept first, up to the first cause. -/
def passKept (u : UnitId) (a : Acc) (side : Side) (d : Desc) (kept : List (Nat × List Byte × Option Byte)) (n i : Nat) (s : State) :
    State × List Grp × Option CauseRec :=
  let k := keptRun d.ty kept n i
  let r := readPass u a side d (n - k.length) (i + k.length) s
  (r.1, k ++ r.2.1, r.2.2)

/-- Reads a source from element e0 on. -/
def pull (s : State) (u : SeqId) (e : Ends) (res : Option Resume) (e0 : Nat) : Pull :=
  match e.sd with
  | some sd =>
    let i := e0 / groupElems sd.ty
    if !sd.mem && !e.dd.mem then pullCopy s u sd ((res.map (·.keep)).getD []) i
    else
      let r := passKept (.seq u) (accOf s) (sideOf s u sd) sd ((res.map (·.keep)).getD []) (sd.groups - i) i s
      { s := r.1, grps := r.2.1, halt := haltOf r.2.2 }
  | none =>
    let v := (e.dd.vecOfElem e0).1
    pullQueue e.dd e.q e0 (e.dd.vectors - v) v (res.bind (·.cur)) s

/-- The groups that a transfer moves in this turn, and how it ends after them: other sequencers may move between any two
of its groups (R11, log entry 7). -/
def cutTurn (s : State) (grps : List Grp) (h : Halt) : List Grp × Halt :=
  match s.part with
  | none => (grps, h)
  | some n => match grps[n]? with
    | some g => (grps.take n, .wait g.e false none)
    | none => (grps, h)

/-- The first place, from n groups on, at which no line that the word writes whole is half written. -/
def cleanCut (dd : Desc) (plan : List Wr) (grps : List Grp) (n : Nat) : Option Nat :=
  ((List.range (grps.length + 1)).filter (n ≤ ·)).find? fun k => wholeLines plan ((grps.take k).map (planGroup dd)).flatten

/-- The cut of a transfer into windows: a line that it writes whole changes together with its tag (R105, R213), so the turn
ends, and the word waits, only where no such line is half written. What it has read beyond that it keeps. -/
def cutLines (s : State) (dd : Desc) (grps : List Grp) (h : Halt) : List Grp × Halt × List Grp :=
  let g := cutTurn s grps h
  match g.2 with
  | .wait e counted ask =>
    if dd.mem then (g.1, g.2, [])
    else
      let plan := (g.1.map (planGroup dd)).flatten ++ restPlan dd (e / groupElems dd.ty)
      match (if g.1.length < grps.length then cleanCut dd plan grps g.1.length else none) with
      | some k => match grps[k]? with
        | some x => (grps.take k, .wait x.e false none, [])
        | none => (grps, h, [])
      | none =>
        let back := ((List.range (g.1.length + 1)).reverse.find? fun k => wholeLines plan ((g.1.take k).map (planGroup dd)).flatten).getD 0
        match g.1[back]? with
        | some x => (g.1.take back, .wait x.e counted ask, grps.drop back)
        | none => (g.1, g.2, [])
  | _ => (g.1, g.2, [])

/-! ### How a transfer ends -/

/-- The end of a word without a queue. -/
def endEng (s : State) (h : Halt) (descs : List Nat) (keep : List Grp) : Eng :=
  let kept (x : Nat) : List (Nat × List Byte × Option Byte) := (keep.filter fun g => x ≤ g.e).map fun g => (g.e, g.bytes, g.scale)
  match h with
  | .done => { s }
  | .stop c => { s, err := some { c with keep := kept c.e, descs } }
  | .wait e counted ask => { s, wait := some e, counted, ask, keep := kept e, descs }

/-- Vectors that a word has held. -/
def heldVecs (res : Option Resume) : Nat := ((res.map (·.held)).getD []).foldl (fun n h => n + h.2.length) 0

/-- The source queue when the word has used up `used` of the vectors that it popped, and stops or waits (R112, R190): the
rest returns to its head, but for one that a waiting word still holds; a stopped word holds nothing more. -/
def giveBack (s0 s : State) (e : Ends) (res : Option Resume) (p : Pull) (used : Nat) (stops ue : Bool) : State :=
  let r := qget s0.core e.q
  let had := if (res.bind (·.cur)).isSome then 1 else 0
  let keeps := if stops then used else min (used + 1) p.popped.length
  let left := p.popped.drop keeps ++ r.vecs.drop (p.popped.length - had)
  let left := if ue then (unmark 1 left).getD left else left
  { s with core := qsetReg s.core e.q { r with vecs := left, held := if stops then r.held - had - heldVecs res else r.held - had + keeps } }

/-- How a word ends that started at element e0 in state s0, has pulled p and reached state s. -/
def settle (s0 : State) (e : Ends) (res : Option Resume) (e0 : Nat) (p : Pull) (s : State) (h : Halt) : Eng :=
  let r := endEng s h e.descs p.keep
  if e.sd.isSome then r
  else
    let before := (res.map (·.held)).getD []
    let used (x : Nat) : Nat := (e.dd.vecOfElem x).1 - (e.dd.vecOfElem e0).1
    match h with
    | .done =>
      { r with
        held := before ++ [(e.q.toNat, p.popped)]
        ends := (List.range (heldVecs res + p.popped.length)).map fun j =>
          let g := e.dd.vecRange ((e.dd.vecOfElem e0).1 - heldVecs res + j)
          g.1 + g.2 }
    | .stop c => { r with s := giveBack s0 s e res p (used c.e) true (decide (c.cause = .cuffBankUe)) }
    | .wait x _ _ =>
      { r with s := giveBack s0 s e res p (used x) false false
               held := before ++ [(e.q.toNat, p.popped.take (used x))], cur := p.popped[used x]? }

/-! ### The transfers -/

/-- The body of a transfer (R109 to R114). -/
def moveBody (m : Move) (o : XOp) (s : State) (u : SeqId) (e0 : Nat) : Eng :=
  match atElem e0 (fetchEnds noOwn m o s u) with
  | .error c => stopAt s c
  | .ok (s0, e) =>
    let a := accOf s
    let p := pull s0 u e (resumeOf s u) e0
    let g := cutLines s e.dd p.grps p.halt
    let s1 := if e.dd.mem then markDest p.s a e.dd else p.s
    let plan := (g.1.map (planGroup e.dd)).flatten
    let sides := if m.multi then castSides s u e.dd else [sideOf s u e.dd]
    let w := writePlan (.seq u) a sides e.dd.ty (wholePlan e.dd plan g.2.1.elem) plan s1
    settle s0 e (resumeOf s u) e0 { p with keep := p.keep ++ g.2.2 } w.1 ((haltOf w.2).orElse g.2.1)

/-- A transfer word. -/
def moveWord (i : Instr) (y : Sync) (v : Valid) (m : Move) (o : XOp) (s : State) : Out :=
  issueWord i y v (moveDecode m o) noWait (moveEarly m o) (moveBody m o) s

/-- LDS. -/
def execLds (y : Sync) (o : XOp) (s : State) : Out :=
  moveWord (.lds y o) y { l := true, e := true } { srcMem := true } o s
/-- STS. -/
def execSts (y : Sync) (o : XOp) (s : State) : Out :=
  moveWord (.sts y o) y { s := true, e := true } { srcWin := true, dstMem := true, queue := true } o s
/-- MCAST. -/
def execMcast (y : Sync) (o : XOp) (s : State) : Out :=
  moveWord (.mcast y o) y { l := true, e := true } { srcMem := true, multi := true } o s
/-- BCOPY. -/
def execBcopy (y : Sync) (o : XOp) (s : State) : Out :=
  moveWord (.bcopy y o) y { l := true, s := true, e := true } { srcWin := true } o s

/-! ### REDST and the near-memory operations of S and the copy engines -/

/-- Performs the elements of a word at a destination pass one by one, up to a cause or a wait. -/
def putElems (f : State → Grp → Nat → Res (Option State)) (d : Desc) : List Grp → State → State × Halt
  | [], s => (s, .done)
  | g :: gs, s =>
    let addr := d.addr (g.e / groupElems d.ty)
    match atElem g.e (do alignCheck d.ty addr true; f s g (addr % 2 ^ 64).toNat) with
    | .error c => (s, haltOf (some c))
    | .ok none => (s, .wait g.e true none)
    | .ok (some s) => putElems f d gs s

/-- A later visit of a pass names the address of group i. -/
def visitedLater (d : Desc) (i : Nat) : Bool :=
  (List.range (d.groups - i - 1)).any fun k => d.addr (i + 1 + k) == d.addr i

/-- The window of the first element of a pass. -/
def firstWindow (s : State) (d : Desc) : Option (List Nat) :=
  match translate s.dev (accOf s) .both (d.addr 0 % 2 ^ 64).toNat with
  | .ok x => (windowOf s.dev x.pa).map (·.lines)
  | .error _ => none

/-- What one element of an engine REDST does; the word claims its key at its first element (R239, R240). -/
def redstPut (d : Desc) (key : Nat) (s : State) (g : Grp) (va : Nat) : Res (Option State) := do
  let mine := if g.e = 0 then none else firstWindow s d
  let v := BitVec.ofNat 32 (ofBytesLE g.bytes)
  match ← redstElem s d.ty key va v mine (visitedLater d g.e) with
  | .full => pure none
  | .done s' _ => pure (some s')

/-- The body of a word that performs the elements of its source at a memory destination. -/
def putBody (own : Ends → Res Unit) (m : Move) (o : XOp) (f : Ends → State → Grp → Nat → Res (Option State))
    (s : State) (u : SeqId) (e0 : Nat) : Eng × Option Ends :=
  match atElem e0 (fetchEnds own m o s u) with
  | .error c => (stopAt s c, none)
  | .ok (s0, e) =>
    let p := pull s0 u e (resumeOf s u) e0
    let g := cutTurn s p.grps p.halt
    let w := putElems (f e) e.dd g.1 (markDest p.s (accOf s) e.dd)
    (settle s0 e (resumeOf s u) e0 p w.1 (w.2.orElse g.2), some e)

/-- The ends of an engine REDST. A TYPE that no window has differs from its window's (R240). -/
def redstMove : Move := { srcWin := true, dstMem := true, queue := true, also := fun d => !d.mx }

/-- REDST in S or a copy engine (R239 to R242). -/
def execRedstEngine (y : Sync) (o : XOp) (ik : BitVec 4) (s : State) : Out :=
  issueWord (.redstEngine y o ik) y { s := true, e := true } (moveDecode redstMove o) noWait (moveEarly redstMove o)
    (fun s u e0 =>
      let key := (iget (seqOf s u) ik).toNat
      match putBody noOwn redstMove o (fun e => redstPut e.dd key) s u e0 with
      | (r, none) => r
      | (r, some e) =>
        if r.err.isNone && r.wait.isNone then
          match firstWindow r.s e.dd with
          | some l => { r with s := keyDone r.s l key }
          | none => r
        else r) s

/-- The ends of an engine near-memory operation. -/
def nopMove : Move :=
  { srcWin := true, dstMem := true, queue := true, also := fun d => !d.mx && (decide (d.ty = .i32) || decide (d.ty = .f32)) }

/-- The type of a source: that of its pass, or of the destination for a queue. -/
def Ends.srcTy (e : Ends) : Ty := match e.sd with
  | some d => d.ty
  | none => e.dd.ty

/-- The check of R275, made once the type is read and before R110's (R38). -/
def nopPriv (op : Nat) (s : State) (e : Ends) : Res Unit :=
  if op = 0 ∧ e.srcTy = .f32 ∧ detStrict s then raise .priv else .ok ()

/-- One element of a near-memory operation. -/
def nopPut (op : Nat) (u : SeqId) (e : Ends) (s : State) (g : Grp) (va : Nat) : Res (Option State) :=
  (nopAccept s (.seq u) op (decide (e.dd.ty = .f32)) va (BitVec.ofNat 32 (ofBytesLE g.bytes))).map some

/-- A near-memory operation of S or a copy engine (R245, R246, R275). -/
def nopWord (i : Instr) (y : Sync) (op : Nat) (o : XOp) (s : State) : Out :=
  issueWord i y { s := true, e := true } (moveDecode nopMove o) noWait (moveEarly nopMove o)
    (fun s u e0 => (putBody (nopPriv op s) nopMove o (nopPut op u) s u e0).1) s

/-- NMADD of an engine. -/
def execNmaddEngine (y : Sync) (o : XOp) (s : State) : Out := nopWord (.nmaddEngine y o) y 0 o s
/-- NMMIN of an engine. -/
def execNmminEngine (y : Sync) (o : XOp) (s : State) : Out := nopWord (.nmminEngine y o) y 1 o s
/-- NMMAX of an engine. -/
def execNmmaxEngine (y : Sync) (o : XOp) (s : State) : Out := nopWord (.nmmaxEngine y o) y 2 o s

end Sys2Proof.Machine
end

