-- ==== Sys2Proof/Machine/Attention.lean ====
section
/-! DEFINITION. Attention inside the memory (R254 to R270): KV descriptors, QPOST and KAPP, the scan of a bank, and the
push of its triple. -/

namespace Sys2Proof.Machine

/-! ### Cuff pages and KV descriptors (R254 to R256) -/

/-- A KV descriptor: TAG, head dimension, element type BF16 or E4M3, pages and list address. -/
structure Kv where
  tag  : Nat
  dim  : Nat
  bf16 : Bool
  npages : Nat
  list : Nat
  deriving DecidableEq, Repr

/-- Bytes of one element. -/
def Kv.elem (k : Kv) : Nat := if k.bf16 then 2 else 1

/-- The entry size S_e that its pages must have. -/
def Kv.entry (k : Kv) : Nat := 2 * k.dim * k.elem

/-- Entries of a page. -/
def Kv.perPage (k : Kv) : Nat := 2 ^ 21 / k.entry

/-- Element type. -/
def Kv.ty (k : Kv) : Ty := if k.bf16 then .bf16 else .e4m3

/-- The binding of a CUFF page (R254): stack, group, banks of the group, entry size. -/
structure Bind where
  stack : Nat
  group : Nat
  banks : Nat
  entry : Nat
  deriving DecidableEq, Repr

/-- The binding that a CUFF leaf holds (R309). -/
def bindOf (x : Xlat) : Bind :=
  { stack := stackOf x.pa, group := fld x.leaf 12 6, banks := 64 * 4 ^ fld x.leaf 18 2, entry := 256 * 2 ^ fld x.leaf 8 2 }

/-- The descriptor at an address (R256). -/
def readKv (s : State) (a : Nat) : Res (State × Kv) := do
  if a % 64 != 0 then raiseAt .align a
  let (s, bs) ← vread s (accOf s) .l2 a 64
  let n := ofBytesLE bs
  let et := fld n 96 4
  let np := fld n 64 32
  if fld n 128 384 != 0 || fld n 102 10 != 0 || fld n 100 2 == 3 || (et != 0xE && et != 0xB) || np == 0 || np > 65536 then raise .operand
  if fld n 0 64 % 16 != 0 then raiseAt .align (fld n 0 64)
  pure (s, { tag := fld n 112 16, dim := 64 * 2 ^ fld n 100 2, bf16 := et == 0xE, npages := np, list := fld n 0 64 })

/-- A page that is mapped with the right to read or to write. -/
def pageMapped (s : State) (va : Nat) : Res Xlat :=
  match translate s.dev (accOf s) .read va with
  | .ok x => .ok x
  | .error c => if c.cause = .perm then translate s.dev (accOf s) .write va else .error c

/-- A page of the list: its virtual address, translation and scale (R256). -/
def readPage (s : State) (k : Kv) (find : State → Nat → Res Xlat) (i : Nat) : Res (State × Nat × Xlat × BitVec 32) := do
  let (s, bs) ← vread s (accOf s) .l2 (k.list + 16 * i) 16
  let n := ofBytesLE bs
  let va := fld n 0 64
  if fld n 96 32 != 0 then raise .operand
  if va % 2 ^ 21 != 0 then raiseAt .align va
  let x ← find s va
  let s := s.mark x false
  if x.attr != 2 || (bindOf x).entry != k.entry then raiseAt .cuffAttr va
  pure (s, va, x, if k.bf16 then 0x3F800000 else BitVec.ofNat 32 (fld n 64 32))

/-- Pages i to i + n - 1 of the list, all bound as page 0 is. -/
def readPages (k : Kv) (b0 : Option Bind) : Nat → Nat → State → Res (State × List (Nat × BitVec 32) × Option Bind)
  | 0, _, s => .ok (s, [], b0)
  | n + 1, i, s => do
    let (s, va, x, sc) ← readPage s k (fun s va => translate s.dev (accOf s) .read va) i
    let b := bindOf x
    if decide (b0.isSome) && b0 != some b then raiseAt .cuffAttr va
    let (s, l, b1) ← readPages k (some b) n (i + 1) s
    pure (s, (x.pa, sc) :: l, b1)

/-! ### QPOST (R260 to R264) -/

/-- Vectors of a triple (R259). -/
def tripleVecs (dim : Nat) : Nat := if dim == 256 then 3 else 2

/-- The query position of QPOST: a register or a window pop stream of BF16. -/
def querySpec (qa : BitVec 7) : Spec := { code := qa, ty := .bf16 }

/-- Entry number of a home address among the pages of a query. -/
def entryAt (entry : Nat) (pages : List (Nat × BitVec 32)) (pa : Nat) : Option Nat :=
  match pages.findIdx? fun p => p.1 ≤ pa && pa < p.1 + 2 ^ 21 with
  | some k => some (k * (2 ^ 21 / entry) + (pa - ((pages[k]?).getD (0, 0)).1) / entry)
  | none => none

/-- What QPOST reads of memory: descriptor, pages and binding. With L = 0 it reads page 0, which names the group. -/
def readCache (s : State) (ik il : BitVec 4) : Res (State × Kv × List (Nat × BitVec 32) × Bind) := do
  let q := s.core.c
  let (s, k) ← readKv s (iget q ik).toNat
  let len := (iget q il).toNat % 2 ^ 32
  if len > k.npages * k.perPage then raise .operand
  let (s, pages, b) ← readPages k none (max 1 ((len + k.perPage - 1) / k.perPage)) 0 s
  match b with
  | some b => pure (s, k, pages, b)
  | none => raise .operand

/-- A QPOST may be accepted: room for a triple in the queue, in the core and in the stack (R260, R262). -/
def postRoom (s : State) (q : BitVec 3) (dim stack : Nat) : Bool :=
  decide (tripleVecs dim ≤ queueRoom s q)
    && decide ((s.dev.qposts.filter fun p => p.core == s.core.gcore).length < Config.qpostsPerCore)
    && decide ((s.dev.qposts.filter fun p => p.stack == stack).length < Config.qpostsPerStack)

/-- A query as QPOST has read it. -/
def postOf (s : State) (k : Kv) (pages : List (Nat × BitVec 32)) (b : Bind) (il : BitVec 4) (q : BitVec 3) (vec : Nat) : QPost :=
  let l := iget s.core.c il
  let len := l.toNat % 2 ^ 32
  { id := s.dev.nextQid, core := s.core.gcore, asid := s.core.asid, q := q.toNat, stack := b.stack, group := b.group,
    banks := b.banks, dim := k.dim, bf16 := k.bf16, tag := BitVec.ofNat 16 k.tag, len, sigma := l.extractLsb' 32 32
    query := ((lanesOf .bf16 vec).take k.dim).map (BitVec.ofNat 16), pages, entry := k.entry
    holds := [], ready := [], next := 0 }

/-- What QPOST reads before its acceptance, in the order of R260, and where its query stream goes on. -/
def readPost (qa : BitVec 7) (ik il : BitVec 4) (q : BitVec 3) (s : State) : Res (State × QPost × Nat) := do
  let (s, k, pages, b) ← readCache s ik il
  let (s1, vec, _) ← readOne s (querySpec qa) 0
  let pos := match opdOf qa with
    | .g g => (gget s1.core g).pos
    | _ => 0
  pure (s, postOf s k pages b il q vec, pos)

/-- QPOST waits at issue, with what it has read, while its checks pass and there is no room. -/
def postReady (qa : BitVec 7) (ik il : BitVec 4) (q : BitVec 3) (s : State) : Option SWait :=
  let wait (p : QPost) (pos : Nat) : Option SWait := if postRoom s q p.dim p.stack then none else some (.post p pos)
  match s.core.c.wait with
  | .post p pos => wait p pos
  | _ => match specEarly s false (querySpec qa), readPost qa ik il q s with
    | .ok _, .ok (_, p, pos) => wait p pos
    | _, _ => none

/-- The acceptance of a query: its number, the pending appends of its entries (R264), and its reserved slots. -/
def acceptPost (s : State) (qa : BitVec 7) (q : BitVec 3) (p : QPost) (pos : Nat) : State :=
  let holds := (s.dev.appends.filter fun a =>
    a.stack == p.stack && (match entryAt p.entry p.pages a.pa with | some j => decide (j < p.len) | none => false)).map (·.pa)
  let p := { p with id := s.dev.nextQid, holds }
  let core := match opdOf qa with
    | .g g => gsetReg s.core g { gget s.core g with pos }
    | _ => s.core
  let r := qget core q
  { s with core := qsetReg core q { r with rsvd := r.rsvd + tripleVecs p.dim }
           dev := { s.dev with qposts := s.dev.qposts ++ [p], nextQid := s.dev.nextQid + 1 } }

/-- QPOST (R260). -/
def execQpost (y : Sync) (qa : BitVec 7) (ik il : BitVec 4) (q : BitVec 3) (s : State) : Out :=
  issueWord (.qpost y qa ik il q) y { c := true }
    (fun _ _ => if qa.toNat < 0x50 then .ok () else raise .operand)
    (fun s _ => postReady qa ik il q s) (fun s _ => specEarly s false (querySpec qa))
    (fun s _ _ =>
      match s.core.c.wait with
      | .post p pos => { s := acceptPost s qa q p pos }
      | _ => match readPost qa ik il q s with
        | .error c => stopAt s c
        | .ok (s1, p, pos) => { s := acceptPost s1 qa q p pos }) s

/-! ### KAPP (R263) -/

/-- The destination of an entry as a pass: key and value elements stand one after the other (R255). -/
def entryDesc (k : Kv) (va : Nat) : Desc :=
  { sstr := 0, sbase := 0, n0 := 2 * k.dim, n1 := 1, n2 := 1, n3 := 1, s0 := k.elem, s1 := 0, s2 := 0, s3 := 0, ty := k.ty,
    mem := true, push := true, swz := 0, mx := false, align0 := false, wrap := false, cmask := 0, base := va }

/-- The source of KAPP (R263). -/
def kappMove : Move := { srcWin := true, dstMem := true, queue := true, dDesc := true }

/-- The issue-cycle check of a source stream register. -/
def sourceEarly (win mem mx : Bool) (o : XOp) (s : State) (u : SeqId) : Res Unit :=
  if o.f || o.src.toNat ≥ 16 || !(keptDescs s u).isEmpty then .ok ()
  else
    let d := gdesc s.core (o.src.setWidth 4)
    if d.push || (d.mx && !mx) || !(if d.mem then mem else win) then raise .operand else .ok ()

/-- The source descriptor of a word whose D is no transfer descriptor: the one that it keeps (R102), or as it finds it. -/
def fetchSource (o : XOp) (s : State) (u : SeqId) : Res (State × List Nat) :=
  if o.src.toNat ≥ 16 then .ok (s, [])
  else match keptDescs s u with
    | [] =>
      if o.f then (readDesc s u (o.src.setWidth 4)).map fun r => (r.1, [r.2])
      else .ok (s, [(gget s.core (o.src.setWidth 4)).desc.toNat])
    | l => .ok (s, l)

/-- The ends of KAPP: the entry that i[ij] names, its stack and home address. -/
def kappEnds (o : XOp) (ij : BitVec 4) (s : State) (u : SeqId) : Res (State × Ends × Append) := do
  let (s, k) ← readKv s (iget (seqOf s u) o.d).toNat
  let (s, l) ← fetchSource o s u
  let sd := l.head?.map descOf
  match sd with
  | some d => if d.mem || d.push || d.mx || decide (d.ty ≠ k.ty) || d.total != 2 * k.dim then raise .operand
  | none => pure ()
  let j := (iget (seqOf s u) ij).toNat
  if j ≥ k.npages * k.perPage then raise .operand
  let (s, va, x, _) ← readPage s k (fun s va => translate s.dev (accOf s) .write va) (j / k.perPage)
  if j / k.perPage != 0 then
    let (_, _, x0, _) ← readPage s k pageMapped 0
    if bindOf x0 != bindOf x then raiseAt .cuffAttr va
  let off := j % k.perPage * k.entry
  pure (s, { sd, q := srcQueue o.src, dd := entryDesc k (va + off), descs := l }, { stack := stackOf x.pa, pa := x.pa + off, len := k.entry, frame := s.core.taskFrame })

/-- The word has been accepted before, and its pending append stands. -/
def kappAgain (s : State) (u : SeqId) (a : Append) : Bool := ((resumeOf s u).map (·.issued)).getD false && s.dev.appends.contains a

/-- KAPP waits while its stack's table of pending appends is full. -/
def kappReady (o : XOp) (ij : BitVec 4) (s : State) (u : SeqId) : Option SWait :=
  match kappEnds o ij s u with
  | .error _ => none
  | .ok (_, _, a) =>
    if !kappAgain s u a && (s.dev.appends.filter fun p => p.stack == a.stack).length ≥ Config.appendsPerStack then some .counted
    else none

/-- The coordinator records the pending append of a KAPP as it accepts it (R263). -/
def recordAppend (s : State) (u : SeqId) (a : Append) : State :=
  if kappAgain s u a then s else s.onDev fun d => { d with appends := d.appends ++ [a] }

/-- KAPP has written its entry whole. -/
def wholeAppend (a : Append) (r : Eng) : Eng :=
  if r.err.isSome || r.wait.isSome then r
  else { r with s := r.s.onDev fun d => { d with appends := d.appends.map fun p => if p == a then { p with whole := true } else p } }

/-- A task of a checking launch (R357). -/
def checking (s : State) : Bool := (accOf s).run != 0

/-- KAPP (R263). -/
def execKapp (y : Sync) (o : XOp) (ij : BitVec 4) (s : State) : Out :=
  issueWord (.kapp y o ij) y { s := true } (moveDecode kappMove o) (kappReady o ij) (sourceEarly true false false o)
    (fun s u e0 =>
      match atElem e0 (kappEnds o ij s u) with
      | .error c => stopAt s c
      | .ok (s0, e, ap) =>
        if checking s then
          stopAt s { cause := .pleatAttr, addr := some (BitVec.ofNat 64 e.dd.base), write := true, e := e0, info := BitVec.ofNat 64 e0 }
        else
          let p := pull (recordAppend s0 u ap) u e (resumeOf s u) e0
          let g := cutTurn s p.grps p.halt
          let plan := (g.1.map (planGroup e.dd)).flatten
          let w := writePlan (.seq u) (accOf s) [.mem] e.dd.ty plan plan (markDest p.s (accOf s) e.dd)
          wholeAppend ap (settle s0 e (resumeOf s u) e0 p w.1 ((haltOf w.2).orElse g.2))) s

/-- Removes the first occurrence. -/
def eraseOne (n : Nat) : List Nat → List Nat
  | [] => []
  | x :: xs => if x == n then xs else x :: eraseOne n xs

/-- The KAPP of a pending append has yet to write the rest of its entry: it waits, or it has stopped on a cause and may be
resumed, also in a saved task. -/
def appendOpen (s : State) (a : Append) : Bool :=
  !a.whole && (s.dev.saved.any (fun v => v.taskFrame == a.frame) || (allCores s).any fun c =>
    c.task.isSome && c.taskFrame == a.frame && (c.s.resume.any (·.issued) || c.s.cause.any (·.issued)))

/-- The home slice writes a pending append through to home memory and clears it, once its entry is written whole (R263). What
an append becomes whose KAPP is discarded part-way the manual does not say: the slice writes through what there is (DESIGN
CHOICE, log entry 43). -/
def execKappWriteThrough (k : Nat) (s : State) : Out :=
  match s.dev.appends[k]? with
  | none => .refused (.cannotOccur "append write-through")
  | some a =>
    if appendOpen s a then .refused (.cannotOccur "append write-through") else
    let d := wbWhere s.dev fun pa => decide (a.pa ≤ pa) && decide (pa < a.pa + a.len)
    .next { s with dev := { d with
      appends := d.appends.eraseIdx k
      qposts := d.qposts.map fun q => { q with holds := eraseOne a.pa q.holds } } }

/-! ### The scan of a bank (R257) -/

/-- Rd: rounded to F32, to nearest even. -/
def rd32 (r : FRes) : Nat × FFlags := deliverRes .f32 { mode := .rne } r

/-- The value of an F32 pattern. -/
def f32v (b : Nat) : FVal := FKind.f32.fmt.value b

/-- Neighbours of a list joined by Rd of their sum. -/
def pairSums : List Nat → List Nat × FFlags
  | a :: b :: l =>
    let x := rd32 (addVal .rne (f32v a) (f32v b))
    let r := pairSums l
    (x.1 :: r.1, x.2 ||| r.2)
  | l => (l, 0)

/-- The adder tree, on the number of levels. -/
def treeSum : Nat → List Nat → Nat × FFlags
  | 0, l => (l.headD 0, 0)
  | n + 1, l =>
    let x := pairSums l
    let r := treeSum n x.1
    (r.1, x.2 ||| r.2)

/-- Elements of an entry's half as values. -/
def cacheElems (d : Dev) (bf16 : Bool) (pa n : Nat) : List FVal :=
  (List.range n).map fun t =>
    if bf16 then FKind.bf16.fmt.value (ofBytesLE [hbmByte d (pa + 2 * t), hbmByte d (pa + 2 * t + 1)])
    else FKind.e4m3.fmt.value (hbmByte d (pa + t)).toNat

/-- Home address and page scale of entry j of a query. -/
def entryPa (q : QPost) (j : Nat) : Nat × BitVec 32 :=
  let per := 2 ^ 21 / q.entry
  let p := (q.pages[j / per]?).getD (0, 0)
  (p.1 + j % per * q.entry, p.2)

/-- The score of an entry. -/
def scoreOf (d : Dev) (q : QPost) (j : Nat) : Nat × FFlags :=
  let e := entryPa q j
  let sg := rd32 (mulVal (f32v q.sigma.toNat) (f32v e.2.toNat))
  let ks := cacheElems d q.bf16 e.1 q.dim
  let xs := (q.query.zip ks).map fun p => rd32 (mulVal (FKind.bf16.fmt.value p.1.toNat) p.2)
  let tr := treeSum (Nat.log2 q.dim) (xs.map (·.1))
  let r := rd32 (mulVal (f32v tr.1) (f32v sg.1))
  (r.1, sg.2 ||| unionFlags (xs.map (·.2)) ||| tr.2 ||| r.2)

/-- One entry joined to the running sum and accumulators. -/
def scanEntry (d : Dev) (q : QPost) (m : FVal) (st : Nat × List Nat × FFlags) (js : Nat × Nat) : Nat × List Nat × FFlags :=
  let e := entryPa q js.1
  let df := rd32 (subVal .rne (f32v js.2) m)
  let ex := rd32 (elemVal .exp (f32v df.1))
  let sum := rd32 (addVal .rne (f32v st.1) (f32v ex.1))
  let vs := cacheElems d q.bf16 (e.1 + q.entry / 2) q.dim
  let acc := (st.2.1.zip vs).map fun p =>
    let v := rd32 (mulVal p.2 (f32v e.2.toNat))
    let r := rd32 (fmaVal .rne false false (f32v ex.1) (f32v v.1) (f32v p.1))
    (r.1, v.2 ||| r.2)
  (sum.1, acc.map (·.1), st.2.2 ||| df.2 ||| ex.2 ||| sum.2 ||| unionFlags (acc.map (·.2)))

/-- The entries of a bank, ascending. -/
def bankEntries (q : QPost) (b : Nat) : List Nat :=
  if q.len ≤ b then [] else (List.range ((q.len - b + q.banks - 1) / q.banks)).map fun k => b + k * q.banks

/-- The vectors of a triple: head lanes and accumulators (R259). -/
def tripleOf (q : QPost) (b stat : Nat) (fl : FFlags) (m sum : Nat) (acc : List Nat) : List VReg :=
  let head := [m, sum, stat + 4 * fl.toNat, (q.banks * q.group + b) * 2 ^ 16 + q.stack * 2 ^ 12 + b,
    (bankEntries q b).length, q.tag.toNat]
  BitVec.ofNat 4096 (packLanes .f32 head) :: (List.range (tripleVecs q.dim - 1)).map fun j =>
    BitVec.ofNat 4096 (packLanes .f32 ((acc.drop (128 * j)).take 128))

/-- The triple of a bank (R257). -/
def scanBank (d : Dev) (q : QPost) (b : Nat) (corrected : Bool) : List VReg :=
  let js := bankEntries q b
  let sc := js.map (scoreOf d q)
  let vals := sc.map fun x => f32v x.1
  let m := (firstNan vals).getD (vals.foldl maxVal (.inf true))
  let r := (js.zip (sc.map (·.1))).foldl (scanEntry d q m) (0, List.replicate q.dim 0, unionFlags (sc.map (·.2)))
  tripleOf q b (if corrected then 1 else 0) r.2.2 (rd32 ⟨m, 0⟩).1 r.1 r.2.1

/-- A bank of an earlier query of the same stack that covers a physical bank has yet to be scanned (R262). -/
def scanBefore (d : Dev) (q : QPost) (b : Nat) : Bool :=
  let phys := q.banks * q.group + b
  d.qposts.any fun p =>
    p.id < q.id && p.stack == q.stack && p.banks * p.group ≤ phys && phys < p.banks * (p.group + 1)
      && p.next ≤ phys - p.banks * p.group && (slook p.ready (phys - p.banks * p.group)).isNone

/-- A pending append holds a bank (R264). -/
def bankHeld (q : QPost) (b : Nat) : Bool :=
  q.holds.any fun pa => match entryAt q.entry q.pages pa with
    | some j => j % q.banks == b
    | none => false

/-- Replaces a query of the device. -/
def putPost (d : Dev) (q : QPost) : Dev := { d with qposts := d.qposts.map fun p => if p.id == q.id then q else p }

/-- The words of the entries of a bank are read: rows that hold an uncorrectable error are demoted, and a correctable one
is written back and logged (R376, R378). Answers whether one of either kind was met. -/
def scanReads (s : State) (q : QPost) (bank : Nat) : State × Bool × Bool :=
  let pas := (bankEntries q bank).map fun j => (entryPa q j).1
  let bad := s.dev.badWords.filter fun w => pas.any fun pa => decide (pa / 32 ≤ w) && decide (w < (pa + q.entry) / 32)
  let soft := s.dev.softWords.any fun w => pas.any fun pa => decide (pa / 32 ≤ w) && decide (w < (pa + q.entry) / 32)
  let s := if soft then pas.foldl (fun s pa => correctSoft s pa q.entry) s else s
  (s.onDev fun d => bad.foldl (fun d w => demote d (rowKey w)) d, !bad.isEmpty, soft)

/-- A bank finishes its scan (R257, R264, R268). It reads its entries in one step, at that moment; for an entry that a
write races with, rule 3 of R264 leaves open that its key and its value come from different writes (DESIGN CHOICE, log
entry 7). -/
def execBankScanComplete (qid bank : Nat) (ecc : EccOutcome) (s : State) : Out :=
  match s.dev.qposts.find? fun q => q.id == qid with
  | none => .refused (.cannotOccur "bank scan")
  | some q =>
    if bank ≥ q.banks || bank < q.next || (slook q.ready bank).isSome || scanBefore s.dev q bank || bankHeld q bank then
      .refused (.cannotOccur "bank scan")
    else
      let r := scanReads s q bank
      let bad := decide (ecc = .uncorrectable) || r.2.1
      let t := if bad then tripleOf q bank 2 0 0x7FC00000 0x7FC00000 (List.replicate q.dim 0x7FC00000)
        else scanBank s.dev q bank (decide (ecc = .corrected) || r.2.2)
      .next (r.1.onDev fun d => putPost d { q with ready := sput (t, bad) q.ready bank })

/-- The vectors of a triple as the queue holds them. -/
def queued (t : List VReg × Bool) : List QVec :=
  match t.1 with
  | [] => []
  | h :: r =>
    let mark : Option (BitVec 32) := if t.2 then some (h.extractLsb' 96 32) else none
    { data := h, ue := mark } :: r.map fun v => { data := v, ue := none }

/-- The coordinator pushes the next triple of a query (R261): in QPOST order per queue, into its reserved slots. One with
STAT = 2 sets CORRUPT in the attempt that its task has open then (R268). -/
def execTriplePush (qid : Nat) (s : State) : Out :=
  match s.dev.qposts.find? fun q => q.id == qid with
  | none => .refused (.cannotOccur "triple push")
  | some q =>
    if q.core ≥ Config.cores || s.dev.qposts.any (fun p => p.id < q.id && p.core == q.core && p.q == q.q) then
      .refused (.cannotOccur "triple push")
    else match slook q.ready q.next with
      | none => .refused (.cannotOccur "triple push")
      | some t =>
        let c := coreAt s q.core
        let n := BitVec.ofNat 3 q.q
        let r := qget c n
        let last := q.next + 1 == q.banks
        if r.vecs.length + r.held + r.rsvd > Config.queueVectors then .refused (.cannotOccur "triple push")
        else
          let r' := { r with vecs := r.vecs ++ queued t, rsvd := if last then r.rsvd - tripleVecs q.dim else r.rsvd }
          let s1 := putCore s q.core { qsetReg c n r' with ev := c.ev ||| 16 }
          let d := if last then { s1.dev with qposts := s1.dev.qposts.filter fun p => p.id != qid }
            else putPost s1.dev { q with next := q.next + 1, ready := sdel q.ready q.next }
          let d := if t.2 && seamEn d && q.asid == seamAsid d && c.txnAid == some d.seam.aid then flagAttempt d flCorrupt else d
          .next { s1 with dev := d }

end Sys2Proof.Machine
end

