-- ==== Sys2Proof/Machine/Remote.lean ====
section
/-! DEFINITION. XFER and RSIG (R249, R250). -/

namespace Sys2Proof.Machine

/-- TRAP_INFO of a LINK cause: rank and element (R366). -/
def linkInfo (rank e : Nat) : Word := BitVec.ofNat 64 (rank % 2 ^ 12 + 2 ^ 16 * min e (2 ^ 48 - 1))

/-- A route to a rank remains: a trained port, and the rank is not known to be lost (R375). -/
def hasRoute (d : Dev) (rank : Nat) : Bool := d.ports.toList.any (·.up) && !d.lostRanks.contains rank

/-- The rank that XFER names in an index register is another device (R249). -/
def xferRank (ip : BitVec 4) (s : State) (u : SeqId) : Res Nat :=
  let r := (iget (seqOf s u) ip).toNat
  if r ≥ 4096 || r == ownRank s.dev then raise .operand else .ok r

/-- The ends of XFER. -/
def xferMove : Move := { srcWin := true, srcMem := true, dstMem := true, queue := true, dDesc := true }

/-- The byte ranges of a destination extent, and of its scales (R313). -/
def extRanges (d : Desc) : List (Nat × Nat) :=
  let nat (x : Int) : Nat := (x % 2 ^ 64).toNat
  let sc := (d.scaleAddr 0, d.scaleAddr ((d.total + 31) / 32 - 1))
  (nat d.extent.1, nat d.extent.2) :: (if d.mx then [(nat (min sc.1 sc.2), nat (max sc.1 sc.2 + 1))] else [])

/-- Sends the elements of a pass to a rank; the first element of the word declares its extent. -/
def sendElems (rank : Nat) (u : SeqId) (d : Desc) (gs : List Grp) (s : State) : State :=
  s.onDev fun dv => gs.foldl (fun dv g => (planGroup d g).foldl (fun dv w =>
    dv.send (.xferElem rank s.core.gcore u s.core.asid (BitVec.ofInt 64 w.addr) (w.bytes.map (·.1))
      (if g.e = 0 then extRanges d else []))) dv) dv

/-- The groups before the first whose destination address is not aligned for its type (R95), and how the word ends there. -/
def alignedUpTo (d : Desc) : List Grp → Halt → List Grp × Halt
  | [], h => ([], h)
  | g :: gs, h =>
    match atElem g.e (alignCheck d.ty (d.addr (g.e / groupElems d.ty)) true) with
    | .error c => ([], .stop c)
    | .ok _ => let r := alignedUpTo d gs h; (g :: r.1, r.2)

/-- Reads the source of an XFER from element e0 on. -/
def pullXfer (s : State) (u : SeqId) (e : Ends) (res : Option Resume) (e0 : Nat) : Pull :=
  match e.sd with
  | some sd =>
    let i := e0 / groupElems sd.ty
    let r := passKept (.seq u) (accOf s) (sideOf s u sd) sd ((res.map (·.keep)).getD []) (sd.groups - i) i s
    { s := r.1, grps := r.2.1, halt := haltOf r.2.2, keep := r.2.1 }
  | none => pull s u e none e0

/-- XFER from its ends (R249): it sends the elements before the first that stops it, and is complete when the peer has
accepted them. While its source cannot be read it waits at its first element, with what it has read. -/
def xferBody (rank : Nat) (s0 : State) (u : SeqId) (e : Ends) (e0 : Nat) : Eng :=
  let p := pullXfer s0 u e (resumeOf s0 u) e0
  match p.halt with
  | .wait _ counted ask =>
    let r := endEng p.s (.wait e0 counted ask) e.descs p.keep
    if e.sd.isSome then r else { r with s := giveBack s0 p.s e none p 0 true false }
  | h =>
    match alignedUpTo e.dd p.grps h with
    | ([], .stop c) => settle s0 e none e0 p p.s (.stop c)
    | (gs, h) =>
      { settle s0 e none e0 p (sendElems rank u e.dd gs p.s) .done with
        kind := .peer, done := false, rank, e := e0, descs := e.descs
        stop := match h with
          | .stop c => some { c with descs := e.descs }
          | _ => none }

/-- XFER (R249): the word is complete when the peer has accepted every element. -/
def execXfer (y : Sync) (o : XOp) (ip : BitVec 4) (s : State) : Out :=
  issueWord (.xfer y o ip) y { s := true, e := true }
    (fun s u => do
      moveDecode xferMove o s u
      let _ ← xferRank ip s u
      pure ())
    noWait (sourceEarly true true true o)
    (fun s u e0 =>
      match atElem e0 (fetchEnds noOwn xferMove o s u), atElem e0 (xferRank ip s u) with
      | .error c, _ => stopAt s c
      | _, .error c => stopAt s c
      | .ok (s0, e), .ok rank =>
        if checking s then stopAt s0 { cause := .pleatAttr, addr := some (BitVec.ofNat 64 e.dd.base), write := true, e := e0, info := BitVec.ofNat 64 e0 }
        else if !hasRoute s.dev rank then stopAt s0 { cause := .peerLost, info := linkInfo rank e0, e := e0 }
        else xferBody rank s0 u e e0) s

/-- The target of an RSIG (R250): rank and global core. -/
def rsigTarget (inc : BitVec 2) (ip : BitVec 4) (s : State) (u : SeqId) : Res (Nat × Nat) :=
  let n := (iget (seqOf s u) ip).toNat
  let core := fld n 16 9
  if inc = 0 || n != fld n 0 12 + 2 ^ 16 * core || core ≥ Config.cores then raise .operand else .ok (fld n 0 12, core)

/-- The increment that an INC field stands for (R22, R250). -/
def incOf (inc : BitVec 2) : Nat := match inc.toNat with | 1 => 1 | 2 => 2 | 3 => 4 | _ => 0

/-- A signal to a core of the package under an ASID (R250, R292): the target's resident task holds that ASID. -/
def signalCore (s : State) (g src : Nat) (sem : BitVec 8) (inc : Nat) : Res State :=
  let c := coreAt s g
  if c.task.isNone || c.asid != s.core.asid then raise .perm
  else match semAdd c src sem inc with
    | .error .refused => raise .perm
    | .error .overflow => raise .semOvf (sem.setWidth 64)
    | .ok c => .ok (putCore s g c)

/-- A write of a unit is not yet performed at its level: an N operation, or an XFER's writes at a peer. -/
def writesPending (s : State) (u : SeqId) : Bool :=
  nopsPending s (.seq u) || s.dev.peerOut.any fun p => decide (p.unit = u) && (p.core == s.core.gcore || isCopy u)

/-- RSIG (R250). At the device's own rank it waits for the earlier writes of its unit. -/
def execRsig (y : Sync) (sem : BitVec 8) (inc : BitVec 2) (ip : BitVec 4) (s : State) : Out :=
  issueWord (.rsig y sem inc ip) y { s := true, e := true }
    (fun s u => do
      let _ ← rsigTarget inc ip s u
      pure ())
    noWait noCheck
    (fun s u _ =>
      match rsigTarget inc ip s u with
      | .error c => stopAt s c
      | .ok (rank, core) =>
        if checking s then stopAt s { cause := .pleatAttr, addr := some 0 }
        else if rank == ownRank s.dev then
          let src := if core == s.core.gcore then sourceBit u else 6
          if writesPending s u then { s, wait := some 0, counted := false } else
          match signalCore s core src sem (incOf inc) with
          | .error c => stopAt s c
          | .ok s1 => { s := s1 }
        else if !hasRoute s.dev rank then stopAt s { cause := .peerLost, info := linkInfo rank 0 }
        else
          { s := s.onDev (·.send (.rsig rank s.core.gcore u s.core.asid core sem (incOf inc)))
            kind := .peer, done := false, rank }) s

end Sys2Proof.Machine
end

