-- ==== Sys2Proof/Machine/Csr.lean ====
section
/-! DEFINITION. The control and status registers: their fields (R9, R39 to R41, R74 to R76, R293, R297, R299, R304, R349,
R366, R367), and CSRR and CSRW (R368). -/

namespace Sys2Proof.Machine

/-- FCTL after a write (R74). -/
def fctlPut (old new : Word) : Word :=
  let rm := fld new.toNat 0 3
  (new &&& 0x1F08) ||| (if rm ≤ 4 then BitVec.ofNat 64 rm else old &&& 7)

/-- FSTAT or VFSTAT after a write (R75). -/
def fstatPut (new : Word) : Word := new &&& 0x1F

/-- VFCTL after a write (R76). -/
def vfctlPut (old new : Word) : Word :=
  let rm := fld new.toNat 0 3
  (new &&& 0xFFFFFFFF00001F30) ||| (if rm ≤ 5 then BitVec.ofNat 64 rm else old &&& 7)

/-- TRAP_VEC after a write (R367). -/
def vecPut (new : Word) : Word := new &&& ~~~3

/-- WDOG_LIMIT after a write (R299). -/
def wdogPut (new : Word) : Word := new &&& 0xFFFFFFFF

/-- The device has an attempt that is not decided. -/
def attemptLive (d : Dev) : Bool := d.seam.state = .opened || d.seam.state = .voted || d.seam.state = .indoubt

/-- TXN_AID of a task (R349). -/
def txnWord (d : Dev) (t : Option (BitVec 16)) : Nat :=
  match t with
  | some a => a.toNat + (if attemptLive d && d.seam.aid == a then 2 ^ 16 else 0)
  | none => 0

/-- TXN_AID.VALID of the task on the core in focus. -/
def txnValid (s : State) : Bool := attemptLive s.dev && s.core.txnAid == some s.dev.seam.aid

/-- CORE_ID (R9). -/
def coreId (g : Nat) : Nat := g * 2 ^ 16 + g / 72 * 2 ^ 14 + g % 72 / 8 * 2 ^ 10 + g % 8 * 2 ^ 7

/-- Commands of a sequencer that are accepted and not complete (R41). -/
def qcnt (q : Seq) : Nat := q.queue.length + (if q.running then 1 else 0)

/-- EBUSY (R41). -/
def ebusy (c : Core) : Nat :=
  let b (q : Seq) : Nat := ofBit (qcnt q != 0)
  b c.l + 2 * b c.c + 4 * b c.s + 2 ^ 6 * qcnt c.l + 2 ^ 9 * qcnt c.c + 2 ^ 12 * qcnt c.s

/-- The WSTATE register of a wait, given its count of cycles, which depends on timing (R297). -/
def wstate (w : SWait) (cyc : BitVec 32) : Nat :=
  let hi := cyc.toNat * 2 ^ 32
  match w with
  | .sem n thr => hi + 2 ^ 30 + 2 ^ 13 * n.toNat + thr.toNat
  | .pop f t => hi + 2 ^ 31 + 2 ^ 11 * f.toNat + 2 ^ 9 * t.toNat
  | .push f t => hi + 3 * 2 ^ 30 + 2 ^ 11 * f.toNat + 2 ^ 9 * t.toNat
  | _ => 0

/-- SEAMST (R347). -/
def seamst (m : Seam) : Word :=
  let st := match m.state with
    | .disabled => 0 | .waitnext => 1 | .idle => 2 | .opened => 3 | .voted => 4 | .indoubt => 5
  let fl := if m.state = .opened || m.state = .voted then m.flags.toNat else 0
  let aid := if st ≥ 2 then m.aid.toNat else 0
  BitVec.ofNat 64 (st * 2 ^ 61 + fl * 2 ^ 55 + m.frank % 2 ^ 12 * 2 ^ 43 + m.lOut.toNat * 2 ^ 41 + m.lFlags.toNat * 2 ^ 35
    + m.lAid.toNat * 2 ^ 16 + aid)

/-- What WSTATE describes: the first unmet condition of the next word, tested now, and for a word that has raised
SYNC.WAIT_TIMEOUT the one that it waited for (R297). -/
def waitNow (s : State) (u : SeqId) : SWait :=
  let q := seqOf s u
  match q.cause with
  | some c => if c.cause = .waitTimeout then q.wait else .none
  | none =>
    if !q.running || (q.resume.map (·.issued)).getD false then .none
    else ((heldSync s u).bind (issueTests s u)).getD .none

/-- Reads a sequencer's WSTATE. -/
def readWstate (s : State) (u : SeqId) : State × Word :=
  let r := s.draw
  (r.1, BitVec.ofNat 64 (wstate (waitNow s u) (r.2.setWidth 32)))

/-- The value of a listed CSR; none for a number that R39 does not list. -/
def csrRead (s : State) (n : Nat) : Option (State × Word) :=
  let c := s.core
  let here (w : Word) : Option (State × Word) := some (s, w)
  if h : 0x10 ≤ n ∧ n < 0x18 then here (c.seqno[n - 0x10]'(by omega))
  else match n with
    | 0x000 => here c.fctl
    | 0x001 => here c.fstat
    | 0x002 => here c.vfctl
    | 0x003 => here c.vfstat
    | 0x400 => here (BitVec.ofNat 64 (coreId c.gcore))
    | 0x401 => here c.taskFrame
    | 0x402 => here c.regionId
    | 0x403 => here (c.asid.setWidth 64 ||| (if c.sealBit then 0x1000 else 0))
    | 0x404 => here s.cycle
    | 0x405 => here (BitVec.ofNat 64 (txnWord s.dev c.txnAid))
    | 0x406 => here (if txnValid s then BitVec.ofNat 64 (fld (seamst s.dev.seam).toNat 55 6) else 0)
    | 0x407 => here (BitVec.ofNat 64 (ebusy c))
    | 0x408 => some (readWstate s .l)
    | 0x409 => some (readWstate s .c)
    | 0x40A => some (readWstate s .s)
    | 0x800 => here c.trapCause
    | 0x801 => here c.trapPc
    | 0x802 => here c.trapAddr
    | 0x803 => here c.trapInfo
    | 0x804 => here c.trapVec
    | 0x805 => here c.wdogLimit
    | _ => none

/-- A core after a write of a listed CSR; RO fields and registers keep their values. -/
def csrPut (c : Core) (n : Nat) (v : Word) : Core :=
  if h : 0x10 ≤ n ∧ n < 0x18 then { c with seqno := c.seqno.set (n - 0x10) v (by omega) }
  else match n with
    | 0x000 => { c with fctl := fctlPut c.fctl v }
    | 0x001 => { c with fstat := fstatPut v }
    | 0x002 => { c with vfctl := vfctlPut c.vfctl v }
    | 0x003 => { c with vfstat := fstatPut v }
    | 0x801 => { c with trapPc := v }
    | 0x802 => { c with trapAddr := v }
    | 0x803 => { c with trapInfo := v }
    | 0x804 => { c with trapVec := vecPut v }
    | 0x805 => { c with wdogLimit := wdogPut v }
    | _ => c

/-- The number is of the class that only handler mode may access (R39). -/
def csrPrivileged (n : Nat) : Bool := n / 1024 == 2

/-- CSRR. -/
def execCsrr (d : BitVec 5) (num : BitVec 12) (s : State) : Out :=
  match csrRead s num.toNat with
  | none => insnX s .illegal (.csrr d num)
  | some (s1, v) => if csrPrivileged num.toNat && !s.core.handler then insnX s .priv (.csrr d num) else nextX (xset s1 d v)

/-- CSRW. -/
def execCsrw (num : BitVec 12) (a : BitVec 5) (s : State) : Out :=
  match csrRead s num.toNat with
  | none => insnX s .illegal (.csrw num a)
  | some _ =>
    if csrPrivileged num.toNat && !s.core.handler then insnX s .priv (.csrw num a)
    else nextX { s with core := csrPut s.core num.toNat (xget s a) }

end Sys2Proof.Machine
end

