-- ==== Sys2Proof/Machine/Frame.lean ====
section
/-! DEFINITION. The context frame (R372): its bytes from a core, and the core that its bytes restore (R373). -/

namespace Sys2Proof.Machine

/-- A part of the frame: its offset, its length, and the byte at an offset within it. -/
structure Seg where
  off  : Nat
  len  : Nat
  byte : Nat → Nat

/-- The byte of a frame at an offset; bytes that no part covers are zero. -/
def segByte : List Seg → Nat → Nat
  | [], _ => 0
  | g :: gs, k => if g.off ≤ k && k < g.off + g.len then g.byte (k - g.off) else segByte gs k

/-- A part that holds one number. -/
def numSeg (off len n : Nat) : Seg := { off, len, byte := byteAt n }

/-- A part that holds a list of numbers of a byte width. -/
def listSeg (off w : Nat) (l : List Nat) : Seg :=
  { off, len := w * l.length, byte := fun k => byteAt ((l[k / w]?).getD 0) (k % w) }

/-- A cause as the frame holds it: its code, and bit 15 for valid. -/
def causeHalf (c : Option (UnitId × CauseRec)) : Nat :=
  match c with
  | some (u, r) => (causeCode r.cause (unitCode u)).toNat + 2 ^ 15
  | none => 0

/-- Element of a sequencer's stopped or resumed word. -/
def seqElem (q : Seq) : Nat :=
  match q.cause, q.resume with
  | some c, _ => c.e
  | none, some r => r.e
  | none, none => 0

/-- The block of a sequencer. -/
def seqSegs (off : Nat) (u : SeqId) (q : Seq) : List Seg :=
  [numSeg off 8 ((q.cause.map (·.pc)).getD q.pc).toNat, numSeg (off + 8) 8 (seqElem q),
   numSeg (off + 16) 2 (causeHalf (q.cause.map fun c => (.seq u, c))),
   numSeg (off + 18) 1 (ofBit q.running + 2 * ofBit q.cause.isSome), numSeg (off + 20) 1 q.queue.length,
   listSeg (off + 32) 8 (q.queue.map fun e => [e.1.toNat, e.2.toNat]).flatten]

/-- The numbers of a vector of words. -/
def wordsOf {n : Nat} (v : Vector Word n) : List Nat := v.toList.map (·.toNat)

/-- Places of the images of a0 to a3, gp and wp. -/
def imageSegs (c : Core) : List Seg :=
  [(.a0, 0xA000), (.a1, 0x22200), (.a2, 0x3A400), (.a3, 0x52600), (.gp, 0x6A800), (.wp, 0x82A00)].map fun (t, off) =>
    { off, len := if t = .wp then 86528 else 98816, byte := imageByte c t }

/-- The registers part of the frame. The bytes of p0 hold what its storage holds, zero or what a word has written to it, although
p0 reads all-true (R10, R372; the manual does not say which the frame holds: DESIGN CHOICE, log entry 92). -/
def coreSegs (d : Dev) (c : Core) (pending : Bool) (old17 : List Nat) (sp : Nat) : List Seg :=
  [numSeg 0 4 1, numSeg 4 4 (ofBit c.handler + 2 * ofBit pending + 4 * ofBit (decide (c.xwait ≠ .none))),
   numSeg 8 8 c.pc.toNat, numSeg 0x10 2 (causeHalf c.delivered), numSeg 0x18 4 sp,
   numSeg 0x1C 4 (c.taskFrame.toNat % 2 ^ 22), listSeg 0x40 1 old17, listSeg 0x100 8 (0 :: (wordsOf c.x).tail),
   listSeg 0x200 8 (wordsOf c.l.idx ++ wordsOf c.c.idx ++ wordsOf c.s.idx),
   listSeg 0x380 1 [c.vrb.toNat, c.prb.toNat, c.ev.toNat], listSeg 0x390 1 c.tok.toList,
   listSeg 0x400 8 [c.fctl.toNat, c.fstat.toNat, c.vfctl.toNat, c.vfstat.toNat, txnWord d c.txnAid],
   numSeg 0x428 8 (ofBit c.snapshot.isSome), listSeg 0x430 8 [c.trapVec.toNat, c.wdogLimit.toNat],
   listSeg 0x440 8 (wordsOf c.seqno ++ ((c.snapshot.map wordsOf).getD []))]
   ++ seqSegs 0x500 .l c.l ++ seqSegs 0x580 .c c.c ++ seqSegs 0x600 .s c.s ++
  [listSeg 0x700 2 (c.sem.toList.map (·.toNat)), listSeg 0x900 1 (c.semMask.toList.map (·.toNat)),
   { off := 0xA00, len := 1024, byte := fun k => (laneFlag c k).toNat },
   listSeg 0xE00 64 (c.q.toList.map (·.vecs.length)),
   { off := 0x1000, len := 2048, byte := fun k =>
      let r := gget c (BitVec.ofNat 4 (k / 128))
      if k % 128 < 64 then byteAt r.desc.toNat (k % 128) else if k % 128 < 72 then byteAt r.pos (k % 128 - 64) else 0 },
   listSeg 0x1800 128 (c.p.toList.map (·.toNat)), listSeg 0x2000 512 (c.v.toList.map (·.toNat))]
   ++ imageSegs c ++
  (List.range 8).map fun n =>
    listSeg (0xA0000 + 0x10000 * n) 512 ((qget c (BitVec.ofNat 3 n)).vecs.map (·.data.toNat))

/-- The allocation part of the frame: tags and bytes of the cluster window (R283). -/
def windowSegs (d : Dev) (c : Core) (t : Task) : List Seg :=
  let cl := clusterOf c.gcore
  [{ off := 0x120000, len := t.spsize / 128, byte := fun k => tagOf d cl (t.spbase / 128 + k) },
   { off := 0x200000, len := t.spsize, byte := fun k => (winByte d cl (t.spbase + k)).toNat }]

/-- Writes the pages of a frame from page k on. -/
def putPages (f : Nat → Nat) : Nat → Nat → State → Res State
  | 0, _, s => .ok s
  | n + 1, k, s => do
    let s ← vwrite s (frameAcc s) .x .l2 true (frameBase s.core.taskFrame + 4096 * k)
      ((List.range 4096).map fun i => BitVec.ofNat 8 (f (4096 * k + i)))
    putPages f n (k + 1) s

/-- Reads the pages of a frame from page k on, under the ASID of the core in focus. -/
def getPages (base : Nat) : Nat → Nat → State → Res (State × List (List Byte))
  | 0, _, s => .ok (s, [])
  | n + 1, k, s => do
    let (s, bs) ← vread s (frameAcc s) .l2 (base + 4096 * k) 4096
    let (s, r) ← getPages base n (k + 1) s
    pure (s, bs :: r)

/-- A part of the context that the frame takes is held with an uncorrectable error: a word of the allocation, or a vector of a
result queue (R371, R377). -/
def contextBad (s : State) (t : Task) : Bool :=
  let lo := winKey (clusterOf s.core.gcore) t.spbase
  (s.dev.badWin.any fun w => decide (8 * w < lo + t.spsize) && decide (lo < 8 * w + 8)) || s.core.q.toList.any fun r => r.vecs.any (·.bad)

/-- Writes the frame of the task on the core in focus; the bytes that delivery wrote stay (R367). -/
def saveFrame (s : State) (t : Task) : Res State := do
  if contextBad s t then raise .sramUe
  let (s, old) ← vread s (frameAcc s) .l2 (frameBase s.core.taskFrame + 0x40) 56
  let segs := coreSegs s.dev s.core t.pagePending (old.map (·.toNat)) t.spsize ++ windowSegs s.dev s.core t
  putPages (segByte segs) 1024 0 s

/-! ### Restore -/

/-- A number of w bytes at an offset. -/
def numAt (b : Nat → Nat) (off w : Nat) : Nat := vecOf 8 ((List.range w).map fun k => b (off + k))

/-- A word at an offset. -/
def wordAt (b : Nat → Nat) (off : Nat) : Word := BitVec.ofNat 64 (numAt b off 8)

/-- The causes that a unit of a task raises, by unit code (R359). -/
def raisedBy (c : Cause) (unit : Nat) : Bool :=
  match c with
  | .illegal | .operand | .unmapped | .perm | .align | .swizzle | .windowConflict | .sealed | .pleatAttr | .cuffAttr
  | .semOvf | .waitTimeout | .residue | .dramUe | .sramUe | .residuePersist => decide (unit ≤ 4)
  | .priv | .aborted | .noAttempt => unit == 0 || unit == 3 || unit == 4
  | .seqMismatch => decide (1 ≤ unit) && decide (unit ≤ 4)
  | .alignPc => unit == 0 || unit == 4
  | .brk | .intDivzero | .tokenOvf | .tokenUnf | .graphOvf | .voteTimeout | .windowWrap => unit == 0
  | .invalid | .divzero | .overflow | .underflow | .inexact | .queueOvf => unit == 0 || unit == 2
  | .queueUnf | .cuffBankUe => decide (2 ≤ unit) && decide (unit ≤ 4)
  | .peerTimeout | .peerLost => unit == 0 || unit == 1 || unit == 3 || unit == 4
  | .replayExhausted | .laneRetired | .thermal | .power | .attest | .firmware => false

/-- The cause that a code of a frame names; a code that no unit raises names none (R360), and is taken as INSN.ILLEGAL
(DESIGN CHOICE, log entry 82). -/
def codeCause (code : Nat) : Cause :=
  match causeOfCode code with
  | some c => if raisedBy c (code / 16 % 8) then c else .illegal
  | none => .illegal

/-- A cause of a unit's block from its code, with what the scheduler's record holds of it where the code agrees. A code of
another unit names no cause of the block (R360). -/
def causeBack (h : Option CauseRec) (u : UnitId) (code : Nat) : CauseRec :=
  let named : CauseRec := { cause := if code / 16 % 8 == unitCode u then codeCause code else .illegal, issued := true }
  match h with
  | some c => if (causeCode c.cause (unitCode u)).toNat == code % 2 ^ 10 then c else named
  | none => named

/-- A restored word that raised SYNC.WAIT_TIMEOUT keeps the description of its wait (R297). -/
def waitBack (h : Seq) : SWait :=
  match h.cause with
  | some c => if c.cause = .waitTimeout then h.wait else .none
  | none => .none

/-- A sequencer from its block and from what the scheduler holds of it. -/
def seqBack (b : Nat → Nat) (k : Nat) (u : SeqId) (h : Seq) : Seq :=
  let o := 0x500 + 128 * k
  let pc := wordAt b o
  let e := numAt b (o + 8) 8
  { idx := vtab fun i => wordAt b (0x200 + 128 * k + 8 * i.val)
    pc, running := bit (b (o + 18)) 0
    queue := (List.range (min 4 (b (o + 20)))).map fun j => (wordAt b (o + 32 + 16 * j), wordAt b (o + 40 + 16 * j))
    flight := none
    cause := if bit (b (o + 18)) 1 then some { causeBack h.cause (.seq u) (numAt b (o + 16) 2) with pc, e } else none
    delivered := h.delivered
    resume := h.resume.map fun r => { r with e, held := [], cur := none }
    wait := waitBack h, flushed := h.flushed, drained := h.drained }

/-- The unit of a cause code; a copy engine is the one that holds the task's stopped program. -/
def unitBack (ces : List Nat) (code : Nat) : UnitId :=
  match code / 16 % 8 with
  | 1 => .seq .l
  | 2 => .seq .c
  | 3 => .seq .s
  | 4 => .seq (.e (ces.headD 0))
  | _ => .x

/-- The delivered cause of the frame. -/
def deliveredBack (b : Nat → Nat) (v : Saved) : Option (UnitId × CauseRec) :=
  let n := numAt b 0x10 2
  if !bit n 15 then none
  else match v.dlv with
    | some (u, c) => if (causeCode c.cause (unitCode u)).toNat == n % 2 ^ 10 then some (u, c)
        else some (unitBack v.ces n, causeBack none (unitBack v.ces n) n)
    | none => some (unitBack v.ces n, causeBack none (unitBack v.ces n) n)

/-- A queue from the frame, with the marks of its vectors and the reservation of its unfinished QPOSTs. -/
def queueBack (d : Dev) (b : Nat → Nat) (v : Saved) (n : Nat) : RQueue :=
  let marks := (v.marks[n]?).getD []
  { vecs := (List.range (min Config.queueVectors (numAt b (0xE00 + 64 * n) 2))).map fun k =>
      { data := BitVec.ofNat 4096 (numAt b (0xA0000 + 0x10000 * n + 512 * k) 512), ue := (marks[k]?).getD none }
    held := 0
    rsvd := (d.qposts.filter fun q => v.qids.contains q.id && q.q == n).foldl (fun a q => a + tripleVecs q.dim) 0 }

/-- A residue fault of a unit's data path, which no new register value mends (R91). -/
def pathFault (m : ResMark) : Bool :=
  match m.place with
  | .path _ _ => true
  | _ => false

/-- The core that runs a resumed task, from its frame. -/
def coreBack (d : Dev) (c : Core) (b : Nat → Nat) (v : Saved) : Core :=
  let sq (k : Nat) : Seq := (v.seqs[k]?).getD Seq.init
  let aid := BitVec.ofNat 16 (numAt b 0x420 2)
  let c : Core := { c with
    x := vtab fun i => if i.val = 0 then 0 else wordAt b (0x100 + 8 * i.val)
    pc := wordAt b 8, xwait := .none, wfeHit := false, twaitLate := false, handler := bit (b 4) 0
    delivered := deliveredBack b v
    fctl := fctlPut 0 (wordAt b 0x400), fstat := fstatPut (wordAt b 0x408), vfctl := vfctlPut 0 (wordAt b 0x410)
    vfstat := fstatPut (wordAt b 0x418)
    txnAid := if v.txn.getD 0 = aid then v.txn else some aid
    txnDead := v.txnDead && v.txn == some aid, code := [], resident := [], fetched := [], badCode := [], residues := c.residues.filter pathFault
    seqno := vtab fun i => wordAt b (0x440 + 8 * i.val)
    snapshot := if bit (b 0x428) 0 then some (vtab fun i => wordAt b (0x480 + 8 * i.val)) else none
    trapVec := vecPut (wordAt b 0x430), wdogLimit := wdogPut (wordAt b 0x438)
    vrb := BitVec.ofNat 5 (b 0x380), prb := BitVec.ofNat 3 (b 0x381), ev := BitVec.ofNat 6 (b 0x382) }
  let c : Core := { c with
    taskFrame := v.taskFrame, regionId := v.regionId, asid := v.asid, sealBit := v.sealBit
    l := seqBack b 0 .l (sq 0), c := seqBack b 1 .c (sq 1), s := seqBack b 2 .s (sq 2)
    tok := vtab fun i => min Config.tokenSlots (b (0x390 + i.val))
    sem := vtab fun i => BitVec.ofNat 16 (numAt b (0x700 + 2 * i.val) 2)
    semMask := vtab fun i => BitVec.ofNat 7 (b (0x900 + i.val))
    lflags := sfrom 0 0 ((List.range 1024).map fun i => BitVec.ofNat 5 (b (0xA00 + i)))
    g := vtab fun i => { desc := BitVec.ofNat 512 (numAt b (0x1000 + 128 * i.val) 64), pos := numAt b (0x1040 + 128 * i.val) 8 }
    p := vtab fun i => BitVec.ofNat 1024 (numAt b (0x1800 + 128 * i.val) 128)
    v := vtab fun i => BitVec.ofNat 4096 (numAt b (0x2000 + 512 * i.val) 512)
    q := vtab fun i => queueBack d b v i.val
    task := some { v.task with hold := false }, saving := none }
  [(.a0, 0xA000), (.a1, 0x22200), (.a2, 0x3A400), (.a3, 0x52600), (.gp, 0x6A800), (.wp, 0x82A00)].foldl
    (fun c (p : MTgt × Nat) => putImage c p.1 fun k => b (p.2 + k)) c

/-- The allocation of a resumed task, put into the window of its cluster with its tags (R283, R105). -/
def windowBack (d : Dev) (g : Nat) (t : Task) (b : Nat → Nat) : Dev :=
  let cl := clusterOf g
  let d := (List.range (t.spsize / 128)).foldl (fun d k => setTag d cl (t.spbase / 128 + k) (b (0x120000 + k))) d
  { d with win := ssetAll 0 d.win (winKey cl t.spbase) ((List.range t.spsize).map fun k => BitVec.ofNat 8 (b (0x200000 + k))) }

/-- Bytes of the pages read. -/
def pageByte (pages : List (List Byte)) (k : Nat) : Nat :=
  ((((pages[k / 4096]?).getD [])[k % 4096]?).getD 0).toNat

/-- A saved task goes on at a core: the frame is read under its ASID and written back to the core, the allocation and the
queues; its copy engines and QPOSTs follow it (R262, R373). -/
def restoreTask (s : State) (g : Nat) (v : Saved) : Res State := do
  let s0 := focus s g
  let s1 : State := { s0 with core := { s0.core with asid := v.asid } }
  let (s2, pages) ← getPages (frameBase v.taskFrame) (512 + (v.task.spsize + 4095) / 4096) 0 s1
  let b := pageByte pages
  let d := windowBack s2.dev g v.task b
  let core := coreBack d s2.core b v
  let d := v.ces.foldl (fun d m => if h : m < 48 then
    { d with ce := d.ce.set m { (d.ce[m]'h) with prog := some g } h } else d) d
  pure { s2 with
    core
    dev := { d with qposts := d.qposts.map fun q => if v.qids.contains q.id then { q with core := g } else q
                    saved := d.saved.filter fun x => x.taskFrame != v.taskFrame } }

end Sys2Proof.Machine
end

