-- ==== Sys2Proof/Machine/Sched.lean ====
section
/-! DEFINITION. The scheduler: budgets and eligibility (R274, R283, R286), the start of a task (R284), launch records
(R276 to R279), the end of tasks and launches (R279, R288, R357), and the steps TASK_DISPATCH,
C_LAUNCH_START, CHECK_START_DELAY, PRIORITY_PREEMPTION, CONTEXT_SAVE and LAUNCH_RECORD_READ. -/

namespace Sys2Proof.Machine

/-! ### Budgets -/

/-- The path of the region of a task or of work. -/
def workPath (d : Dev) (launch region : Nat) : List Eff :=
  match launchOf d launch with
  | some l => pathFor l region
  | none => []

/-- Resident tasks that count against the region of an RCB (R274). -/
def heldCores (s : State) (rcb : Nat) : Nat :=
  ((allCores s).filter fun c => match c.task with
    | some t => (workPath s.dev t.launch t.region).any fun e => e.rcb == rcb
    | none => false).length

/-- n more resident tasks keep every region of a path within its CORES. -/
def coresOk (s : State) (path : List Eff) (n : Nat) : Bool := path.all fun e => heldCores s e.rcb + n ≤ e.cores

/-- Slots of a context pool that tasks hold. -/
def usedSlots (s : State) (ctx : Word) (asid : BitVec 12) : List Nat :=
  ((allCores s).filterMap fun c => match c.task with
    | some t => if t.ctxBase == ctx && c.asid == asid then some t.slot else none
    | none => none)
  ++ s.dev.saved.filterMap fun v => if v.task.ctxBase == ctx && v.asid == asid then some v.task.slot else none

/-- The lowest n free slots of a region's pool; none when there are fewer. -/
def freeSlots (s : State) (e : Eff) (n : Nat) : Option (List Nat) :=
  let used := usedSlots s e.ctxbase e.asid
  let free := ((List.range e.ctxslots).filter fun k => !used.contains k).take n
  if free.length == n then some free else none

/-- A resident task of a cluster holds an allocation that overlaps one (R283). -/
def overlaps (s : State) (cl base size : Nat) : Bool :=
  (allCores s).any fun c => clusterOf c.gcore == cl && match c.task with
    | some t => t.spsize != 0 && size != 0 && decide (t.spbase < base + size) && decide (base < t.spbase + t.spsize)
    | none => false

/-- The compute dies run. -/
def released (d : Dev) : Bool := d.fwstat == 2 && !d.powerLost

/-- A core is idle and takes tasks. -/
def idleCore (s : State) (g : Nat) : Bool :=
  decide (g < Config.cores) && released s.dev && (coreAt s g).task.isNone && !(coreAt s g).retired

/-! ### Eligible work (R286) -/

/-- The work stands for a C launch that has not started (R282). -/
def waitingC (d : Dev) (w : Work) : Bool :=
  match w.kind, launchOf d w.launch with
  | .launchTask _, some l => l.cls == 2 && !l.started
  | _, _ => false

/-- A checking launch of the Seam ASID runs only while the device is OPEN (R357). -/
def checkOk (d : Dev) (l : Launch) : Bool :=
  !(l.check && launchAsid l == seamAsid d) || decide (d.seam.state = .opened)

/-- Budgets, allocation and frame allow work to start or resume on a core (R274, R283). -/
def eligibleOn (s : State) (g : Nat) (w : Work) : Bool :=
  match launchOf s.dev w.launch, headEff (workPath s.dev w.launch w.region) with
  | some l, some e =>
    idleCore s g && !waitingC s.dev w && checkOk s.dev l && coresOk s (pathFor l w.region) 1
      && match w.kind with
        | .resume tf => match savedOf s.dev tf with
          | some v => !overlaps s (clusterOf g) v.task.spbase v.task.spsize
          | none => false
        | _ => !overlaps s (clusterOf g) e.spbase e.spsize && (freeSlots s e 1).isSome
  | _, _ => false

/-- The cores of a C launch in ascending order: idle ones, and in a cluster each when it has an allocation (R282). -/
def chooseCores (s : State) (e : Eff) : Nat → List Nat → List Nat
  | 0, acc => acc
  | k + 1, acc =>
    let acc := chooseCores s e k acc
    if idleCore s k && !overlaps s (clusterOf k) e.spbase e.spsize
        && (e.spsize == 0 || !acc.any fun g => clusterOf g == clusterOf k) then acc ++ [k] else acc

/-- What a waiting C launch starts on: cores, budgets and frames for all its tasks (R282). -/
structure CRoom where
  l     : Launch
  eff   : Eff
  cores : List Nat
  slots : List Nat
  deriving DecidableEq, Repr

/-- The room for a waiting C launch, if it is there: the launch is eligible (R274, R282, R283). -/
def cRoom (s : State) (w : Work) : Option CRoom := do
  if !waitingC s.dev w then none
  let l ← launchOf s.dev w.launch
  let e ← headEff l.path
  let slots ← freeSlots s e l.total
  let gs := (chooseCores s e Config.cores []).take l.total
  (if decide (gs.length = l.total) && checkOk s.dev l && coresOk s l.path l.total then
    some { l, eff := e, cores := gs, slots }
  else none)

/-- The work is eligible (R286): some core may take it, or it is a C launch that has room. -/
def eligible (s : State) (w : Work) : Bool := (cRoom s w).isSome || (List.range Config.cores).any fun g => eligibleOn s g w

/-- The work of a region at a priority, in its order. -/
def regionWork (d : Dev) (r p : Nat) : List Work :=
  let l := d.ready.filter fun w => w.region == r && w.prio == p
  l.filter (·.first) ++ l.filter fun w => !w.first

/-- The greatest number of a list; 0 for none. -/
def maxOf (l : List Nat) : Nat := l.foldl Nat.max 0

/-- The highest priority of a list of work. -/
def topPrio (l : List Work) : Option Nat := if l.isEmpty then none else some (maxOf (l.map (·.prio)))

/-- The weight of a region for work at a priority: its effective CORES. -/
def weightOf (d : Dev) (r p : Nat) : Nat :=
  match regionWork d r p with
  | w :: _ => Nat.max 1 (((headEff (workPath d w.launch r)).map (·.cores)).getD 1)
  | [] => 1

/-- Regions with eligible work at a priority. -/
def eligibleRegions (s : State) (p : Nat) : List Nat := ((s.dev.ready.filter fun w => w.prio == p && eligible s w).map (·.region)).eraseDups

/-- A region whose order begins with a C launch that has no room yet, at the highest priority of all ready work: cores are
held for it where the round-robin serves the region next (R282). -/
def heldRegion (s : State) (p r : Nat) : Bool :=
  topPrio s.dev.ready == some p && match regionWork s.dev r p with
    | w :: _ => waitingC s.dev w && (cRoom s w).isNone && ((launchOf s.dev w.launch).map (checkOk s.dev)).getD false
    | [] => false

/-- The regions for whose C launch cores may be held. -/
def heldRegions (s : State) (p : Nat) : List Nat :=
  ((s.dev.ready.filter fun w => w.prio == p && heldRegion s p w.region).map (·.region)).eraseDups

/-! ### The round-robin (R286) -/

/-- A region in the round-robin of a priority: the dispatches that may pass it over, and those that have. -/
structure Claim where
  region : Nat
  bound  : Nat
  passed : Nat
  deriving DecidableEq, Repr

/-- The bound is kept. -/
def Claim.kept (c : Claim) : Bool := c.passed ≤ c.bound

/-- How often a region must be served among the next n dispatches. -/
def Claim.due (c : Claim) (n : Nat) : Nat := if c.bound < c.passed + n then 1 + (c.passed + n - c.bound - 1) / (c.bound + 1) else 0

/-- A dispatch to a region. -/
def serve (l : List Claim) (r : Nat) : List Claim := l.map fun c => { c with passed := if c.region == r then 0 else c.passed + 1 }

/-- The bounds ask for no more dispatches than there are, however far one looks. -/
def fits (l : List Claim) : Bool :=
  l.all (·.kept) && (List.range (maxOf (l.map (·.bound)) + 1)).all fun n => decide ((l.map (·.due (n + 1))).sum ≤ n + 1)

/-- Of two regions the one that has waited the greater part of its bound. -/
def longer (a b : Claim) : Claim := if a.passed * (b.bound + 1) < b.passed * (a.bound + 1) then b else a

/-- A turn of the round-robin that keeps the bounds: of the regions whose turn leaves the others in time, the one that has
waited longest. -/
def pickTurn (l : List Claim) : Option Nat :=
  let good := l.filter fun c => fits (serve l c.region)
  match (if good.isEmpty then l else good) with
  | c :: cs => some (cs.foldl longer c).region
  | [] => none

/-- The bounds stay kept while such turns are taken, on the number of turns. -/
def lasts : Nat → List Claim → Bool
  | 0, l => l.all (·.kept)
  | n + 1, l => l.all (·.kept) && match pickTurn l with
    | some r => lasts n (serve l r)
    | none => true

/-- The bound of R286 on the dispatches that pass a region over, of regions whose weights sum to W. -/
def passBound (total w : Nat) : Nat := (total + w - 1) / w

/-- The regions of the round-robin at a priority: those with eligible work, and those for whose C launch cores may be held. -/
def claimsOf (s : State) (p : Nat) : List Claim :=
  let el := eligibleRegions s p
  let total := (el.map fun r => weightOf s.dev r p).sum
  let claim (t r : Nat) : Claim := { region := r, bound := passBound t (weightOf s.dev r p), passed := sget 0 s.dev.passed (16 * r + p) }
  el.map (fun r => claim total r)
    ++ ((heldRegions s p).filter (!el.contains ·)).map fun r => claim (total + weightOf s.dev r p) r

/-- The round-robin may serve a region next: all bounds can still be kept after it, or, where no turn keeps them all, it is the
turn that comes nearest. The manual leaves the order to the implementation (R286): any turn of this kind may be the next
(DESIGN CHOICE, log entry 21). -/
def turnOk (s : State) (r p : Nat) : Bool :=
  let l := claimsOf s p
  let n := 2 * (maxOf (l.map (·.bound)) + 1)
  let ok (x : Nat) : Bool := lasts n (serve l x)
  l.any (·.region == r) && (ok r || (!l.any (fun c => ok c.region) && pickTurn l == some r))

/-- The counts after a dispatch to a region: every other one with eligible work has been passed over. -/
def notePass (s : State) (r p : Nat) : Dev :=
  { s.dev with passed := (serve (claimsOf s p) r).foldl (fun m c => sset 0 m (16 * c.region + p) c.passed) s.dev.passed }

/-- A C launch without room that the round-robin may serve next is the earliest work of the highest waiting priority: cores are
held for it (R282). -/
def holdsCores (s : State) (p : Nat) : Bool := (heldRegions s p).any fun r => turnOk s r p

/-- The work that an idle core takes from a region now, if R282 and R286 let it: the first of the region's order that is
eligible on it, at the highest priority that has such work. A C launch that is the earliest work holds the cores from work of
lower priorities and from what stands behind it in its region; one that has room starts first. -/
def dispatchable (s : State) (g r : Nat) : Option Work :=
  match topPrio (s.dev.ready.filter (eligibleOn s g)), topPrio s.dev.ready with
  | some p, some top =>
    if decide (p < top) && holdsCores s top || heldRegion s p r || !turnOk s r p then none
    else match (regionWork s.dev r p).find? fun w => eligibleOn s g w || (cRoom s w).isSome with
      | some w => if eligibleOn s g w then some w else none
      | none => none
  | _, _ => none

/-- A core may take work of some region now. -/
def takesWork (s : State) (g : Nat) : Bool :=
  idleCore s g && (s.dev.ready.map (·.region)).eraseDups.any fun r => (dispatchable s g r).isSome

/-! ### The start of a task (R284) -/

/-- REGION_ID (R293). -/
def regionWord (region prio cls : Nat) (e : Eff) : Word :=
  BitVec.ofNat 64 (region + 2 ^ 16 * e.fdom.toNat + 2 ^ 32 * e.det.toNat + 2 ^ 34 * cls + 2 ^ 36 * prio)

/-- Entry, frame pointer, x4, task number, join counter and class of what a work item starts. -/
structure Begin where
  pc   : Word
  x2   : Word
  x4   : Nat
  tnum : Nat
  join : Word
  cls  : Nat
  node : Bool := false
  deriving DecidableEq, Repr

/-- What a work item starts. -/
def beginOf (l : Launch) (w : WorkKind) : Begin :=
  let sub := if l.cls == 2 then 1 else l.cls
  match w with
  | .launchTask t => { pc := l.entry, x2 := l.frame + BitVec.ofNat 64 (t * l.fstr), x4 := t, tnum := t, join := 0, cls := l.cls }
  | .spawned k => { pc := k.code, x2 := k.frame, x4 := 0, tnum := 0, join := k.join, cls := sub }
  | .node n k => { pc := k.code, x2 := k.frame, x4 := n, tnum := n, join := k.join, cls := sub, node := true }
  | .resume _ => { pc := 0, x2 := 0, x4 := 0, tnum := 0, join := 0, cls := l.cls }

/-- The core of a starting task. What belongs to the core itself stays: the L1 lines and the faults of its data paths. The
instruction store starts without old words: only a task that runs sees those of before a write (R56). -/
def startCore (c : Core) (l : Launch) (w : Work) (e : Eff) (slot gen : Nat) (sealBit : Bool) : Core :=
  let b := beginOf l w.kind
  let base := e.ctxbase.toNat + 2 ^ 22 * slot
  let f := Core.init c.gcore
  { f with
    x := (f.x.set 2 b.x2).set 4 (BitVec.ofNat 64 b.x4)
    pc := b.pc, taskFrame := BitVec.ofNat 64 (base + gen), regionId := regionWord w.region w.prio b.cls e
    asid := e.asid, sealBit, trapVec := vecPut e.tvec, wdogLimit := e.wdog.setWidth 64, l1 := c.l1, badL1 := c.badL1
    residues := c.residues.filter pathFault, retired := c.retired
    task := some { launch := l.id, tnum := b.tnum, node := b.node, cls := b.cls, region := w.region, prio := w.prio, join := b.join,
                   spbase := e.spbase, spsize := e.spsize, ctxBase := e.ctxbase, slot, run := l.run,
                   hold := decide (l.run ≠ 0), ordX := 0, ordS := 0, posted := 0, ceWrites := [], pagePending := false, pgSem := 0 } }

/-- A task takes a slot and starts on a core: the generation of the slot advances (R274). -/
def startTask (s : State) (g : Nat) (l : Launch) (w : Work) (e : Eff) (slot : Nat) : Res State := do
  let a := accDev s.dev e.asid
  let at1C := e.ctxbase.toNat + 2 ^ 22 * slot + 0x1C
  let (s, bs) ← vread s a .l2 at1C 4
  let gen := (ofBytesLE bs % 2 ^ 22 + 1) % 2 ^ 22
  let s ← vwrite s a .x .l2 true at1C (toBytesLE 4 gen)
  let sealBit := match asidEnt s.dev e.asid with
    | some ent => asidSealed s.dev e.asid ent
    | none => false
  pure (putCore s g (startCore (coreAt s g) l w e slot gen sealBit))

/-- A launch that starts to run: a checking launch of the Seam ASID begins run 1 under A (R357). -/
def beginRun (d : Dev) (l : Launch) : Dev × Launch :=
  let l' : Launch :=
    if l.check && launchAsid l == seamAsid d && l.run == 0 then { l with run := 1, aid := some d.seam.aid, started := true }
    else { l with started := true }
  ({ d with launches := d.launches.map fun x => if x.id == l.id then l' else x }, l')

/-- Takes a work item off the ready list. -/
def dropReady (d : Dev) (w : Work) : Dev := { d with ready := d.ready.erase w }

/-- Starts or resumes work on a core. -/
def takeWork (s : State) (g : Nat) (w : Work) : Res State :=
  match launchOf s.dev w.launch with
  | none => .ok s
  | some l =>
    let s := s.onDev (dropReady · w)
    match w.kind with
    | .resume tf =>
      match savedOf s.dev tf with
      | none => .ok s
      | some v => (restoreTask s g v).map fun s' => focus s' s.core.gcore
    | _ =>
      let r := beginRun s.dev l
      let s := { s with dev := r.1 }
      match headEff (pathFor r.2 w.region) with
      | none => .ok s
      | some e =>
        match freeSlots s e 1 with
        | some (k :: _) => startTask s g r.2 w e k
        | _ => .ok s

/-- How a start from state s ends: with its tasks resident; waiting for a frame access that is not performed yet (R319, R347);
or, where a frame cannot be accessed, with the launch stopped (R274), from the counts of s0. -/
def startedOr (s s0 : State) (launch : Nat) (name : String) (r : Res State) : Out :=
  match r with
  | .ok t => .next (dropDevAsks t)
  | .error c => match deviceWaits s name c with
    | some o => o
    | none => .next (dropDevAsks (stopLaunch s0 launch))

/-- TASK_DISPATCH (R286). Of the cores that can take work now, the lowest does. -/
def execTaskDispatch (core region : Nat) (s : State) : Out :=
  match (if idleCore s core then dispatchable s core region else none) with
  | none => .refused (.cannotOccur "task dispatch")
  | some w =>
    if (List.range core).any (takesWork s) then .refused (.cannotOccur "task dispatch")
    else
      let s0 := s.onDev fun _ => notePass s region w.prio
      startedOr s s0 w.launch "task dispatch" (takeWork s0 core w)

/-! ### C launches (R282) -/

/-- Starts the tasks of a C launch on their cores. -/
def startAll (l : Launch) (w : Work) (e : Eff) : Nat → List Nat → List Nat → State → Res State
  | t, g :: gs, k :: ks, s => do
    let s ← startTask s g l { w with kind := .launchTask t } e k
    startAll l w e (t + 1) gs ks s
  | _, _, _, s => .ok s

/-- A waiting C launch is the earliest ready work (R282): of the highest priority, first in its region's order, in a region
that the round-robin may serve next. -/
def earliestC (s : State) (w : Work) : Bool :=
  topPrio s.dev.ready == some w.prio && (regionWork s.dev w.region w.prio).head? == some w && turnOk s w.region w.prio

/-- The C launch may start: it has room, and it is the work that R286 takes next: of the highest priority with eligible work,
the first eligible work of its region, in a region that the round-robin may serve next. -/
def cStart (s : State) (id : Nat) : Option (Work × CRoom) := do
  let w ← s.dev.ready.find? fun w => w.launch == id && waitingC s.dev w
  let c ← cRoom s w
  (if topPrio (s.dev.ready.filter (eligible s)) == some w.prio && (regionWork s.dev w.region w.prio).find? (eligible s) == some w
      && turnOk s w.region w.prio then some (w, c) else none)

/-- C_LAUNCH_START: every task becomes resident at once. A frame that cannot be accessed stops the launch (R274). -/
def execCLaunchStart (launch : Nat) (s : State) : Out :=
  match cStart s launch with
  | none => .refused (.cannotOccur "C launch start")
  | some (w, c) =>
    let s0 := s.onDev fun _ => notePass s w.region w.prio
    let r := beginRun (dropReady s0.dev w) c.l
    startedOr s s0 launch "C launch start" (startAll r.2 w c.eff 0 c.cores c.slots { s0 with dev := r.1 })

/-- CHECK_START_DELAY: a task of a checking run has held for its random number of cycles (R357). -/
def execCheckStartDelay (s : State) : Out :=
  match s.core.task with
  | some t => if t.hold then .next { s with core := { s.core with task := some { t with hold := false } } }
      else .refused (.cannotOccur "check start delay")
  | none => .refused (.cannotOccur "check start delay")

/-! ### Pre-emption and context saves -/

/-- The work has an idle core that may take it. -/
def hasCore (s : State) (w : Work) : Bool := (List.range Config.cores).any fun g => eligibleOn s g w

/-- Ready work for which no core is eligible, or a waiting C launch that is the earliest work and cannot start (R281,
R282). -/
def stuckPrio (s : State) : Option Nat :=
  topPrio (s.dev.ready.filter fun w =>
    if waitingC s.dev w then earliestC s w && (cRoom s w).isNone else !hasCore s w)

/-- The resident WP task of lowest priority below p, and of those the one on the highest core. -/
def victim (s : State) (p : Nat) : Option Core :=
  (allCores s).foldl (fun b c =>
    match c.task with
    | some t =>
      if t.cls != 0 || decide (p ≤ t.prio) then b
      else match b with
        | none => some c
        | some o =>
          let q := (o.task.map (·.prio)).getD 0
          if t.prio < q ∨ (t.prio = q ∧ o.gcore < c.gcore) then some c else b
    | none => b) none

/-- The save of a task begins (R371): X stops at its instruction, or abandons the one in which it waits, and a waiting CACQ leaves
the line of its clasp (R235). -/
def beginSave (s : State) (c : Core) (r : SaveReason) : State :=
  (putCore s c.gcore { c with saving := some r }).onDev fun d =>
    { d with claspWait := d.claspWait.filter fun w => w.2 != c.gcore }

/-- PRIORITY_PREEMPTION (R281): the save of a task begins; FAULT is set for a task with a valid TXN_AID (R348). It waits
while the task is in handler mode (R367) or another pre-emption is under way. -/
def execPriorityPreemption (s : State) : Out :=
  match (stuckPrio s).bind (victim s) with
  | none => .refused (.cannotOccur "priority pre-emption")
  | some c =>
    if c.handler || c.saving.isSome || (allCores s).any fun k => decide (k.saving = some .preempt) then
      .refused (.cannotOccur "priority pre-emption")
    else
      let valid := attemptLive s.dev && c.txnAid == some s.dev.seam.aid
      let s := beginSave s c .preempt
      .next (if valid then s.onDev (flagAttempt · flFault) else s)

/-- A frozen fence or NMFEN word that has not retired is executed again on resumption (R219, R247); one of a flushed stream
completes (R300). -/
def reissue (q : Seq) : Seq :=
  match q.flight with
  | some f =>
    match f.kind with
    | .fence _ _ | .nmfen =>
      if q.flushed then q else { q with flight := none, pc := f.pc, resume := some { e := 0, issued := true, again := true } }
    | _ => q
  | none => q

/-- Every program that a core posted is complete or has stopped (R252). -/
def programsStopped (d : Dev) (g : Nat) : Bool :=
  d.ce.toList.all fun e => !e.posts.any (fun p => p.core == g)
    && (e.prog != some g || (e.seq.cause.isSome && e.seq.flight.isNone))

/-- No program of a core runs or is pending. -/
def programsDone (d : Dev) (g : Nat) : Bool :=
  d.ce.toList.all fun e => !e.posts.any (fun p => p.core == g) && e.prog != some g

/-- The core in focus as its frame is written: its sequencers are frozen. -/
def frozenCore (c : Core) : Core := { c with l := reissue c.l, c := reissue c.c, s := reissue c.s }

/-- A sequencer has nothing under way: its word in flight, a fence that is executed again apart, is complete, and none waits at
an element. -/
def settledSeq (q : Seq) : Bool := (reissue q).flight.isNone && !stalledWord q

/-- X stands at an instruction boundary or waits in an instruction that a save abandons (R364, R371). -/
def xAbandons (w : XWait) : Bool :=
  match w with
  | .redst | .access => false
  | _ => true

/-- The save of the task on the core in focus may take place (R371 steps 1 to 4). -/
def saveReady (s : State) : Bool :=
  let c := s.core
  settledSeq c.l && settledSeq c.c && settledSeq c.s && xAbandons c.xwait && programsStopped s.dev c.gcore
    && !(s.dev.nops.any fun n => n.core == c.gcore) && !(s.dev.reqs.any fun r => r.core == c.gcore)

/-- The scheduler's record of the task on the core in focus. -/
def savedRec (s : State) (t : Task) (r : SaveReason) : Saved :=
  let c := s.core
  let joins := match r with
    | .join _ => true
    | _ => false
  { taskFrame := c.taskFrame, task := t, parked := joins || (decide (r = .yield) && t.pagePending), joined := joins
    qids := (s.dev.qposts.filter fun q => q.core == c.gcore).map (·.id)
    seqs := [c.l, c.c, c.s], ces := enginesOf s.dev c.gcore, dlv := c.delivered
    marks := c.q.toList.map fun q => q.vecs.map (·.ue)
    txn := c.txnAid, txnDead := c.txnDead, regionId := c.regionId, asid := c.asid, sealBit := c.sealBit }

/-- The device once the task of a core is saved: its QPOSTs and stopped programs wait with it. -/
def detach (d : Dev) (g : Nat) (v : Saved) : Dev :=
  let d := v.ces.foldl (fun d m => if h : m < 48 then
    { d with ce := d.ce.set m { (d.ce[m]'h) with prog := some Config.cores } h } else d) d
  { d with
    qposts := d.qposts.map fun q => if q.core == g then { q with core := Config.cores } else q
    claspWait := d.claspWait.filter fun w => w.2 != g
    saved := d.saved ++ [v] }

/-- The continuation of a saved task joins its region's order, or is parked (R281, R288, R316). -/
def queueSaved (s : State) (v : Saved) (r : SaveReason) : State :=
  if v.parked then s
  else readyResume s v (decide (r = .preempt) || decide (r = .retire))

/-- Steps 5 to 7 of R371 for the task on the core in focus. -/
def saveTask (s : State) (t : Task) (r : SaveReason) : Res State :=
  let s1 := flushL1 { s with core := frozenCore s.core }
  (saveFrame s1 t).map fun s2 =>
    let v := savedRec s2 t r
    queueSaved { s2 with dev := detach s2.dev s2.core.gcore v, core := clearCore s2.core } v r

/-- CONTEXT_SAVE (R371) of the core in focus. A frame that cannot be written stops the launch; one whose page awaits an answer of
its home, or its initialisation, is written after that (R319, R347). -/
def execContextSave (s : State) : Out :=
  match s.core.task, s.core.saving with
  | some t, some r =>
    if saveReady s then startedOr s (flushL1 { s with core := frozenCore s.core }) t.launch "context save" (saveTask s t r)
    else .refused (.cannotOccur "context save")
  | _, _ => .refused (.cannotOccur "context save")

/-! ### Launch records (R276 to R279) -/

/-- The registers of a queue. -/
def queueAt (d : Dev) (q : Nat) : QRegs := sget ({ qbase := 0, qctl := 0, qhead := 0, qtail := 0 } : QRegs) d.queues q

/-- Replaces the registers of a queue. -/
def putQueue (d : Dev) (q : Nat) (r : QRegs) : Dev :=
  { d with queues := sset ({ qbase := 0, qctl := 0, qhead := 0, qtail := 0 } : QRegs) d.queues q r }

/-- QLOG2. -/
def qlog (r : QRegs) : Nat := fld r.qctl.toNat 12 4

/-- The dispatcher reads the queue: enabled, no error, a record posted, no C launch of the queue waiting (R276, R277). -/
def queueReadable (d : Dev) (q : Nat) : Bool :=
  let r := queueAt d q
  r.qctl.getLsbD 0 && qlog r != 0 && !r.qctl.getLsbD 3 && r.qhead != r.qtail
    && !d.launches.any fun l => l.queue == q && l.cls == 2 && !l.started

/-- The next queue of the round, among those that the dispatcher reads. -/
def nextQueue (d : Dev) : Option Nat :=
  (List.range 1024).map (fun k => (d.lastQ + 1 + k) % 1024) |>.find? (queueReadable d)

/-- The region path of a launch that the rules admit: R272, R273, and R321 for a sealed ASID. -/
def launchPath (d : Dev) (region : Nat) (qasid : BitVec 12) : Option (List Eff) := do
  let path ← regionPath d region
  let e ← path.head?
  let isSealed := match asidEnt d e.asid with
    | some ent => asidSealed d e.asid ent
    | none => false
  (if isSealed && !(qasid == e.asid && path.all fun x => frameSealed d (x.rcb / 4096)) then none else some path)

/-- The least of a value over a path. -/
def leastOf (f : Eff → Nat) (p : List Eff) : Nat := (p.map f).foldl Nat.min (2 ^ 20)

/-- The first status code that applies to a record (R279). -/
def recordStatus (s : State) (n qregion : Nat) (qasid : BitVec 12) : Nat :=
  let cls := fld n 176 2
  let graph := bit n 179
  let tasks := fld n 184 17 + 1
  let entry := fld n 0 64
  if fld n 456 56 != 0 || fld n 201 247 != 0 || fld n 180 4 != 0 || cls == 3 || tasks > 65536
      || entry % (if graph then 64 else 4) != 0 || fld n 64 64 % 64 != 0 || fld n 128 32 % 64 != 0 then 0x10
  else match launchPath s.dev (fld n 160 16) qasid with
    | none => 0x11
    | some path =>
      match path with
      | [] => 0x11
      | e :: _ =>
        if graph && !nodesOk s (accDev s.dev e.asid) entry (fld n 160 16) tasks then 0x10
        else if !path.any (fun x => some x.rcb == regionRcb s.dev qregion) then 0x12
        else if cls > e.maxclass || (cls == 2 && graph) then 0x13
        else if path.any (fun x => x.cores == 0) || (cls == 2 && tasks > leastOf (·.cores) path) then 0x14
        else if e.ctxslots == 0 || (cls == 2 && tasks > e.ctxslots) then 0x15
        else if cls == 2 && e.spsize != 0 && tasks > 36 then 0x16
        else if graph && tasks > leastOf (·.nodes) path then 0x17
        else 1

/-- The ready work of a launch without a graph: its tasks in ascending order, or one item for a C launch. -/
def launchWork (l : Launch) (prio : Nat) : List Work :=
  (List.range (if l.cls == 2 then 1 else l.total)).map fun t =>
    { launch := l.id, region := l.region, prio, first := false, kind := .launchTask t }

/-- The tasks of an accepted launch become ready, or its graph opens. -/
def readyLaunch (s : State) (l : Launch) : State :=
  let prio := ((headEff l.path).map (·.prio)).getD 0
  if l.nodes then openGraph s l
  else s.onDev fun d => { d with ready := d.ready ++ launchWork l prio }

/-- An accepted launch of a record. -/
def launchFrom (d : Dev) (id q n : Nat) (va : Word) (qasid : BitVec 12) (key : Word) (path : List Eff) : Launch :=
  let check := bit n 178 || ((path.head?.map fun e => e.det.getLsbD 0).getD false)
  let inA := check && decide (d.seam.state = .opened) && path.head?.map (·.asid) == some (seamAsid d)
  { id, recVa := va, recAsid := qasid, region := fld n 160 16, queue := q, entry := bf 64 0 n, frame := bf 64 64 n
    fstr := fld n 128 32, cls := fld n 176 2, check, total := fld n 184 17 + 1, path, subs := subPaths d (fld n 160 16) ((path.head?.map (·.rcb)).getD 0), nodes := bit n 179, graph := none
    aid := if inA then some d.seam.aid else none
    live := fld n 184 17 + 1, started := false, run := 0, dkey := key, d1 := 0, d2 := 0, status := 0 }

/-- Reads the record at QHEAD: its address and bits; none where it cannot be read (R277). The manual does not say what a
QBASE that is not 64-byte aligned does: the record then cannot be read (DESIGN CHOICE, log entry 82). -/
def readRecord (s : State) (r : QRegs) : Option (State × Word × BitVec 12 × Nat) := do
  let path ← regionPath s.dev (fld r.qctl.toNat 16 16)
  let e ← path.head?
  let va := r.qbase + BitVec.ofNat 64 (64 * (r.qhead.toNat % 2 ^ qlog r))
  let a := accDev s.dev e.asid
  match translate s.dev a .read va.toNat with
  | .error _ => none
  | .ok x =>
    if x.attr != 0 || x.pa ≥ hbmEnd || x.remote.isSome || r.qbase.toNat % 64 != 0 then none
    else match vread s a .l2 va.toNat 64 with
      | .error _ => none
      | .ok (s, bs) => some (s, va, e.asid, ofBytesLE bs)

/-- What the dispatcher waits for before it can take the record at QHEAD: a page of the record, or one of a node table, that is
not readable yet (R319, R347). -/
def recordWaits (s : State) (r : QRegs) : Option CauseRec :=
  match (regionPath s.dev (fld r.qctl.toNat 16 16)).bind headEff with
  | none => none
  | some e =>
    let va := r.qbase + BitVec.ofNat 64 (64 * (r.qhead.toNat % 2 ^ qlog r))
    match translate s.dev (accDev s.dev e.asid) .read va.toNat, readRecord s r with
    | .error c, _ => if c.await.isSome then some c else none
    | .ok _, some (s, _, qasid, n) =>
      if bit n 179 then
        (((launchPath s.dev (fld n 160 16) qasid).bind headEff).bind fun e =>
          tableWaits s (accDev s.dev e.asid) (fld n 0 64) (fld n 184 17 + 1))
      else none
    | .ok _, none => none

/-- LAUNCH_RECORD_READ: the dispatcher accepts or rejects the record at QHEAD of the next queue of the round. -/
def execLaunchRecordRead (q : Nat) (s : State) : Out :=
  let r := queueAt s.dev q
  if nextQueue s.dev ≠ some q then .refused (.cannotOccur "launch record read")
  else match (recordWaits s r).bind (deviceWaits s "launch record read") with
  | some o => o
  | none =>
    match readRecord (regionNotes s (fld r.qctl.toNat 16 16)) r with
    | none =>
      let s := regionNotes s (fld r.qctl.toNat 16 16)
      let d := { putQueue s.dev q { r with qctl := r.qctl ||| 8 } with lastQ := q }
      .next { s with dev := if r.qctl.getLsbD 1 then d.send (.msix q) else d }
    | some (s, va, qasid, n) =>
      let d := { putQueue s.dev q { r with qhead := r.qhead + 1 } with lastQ := q }
      let s := regionNotes (dropDevAsks { s with dev := d }) (fld n 160 16)
      let code := recordStatus s n (fld r.qctl.toNat 16 16) qasid
      if code ≠ 1 then .next (writeStatus s q va qasid code)
      else
        let k := s.draw
        let path := (launchPath s.dev (fld n 160 16) qasid).getD []
        let l := launchFrom s.dev s.dev.nextLaunch q n va qasid k.2 path
        let s := k.1.onDev fun d => { d with launches := d.launches ++ [l], nextLaunch := d.nextLaunch + 1 }
        .next (readyLaunch (setStatus s l 1) { l with status := 1 })

/-! ### The end of tasks and launches -/

/-- Outcomes of an AID at every controller. -/
def setOutcome (d : Dev) (aid : BitVec 16) (o : PleatOutcome) : Dev :=
  { d with pleats := vmap (fun p => { p with window := sset .aborted p.window (aid.toNat % 4096) o }) d.pleats }

/-- A launch whose last task has ended: run 2 of a checking launch starts, or STATUS 0x02 is written; unequal digests
set CORRUPT (R279, R357, R358). -/
def finishLaunch (s : State) (l : Launch) : State :=
  if l.run == 1 then
    let d := match l.aid with
      | some a => setOutcome s.dev (a + 1) .aborted
      | none => s.dev
    let l := { l with run := 2, live := l.total, started := false, graph := none }
    readyLaunch { s with dev := putLaunch d l } l
  else
    let s := if l.run == 2 && l.d1 != l.d2 && l.aid == some s.dev.seam.aid then s.onDev (flagAttempt · flCorrupt) else s
    let s := setStatus s l 2
    s.onDev fun d => { d with launches := d.launches.filter fun x => x.id != l.id }

/-- A task of a launch has ended. `node` says that it ran a graph node. -/
def noteEnd (s : State) (id : Nat) (node : Bool) : State :=
  match launchOf s.dev id with
  | none => s
  | some l =>
    let graph := match l.graph with
      | some g => some (if node then { g with ended := g.ended + 1 } else g)
      | none => none
    let l := { l with live := l.live - 1, graph }
    let s := s.onDev (putLaunch · l)
    openGraphs (if l.live == 0 then finishLaunch s l else s)

end Sys2Proof.Machine
end

