-- ==== Sys2Proof/Machine/Tasks.lean ====
section
/-! DEFINITION. The scheduler words of X (R288 to R298): signals and waits, SPAWN, JOIN, NDONE, YIELD and TEXIT. -/

namespace Sys2Proof.Machine

/-! ### Semaphores and events -/

/-- The core that SSIG signals; none for a number that R292 does not admit. -/
def ssigTarget (s : State) (a : BitVec 5) : Option Nat :=
  if a = 0 then some s.core.gcore
  else
    let n := (xget s a).toNat
    if n < Config.cores then some n else none

/-- SSIG (R292). A signal to another core from a checking run raises ACCESS.PLEAT_ATTR (R357). -/
def execSsig (a : BitVec 5) (sem inc : BitVec 8) (s : State) : Out :=
  stepI (.ssig a sem inc) s <|
    match (if inc = 0 then none else ssigTarget s a) with
    | none => raise .operand
    | some g =>
      if g ≠ s.core.gcore ∧ checking s then raise .pleatAttr
      else signalCore s g (if g = s.core.gcore then 0 else 6) sem inc.toNat

/-- SWAIT (R294). -/
def execSwait (sem thr : BitVec 8) (s : State) : Out :=
  if thr = 0 then insnX s .operand (.swait sem thr)
  else if thr.toNat ≤ semVal s.core sem then
    nextX { s with core := semSet s.core sem (semVal s.core sem - thr.toNat) }
  else waitX s .swait

/-- SRD (R295). -/
def execSrd (d : BitVec 5) (sem : BitVec 8) (s : State) : Out := nextX (xset s d (BitVec.ofNat 64 (semVal s.core sem)))

/-- SSET (R295); an increase is event 0 (R298). -/
def execSset (a : BitVec 5) (sem : BitVec 8) (s : State) : Out :=
  let v := (xget s a).toNat
  if v > 65535 then insnX s .operand (.sset a sem)
  else
    let c := semSet s.core sem v
    nextX { s with core := { c with ev := if semVal s.core sem < v then c.ev ||| 1 else c.ev } }

/-- SEMCFG (R296). -/
def execSemcfg (a : BitVec 5) (sem : BitVec 8) (s : State) : Out :=
  let v := xget s a
  if v.toNat ≥ 2 ^ 7 then insnX s .operand (.semcfg a sem)
  else nextX { s with core := { s.core with semMask := s.core.semMask.set sem.toNat (v.setWidth 7) (sem.isLt) } }

/-- The events that WFE sees: the latch, and bit 5 once its time has passed (R298). -/
def wfeEvents (s : State) (a : BitVec 5) : BitVec 6 :=
  s.core.ev ||| (if s.core.wfeHit || xget s a == 0 then 0x20 else 0)

/-- WFE (R298). -/
def execWfe (d a : BitVec 5) (mask : BitVec 6) (s : State) : Out :=
  let v := wfeEvents s a &&& mask
  if mask = 0 then insnX s .operand (.wfe d a mask)
  else if v = 0 then waitX s (.wfe (mask.getLsbD 5))
  else nextX (xset { s with core := { s.core with ev := s.core.ev &&& ~~~mask, wfeHit := false } } d (v.setWidth 64))

/-- WFE_TIMER: the time of a waiting WFE has passed. -/
def execWfeTimer (s : State) : Out :=
  if s.core.xwait = .wfe true && s.core.saving.isNone then .next { s with core := { s.core with wfeHit := true } } else .refused (.cannotOccur "WFE timer")

/-! ### SPAWN and JOIN -/

/-- The launch of the task on the core in focus. -/
def ownLaunch (s : State) : Option Launch := s.core.task.bind fun t => launchOf s.dev t.launch

/-- The task belongs to a checking launch (R351, R354, R355). -/
def inCheck (s : State) : Bool := ((ownLaunch s).map (·.check)).getD false

/-- COUNT and WAITER of a join counter (R285). -/
def readCounter (s : State) (va : Nat) : Res (State × Xlat × Nat × Nat) := do
  let x ← objPlace s va 16
  let (s, n) ← objRead s x va 16
  pure (s, x, fld n 0 64, fld n 64 64)

/-- A continuation record from its bits, and its last word. -/
def contOf (n : Nat) : Cont × Nat :=
  let w := fld n 192 64
  ({ code := bf 64 0 n, frame := bf 64 64 n, join := bf 64 128 n, region := fld w 0 16, prio := fld w 16 4 }, w)

/-- The path of a region that is the task's own or a descendant of it, as it stood when the launch was accepted (R273). -/
def ownSubtree (l : Launch) (t : Task) (region : Nat) : Option (List Eff) :=
  match headEff (pathFor l t.region) with
  | none => none
  | some own => if (pathFor l region).any fun e => e.rcb == own.rcb then some (pathFor l region) else none

/-- Records in the ready ring of a region: ready continuations of every region that shares it. -/
def ringCount (d : Dev) (base : Word) : Nat :=
  (d.ready.filter fun w => (match w.kind with | .launchTask _ => false | _ => true)
    && ((headEff (workPath d w.launch w.region)).map (·.rqbase)) == some base).length

/-- SPAWN (R288). It raises INSN.OPERAND in a run of a checking launch (R357). -/
def execSpawn (a : BitVec 5) (s : State) : Out :=
  let va := (xget s a).toNat
  stepI (.spawn a) s <|
    match s.core.task, ownLaunch s with
    | some t, some l => do
      if checking s then raise .operand
      if va % 32 != 0 then raiseAt .align va
      let (s, bs) ← xread s .b va 32
      let (k, w) := contOf (ofBytesLE bs)
      if k.code.toNat % 4 != 0 || w ≥ 2 ^ 20 then raise .operand
      let s1 ← (if k.join = 0 then .ok s else do
        let (s, _, n, _) ← readCounter s k.join.toNat
        if n == 2 ^ 64 - 1 then raise .operand
        pure s : Res State)
      match ownSubtree l t k.region with
      | none => raiseAt .perm va
      | some path =>
        match headEff path with
        | none => raiseAt .perm va
        | some e =>
          if ringCount s1.dev e.rqbase ≥ e.qslots then raise .queueOvf
          let s2 ← (if k.join = 0 then .ok s1 else do
            let (s, x, n, _) ← readCounter s1 k.join.toNat
            objPut s x k.join.toNat 0 8 (n + 1) : Res State)
          let s2 := ringPut s2 e (contBytes k.code k.frame k.join k.region k.prio false)
          let d := addReady s2.dev { launch := l.id, region := k.region, prio := min k.prio e.prio, first := false, kind := .spawned k }
          pure { s2 with dev := putLaunch d { l with live := l.live + 1 } }
    | _, _ => .ok s

/-- JOIN (R288): it retires, waits in place in a C launch, or parks the task at the counter. -/
def execJoin (a : BitVec 5) (s : State) : Out :=
  let va := (xget s a).toNat
  let inC := ((ownLaunch s).map fun l => l.cls == 2).getD false
  let r : Res (State × Bool) := do
    let (s1, x, n, w) ← readCounter s va
    if w ≠ 0 then raise .operand
    if n == 0 then pure (s1, false)
    else if inC then pure (s1, true)
    else
      let s2 ← objPut s1 x va 8 8 (frameId s)
      pure ({ s2 with core := { s2.core with saving := some (.join (BitVec.ofNat 64 va)) } }, false)
  match r with
  | .error c => stepI (.join a) s (.error c)
  | .ok (s1, true) => waitX s1 .join
  | .ok (s1, false) => nextX s1

/-- The task that waits at a join counter becomes ready (R288). -/
def readyWaiter (s : State) (tf : Word) : State :=
  match savedOf s.dev tf with
  | some v =>
    let v' := { v with parked := false, joined := false }
    if v.joined then
      readyResume (s.onDev fun d => { d with saved := d.saved.map fun x => if x.taskFrame == tf then v' else x }) v' false
    else s
  | none => mapCores s fun c => match c.saving with
    | some (.join _) => if c.taskFrame == tf then { c with saving := some .joinDone } else c
    | _ => c

/-! ### NDONE -/

/-- The counter of a node of a live graph: read from SRAM, or from the record at the home slice. -/
def nodeCounter (s : State) (a : Acc) (g : Graph) (n : Nat) : Res (State × Nat) :=
  if n < g.sram then .ok (s, (g.counters[n]?).getD 0)
  else (vread s a .l2 (g.table.toNat + 64 * n + 36) 4).map fun r => (r.1, ofBytesLE r.2)

/-- Writes the counter of a node. -/
def putCounter (s : State) (a : Acc) (l : Launch) (g : Graph) (n v : Nat) : Res State :=
  if n < g.sram then .ok (s.onDev (putLaunch · { l with graph := some { g with counters := g.counters.set n v } }))
  else vwrite s a .x .l2 true (g.table.toNat + 64 * n + 36) (toBytesLE 4 v)

/-- NDONE (R290). -/
def execNdone (a b : BitVec 5) (s : State) : Out :=
  let table := xget s a
  let n := (xget s b).toNat
  stepI (.ndone a b) s <|
    match s.dev.launches.find? fun l => launchAsid l == s.core.asid && ((liveGraph l).map (·.table)) == some table with
    | none => raise .operand
    | some l =>
      match liveGraph l with
      | none => raise .operand
      | some g => do
        if n ≥ l.total then raise .operand
        let ac : Acc := { accDev s.dev (launchAsid l) with unit := some (s.core.gcore, .x) }
        let (s1, v) ← nodeCounter s ac g n
        if v == 0 then raise .graphOvf
        let s2 ← putCounter s1 ac l g n (v - 1)
        match (if v == 1 then readWaits s2 ac (table.toNat + 64 * n) 32 else none) with
        | some c => .error c
        | none => pure (if v == 1 then nodeReady s2 l ac table.toNat n else s2)

/-! ### YIELD and TEXIT -/

/-- Other work could take the core at once if the yielding task freed it (R288). -/
def otherWork (s : State) (t : Task) : Bool :=
  let g := s.core.gcore
  let v := savedRec s t .yield
  let s' : State := { s with core := { s.core with task := none }, dev := { s.dev with saved := s.dev.saved ++ [v] } }
  s.dev.ready.any fun w =>
    (match dispatchable s' g w.region with
      | some x => decide (t.prio ≤ x.prio)
      | none => false)
    || (decide (t.prio ≤ w.prio) && waitingC s.dev w && match cStart s' w.launch with
      | some (_, c) => c.cores.contains g
      | none => false)

/-- YIELD (R288, R316). -/
def execYield (s : State) : Out :=
  match s.core.task, ownLaunch s with
  | some t, some l =>
    if l.cls != 2 && (t.pagePending || otherWork s t) then
      nextX { s with core := { s.core with saving := some .yield } }
    else nextX s
  | _, _ => nextX s

/-- Step 1 of TEXIT waits: a command or a posted program is not complete. -/
def exitPending (s : State) : Bool :=
  [s.core.l, s.core.c, s.core.s].any (fun q => q.running || !q.queue.isEmpty) || !programsDone s.dev s.core.gcore

/-- Step 4 of TEXIT: the join counter of the task. -/
def exitJoin (s : State) (join : Word) : Res State :=
  if join = 0 then .ok s
  else do
    let (s1, x, n, w) ← readCounter s join.toNat
    if n == 0 then raise .graphOvf
    let s2 ← objPut s1 x join.toNat 0 8 (n - 1)
    if n == 1 && w != 0 then
      let s3 ← objPut s2 x join.toNat 8 8 0
      pure (readyWaiter s3 (BitVec.ofNat 64 w))
    else pure s2

/-- Step 3 of TEXIT: the outstanding QPOSTs go, with the slots that they reserve (R262). -/
def cancelPosts (s : State) : State :=
  { s with dev := { s.dev with qposts := s.dev.qposts.filter fun q => q.core != s.core.gcore }
           core := { s.core with q := vmap (fun r => { r with rsvd := 0 }) s.core.q } }

/-- Steps 3 to 5 of TEXIT. -/
def exitTask (s : State) : State :=
  let s := cancelPosts s
  match s.core.task with
  | none => { s with core := clearCore s.core }
  | some t =>
    match exitJoin s t.join with
    | .error c => trapX s c
    | .ok s => noteEnd { s with core := clearCore s.core, dev := digestPosts s.dev t } t.launch t.node

/-- Step 2 of TEXIT waits: an access of the task has not been performed at its level. -/
def accessesPending (s : State) : Bool :=
  (s.dev.nops.any fun n => n.core == s.core.gcore) || (s.dev.reqs.any fun r => r.core == s.core.gcore)
    || s.dev.peerOut.any fun p => p.core == s.core.gcore

/-- TEXIT (R288). -/
def execTexit (s : State) : Out :=
  if exitPending s then waitX s .texit
  else
    let s := flushL1 s
    if accessesPending s then waitX s .texit else .next (exitTask s)

end Sys2Proof.Machine
end

