-- ==== Sys2Proof/Machine/Seam.lean ====
section
/-! DEFINITION. Step transactions (R329 to R356): the words TBEGIN, TFLAG, PFLUSH, SVOTE, TWAIT and TSTAT, the Seam's
messages and timers (R338 to R346), the writes of its registers (R347), and the pleat controllers' own passes. -/

namespace Sys2Proof.Machine

/-! ### The tree (R340) -/

/-- N, the size of the domain. -/
def seamN (m : Seam) : Nat := fld m.cfg.toNat 28 12 + 1

/-- D, the degree. -/
def seamD (m : Seam) : Nat := fld m.cfg.toNat 60 3 + 1

/-- The device's rank. -/
def seamRank (m : Seam) : Nat := fld m.cfg.toNat 0 12

/-- The parent of a rank above 0. -/
def seamParent (m : Seam) : Nat := (seamRank m - 1) / seamD m

/-- The children of the device's rank. -/
def seamKids (m : Seam) : List Nat :=
  ((List.range (seamD m)).map fun k => seamD m * seamRank m + k + 1).filter fun r => decide (r < seamN m)

/-- The sender is the parent or a child. -/
def seamNear (m : Seam) (r : Nat) : Bool := (seamRank m != 0 && r == seamParent m) || (seamKids m).contains r

/-- Replaces the Seam node. -/
def putSeam (d : Dev) (m : Seam) : Dev := { d with seam := m }

/-- The Seam node has an A. -/
def hasAid (m : Seam) : Bool := m.state = .idle || m.state = .opened || m.state = .voted || m.state = .indoubt

/-- A message of the device's own rank. -/
def seamMsg (m : Seam) (aid : BitVec 16) : SeamMsg :=
  { aid, rank := seamRank m, count := 0, flags := 0, frank := 0, outcome := 0, next := 0 }

/-- Sends a message to each child. -/
def toKids (d : Dev) (f : Nat → OutMsg) : Dev := (seamKids d.seam).foldl (fun d k => d.send (f k)) d

/-! ### Decisions -/

/-- NEXT arrives at every controller (R339). -/
def applyNext (d : Dev) (next : BitVec 16) : Dev := setOutcome (setOutcome d next .aborted) (next + 1) .aborted

/-- The outcome that an OUTCOME field stands for. -/
def outOf (n : Nat) : PleatOutcome := if n == 1 then .committed else .aborted

/-- The decision that TWAIT returns on a core, and the snapshot that an abort brings back (R349, R355). -/
def takeDecision (m : Seam) (c : Core) (r : BitVec 5) (a : BitVec 16) : Core :=
  let c := match c.snapshot with
    | some q => if m.lOut = 2 ∧ c.txnAid.getD 0 = a then { c with seqno := q, snapshot := none } else c
    | none => c
  let v := BitVec.ofNat 64 (a.toNat + 2 ^ 16 * m.lOut.toNat + 2 ^ 18 * m.lFlags.toNat + 2 ^ 24 * m.frank)
  { c with twaitLate := false, x := if r = 0 then c.x else c.x.set r.toNat v (r.isLt) }

/-- A TWAIT that waits for the last decision retires. -/
def releaseTwait (m : Seam) (c : Core) : Core :=
  match c.xwait with
  | .twait r a => if a = m.lAid ∧ c.saving = none then { takeDecision m c r a with pc := c.pc + 4, xwait := .none } else c
  | _ => c

/-- A task's attempt has been decided aborted (R334). -/
def deadAt (a : BitVec 16) (txn : Option (BitVec 16)) (dead : Bool) : Bool := dead || txn == some a

/-- The decision for A at every controller (R336). -/
def decideDev (d : Dev) (outcome : Nat) (flags : BitVec 6) (frank : Nat) (next : BitVec 16) : Dev :=
  let a := d.seam.aid
  let d := applyNext (setOutcome (setOutcome d a (outOf outcome)) (a + 1) .aborted) next
  let d := if outcome == 1 then d
    else { d with saved := d.saved.map fun v => { v with txnDead := deadAt a v.txn v.txnDead } }
  putSeam d { d.seam with
    state := .idle, aid := next, flags := 0, lAid := a, lOut := BitVec.ofNat 2 outcome, lFlags := flags, frank
    collect := none, sent := false, queries := 0 }

/-- The decision for A is applied, and the decision point: in one step the waiting TWAITs are released (R345). -/
def applyDecision (s : State) (outcome : Nat) (flags : BitVec 6) (frank : Nat) (next : BitVec 16) : State :=
  let a := s.dev.seam.aid
  let d := decideDev s.dev outcome flags frank next
  mapCores { s with dev := d } fun c =>
    releaseTwait d.seam (if outcome == 1 then c else { c with txnDead := deadAt a c.txnAid c.txnDead })

/-- A DECIDE that a rank sends or forwards. -/
def decideMsg (m : Seam) (aid : BitVec 16) (outcome : Nat) (flags : BitVec 6) (frank : Nat) (next : BitVec 16) : SeamMsg :=
  { seamMsg m aid with flags, frank, outcome, next }

/-- Rank 0 decides (R344). -/
def rootDecide (s : State) (c : Collect) : State :=
  let m := s.dev.seam
  let ok := c.flags = 0 && c.count == seamN m
  let flags := if c.flags = 0 && !ok then flFault else c.flags
  let out := if ok then 1 else 2
  let s := s.onDev (toKids · fun k => .seamDecide k (decideMsg m m.aid out flags c.frank (m.aid + 2)))
  applyDecision s out flags c.frank (m.aid + 2)

/-! ### Votes (R343) -/

/-- The running vote, empty where collection has not started. -/
def collectOf (m : Seam) : Collect := m.collect.getD { count := 0, flags := 0, frank := 0, own := false, kids := [] }

/-- A vote joined to the running vote. -/
def joinVote (c : Collect) (count : Nat) (flags : BitVec 6) (frank : Nat) : Collect :=
  { c with
    count := c.count + count
    frank := if flags = 0 then c.frank else if c.flags = 0 then frank else min c.frank frank
    flags := c.flags ||| flags }

/-- The running vote goes up, or decides at rank 0. -/
def sendVote (s : State) (c : Collect) : State :=
  let m := s.dev.seam
  if seamRank m == 0 then rootDecide s c
  else
    let v := { seamMsg m m.aid with count := c.count, flags := c.flags, frank := c.frank }
    s.onDev fun d => (putSeam d { m with collect := some c, sent := true }).send (.seamVote (seamParent m) v)

/-- Holds a running vote, and sends it once it is flagged or complete. -/
def holdVote (s : State) (c : Collect) : State :=
  let m := s.dev.seam
  if m.sent then s
  else if c.flags ≠ 0 || (c.own && (seamKids m).all fun k => c.kids.contains k) then sendVote s c
  else s.onDev (putSeam · { m with collect := some c })

/-- The node runs and has an A: once EN is 0, A has been aborted and no message changes that (R338). -/
def seamRuns (d : Dev) : Bool := seamEn d && hasAid d.seam

/-- VOTE (R343): a vote of a child for A, one from each. -/
def execVote (v : SeamMsg) (s : State) : Out :=
  let m := s.dev.seam
  let c := collectOf m
  if seamRuns s.dev && v.aid == m.aid && (seamKids m).contains v.rank && !c.kids.contains v.rank then
    .next (holdVote s { joinVote c v.count v.flags v.frank with kids := v.rank :: c.kids })
  else .next s

/-- SEAM_VOTE_TIMER: TV × (h + 1) µs have passed since collection started (R343). -/
def execSeamVoteTimer (s : State) : Out :=
  let m := s.dev.seam
  match m.collect with
  | none => .refused (.cannotOccur "Seam vote timer")
  | some c =>
    if m.sent || !seamRuns s.dev then .refused (.cannotOccur "Seam vote timer")
    else
      let missing := if c.own then ((seamKids m).find? fun k => !c.kids.contains k).getD (seamRank m) else seamRank m
      .next (sendVote s (joinVote c 0 flTimeout missing))

/-- DECIDE (R341, R345): forwarded and applied when it is for A; a repeat for L changes nothing. -/
def execDecision (v : SeamMsg) (s : State) : Out :=
  let m := s.dev.seam
  if seamRuns s.dev && v.aid == m.aid && seamNear m v.rank then
    .next (applyDecision (s.onDev (toKids · fun k => .seamDecide k (decideMsg m v.aid v.outcome v.flags v.frank v.next)))
      v.outcome v.flags v.frank v.next)
  else .next s

/-- QUERY (R341, R346): answered from the recorded decision, or passed upward. -/
def execQuery (v : SeamMsg) (s : State) : Out :=
  let m := s.dev.seam
  if m.state = .disabled || !seamEn s.dev || !seamNear m v.rank then .next s
  else if m.lOut ≠ 0 && v.aid == m.lAid then
    .next (s.onDev (·.send (.seamDecide v.rank (decideMsg m m.lAid m.lOut.toNat m.lFlags m.frank (m.lAid + 2)))))
  else if hasAid m && v.aid == m.aid && seamRank m != 0 then
    .next (s.onDev (·.send (.seamQuery (seamParent m) (seamMsg m m.aid))))
  else .next s

/-- OPEN (R342): it starts a rank in WAITNEXT, which forwards it. -/
def execOpening (v : SeamMsg) (s : State) : Out :=
  let m := s.dev.seam
  if m.state = .waitnext && seamNear m v.rank then
    .next (s.onDev fun d =>
      let d := toKids d fun k => .seamOpen k { seamMsg m 0 with next := v.next }
      let d := applyNext d v.next
      putSeam d { d.seam with state := .idle, aid := v.next, flags := 0, collect := none, sent := false, queries := 0 })
  else .next s

/-- X waits in a TWAIT for an AID. -/
def waitsFor (a : BitVec 16) (c : Core) : Bool :=
  match c.xwait with
  | .twait _ b => b == a && c.saving.isNone
  | _ => false

/-- Every TWAIT that waits for A raises TXN.VOTE_TIMEOUT as the rank enters INDOUBT (R346). -/
def raiseTwaits (s : State) : State :=
  let a := s.dev.seam.aid
  ((allCores s).filter (waitsFor a)).foldl
    (fun s c => onCoreNo s c.gcore fun s => trapX s { cause := .voteTimeout, info := a.setWidth 64 }) s

/-- DECISION_TIMEOUT: TD µs without a decision after the vote or the last QUERY; after four, the rank is in doubt (R346). -/
def execDecisionTimeout (s : State) : Out :=
  let m := s.dev.seam
  if m.state ≠ .voted || !m.sent then .refused (.cannotOccur "decision timeout")
  else if m.queries < 4 then
    .next (s.onDev fun d => (putSeam d { m with queries := m.queries + 1 }).send (.seamQuery (seamParent m) (seamMsg m m.aid)))
  else .next (raiseTwaits (s.onDev (putSeam · { m with state := .indoubt })))

/-! ### The words (R350 to R356) -/

/-- A TXN cause, with the AID that TXN_AID holds. -/
def txnCause {α : Type} (s : State) (c : Cause) : Res α := raise c ((s.core.txnAid.getD 0).setWidth 64)

/-- A controller's current pass began 1,024 or more AIDs ago: openings are held (R337). -/
def scrubHold (d : Dev) : Bool := d.pleats.toList.any fun p => p.en && decide (2048 ≤ (d.seam.aid - p.began).toNat)

/-- The device's attempt is open; with EN = 0 it has been aborted (R338). -/
def isOpen (s : State) : Bool := decide (s.dev.seam.state = .opened) && seamEn s.dev

/-- Opens A (R351). -/
def openAttempt (d : Dev) : Dev :=
  let a := d.seam.aid
  let d := setOutcome (setOutcome d a .undecided) (a + 1) .undecided
  putSeam d { d.seam with state := .opened, flags := 0 }

/-- TBEGIN (R351): its checks are made once, before the wait. -/
def execTbegin (r : BitVec 5) (s : State) : Out :=
  let i : Instr := .tbegin r
  let m := s.dev.seam
  let again := decide (s.core.xwait = .tbegin)
  if !again && (!seamEn s.dev || s.core.asid != seamAsid s.dev) then stepI i s (raise .perm)
  else if !again && inCheck s then insnX s .operand i
  else if !(isOpen s || (decide (m.state = .idle) && !scrubHold s.dev)) then waitX s .tbegin
  else
    let s := if isOpen s then s else s.onDev openAttempt
    let s := if txnValid s then s else { s with core := { s.core with txnAid := some m.aid, txnDead := false, snapshot := some s.core.seqno } }
    nextX (xset s r (m.aid.setWidth 64))

/-- The task has joined A; tasks of a checking launch count as joined (R352). -/
def joinedA (s : State) : Bool := txnValid s || (inCheck s && s.core.asid == seamAsid s.dev)

/-- Adds flags to A. -/
def addFlags (s : State) (f : BitVec 6) : State := s.onDev (flagAttempt · f)

/-- TFLAG (R352). -/
def execTflag (a b : BitVec 5) (s : State) : Out :=
  let f := xget s a
  stepI (.tflag a b) s <|
    if f.toNat ≥ 64 then raise .operand
    else if !isOpen s || !joinedA s then txnCause s .noAttempt
    else .ok (if b = 0 ∨ xget s b ≠ 0 then addFlags s (f.setWidth 6) else s)

/-- What PFLUSH waits for (R353): posted programs, and the task's N operations. -/
def flushPending (s : State) : Bool :=
  !programsDone s.dev s.core.gcore || s.dev.nops.any fun n => n.core == s.core.gcore

/-- PFLUSH (R353). -/
def execPflush (s : State) : Out := if flushPending s then waitX s .pflush else nextX s

/-- A checking launch of A has a run outstanding (R354). -/
def checkOutstanding (d : Dev) : Bool := d.launches.any fun l => l.check && l.aid == some d.seam.aid

/-- Casts the device's vote (R354). -/
def castVote (s : State) (f : BitVec 6) : State :=
  let s := s.onDev (flagAttempt · f)
  let m := { s.dev.seam with state := .voted }
  let c := collectOf m
  let c := joinVote c (if m.flags = 0 then 1 else 0) m.flags (seamRank m)
  holdVote (s.onDev (putSeam · m)) { c with own := true }

/-- The attempt of an SVOTE that waits is open no more: its decision has been applied meanwhile, or the local abort of R338, which
the model takes for one (log entry 94). A vote that another task has cast is none (R354). -/
def decidedMeanwhile (s : State) (a : Word) : Bool :=
  let m := s.dev.seam
  decide (s.core.xwait = .svote) && !(seamEn s.dev && hasAid m && a == m.aid.setWidth 64)

/-- SVOTE (R354). -/
def execSvote (a b : BitVec 5) (s : State) : Out :=
  let i : Instr := .svote a b
  let m := s.dev.seam
  if inCheck s then insnX s .operand i
  else if (xget s b).toNat ≥ 64 || (xget s a).toNat ≥ 2 ^ 16 then insnX s .operand i
  else if decidedMeanwhile s (xget s a) then nextX s
  else if !isOpen s || xget s a != m.aid.setWidth 64 || !txnValid s then stepI i s (txnCause s .noAttempt)
  else if flushPending s || checkOutstanding s.dev then waitX s .svote
  else nextX (castVote s ((xget s b).setWidth 6))

/-- X waits in a TWAIT. -/
def inTwait (c : Core) : Bool :=
  match c.xwait with
  | .twait _ _ => true
  | _ => false

/-- TWAIT (R355). While it waits, the decision point releases it (R345). -/
def execTwait (r xa : BitVec 5) (s : State) : Out :=
  let i : Instr := .twait r xa
  let m := s.dev.seam
  let a := (xget s xa).setWidth 16
  let again := inTwait s.core
  if (xget s xa).toNat ≥ 2 ^ 16 then insnX s .operand i
  else if !again && !(attemptLive s.dev && a == m.aid) && a != m.lAid then stepI i s (txnCause s .noAttempt)
  else if inCheck s then insnX s .operand i
  else if a = m.lAid then nextX { s with core := takeDecision m s.core r a }
  else if m.state = .indoubt ∧ a = m.aid then
    if again && !s.core.twaitLate then stepI i s (raise .voteTimeout (a.setWidth 64))
    else waitX { s with core := { s.core with twaitLate := true } } (.twait r a)
  else waitX s (.twait r a)

/-- TWAIT_DEADLINE: 4 × TD µs have passed since a TWAIT that was in doubt at its issue (R355). -/
def execTwaitDeadline (s : State) : Out :=
  match s.core.xwait, s.core.twaitLate with
  | .twait _ a, true =>
    if s.core.saving.isSome then .refused (.cannotOccur "TWAIT deadline")
    else .next (trapX s { cause := .voteTimeout, info := a.setWidth 64 })
  | _, _ => .refused (.cannotOccur "TWAIT deadline")

/-- WINDOW_WRAP_TIMER: a TBEGIN has waited 10 ms while R337 holds the opening. -/
def execWindowWrapTimer (s : State) : Out :=
  if s.core.xwait = .tbegin ∧ s.core.saving = none ∧ s.dev.seam.state = .idle ∧ scrubHold s.dev = true then
    .next (trapX s { cause := .windowWrap, info := s.dev.seam.aid.setWidth 64 })
  else .refused (.cannotOccur "window wrap timer")

/-- TSTAT (R356). -/
def execTstat (r : BitVec 5) (s : State) : Out := nextX (xset s r (seamst s.dev.seam))

/-! ### Registers (R347) -/

/-- A request is trusted: it comes in the bound stream with its T bit set, and the interface is in RUN (R320). -/
def isTrusted (d : Dev) (t : Bool) : Bool := t && decide (d.iface = .run)

/-- An untrusted write while the interface is in CONFIG_LOCKED or RUN is discarded (R328, R347). -/
def barred (d : Dev) (trusted : Bool) : Bool := ifaceLocked d && !isTrusted d trusted

/-- Rewrites the metadata of every block of a region; where unlisted blocks would change, all are listed. -/
def mapBlocks (p : Pleat) (f : Bool × BitVec 16 → Bool × BitVec 16) : Pleat :=
  if f (false, 0) = (false, 0) then
    { p with blocks := (p.blocks.map fun e => (e.1, f e.2)).filter fun e => e.2 != (false, 0) }
  else
    { p with blocks := sfrom (false, 0) 0 ((List.range (16 * p.nframes)).map fun k => f (sget (false, 0) p.blocks k)) }

/-- A pass over the metadata of a region, which cannot read those with an uncorrectable error. -/
def passOver (p : Pleat) (f : Bool × BitVec 16 → Bool × BitVec 16) : Pleat :=
  p.badMeta.foldl (fun q k => { q with blocks := sset (false, 0) q.blocks k (sget (false, 0) p.blocks k) }) (mapBlocks p f)

/-- The local-abort pass of a controller: blocks of A or A + 1 take SEL := C and AID := A - 1 (R338). -/
def abortPass (a : BitVec 16) (p : Pleat) : Pleat :=
  if !p.passDue then p
  else { passOver p fun m => if m.2 == a || m.2 == a + 1 then (committedSlot p m, a - 1) else m with passDue := false }

/-- Every local-abort pass has ended: the node is DISABLED. -/
def endPasses (d : Dev) : Dev :=
  let a := d.seam.aid
  { d with pleats := vmap (abortPass a) d.pleats, seam := { d.seam with state := .disabled } }

/-- Bits that SEAMCFG holds. -/
def seamcfgMask : Word := 0xF0FFF0FFF0000FFF

/-- EN written 0: an undecided attempt is aborted locally, and the controllers make their passes (R338). -/
def disableSeam (d : Dev) (v : Word) : Dev :=
  let live := attemptLive d
  let a := d.seam.aid
  let m := { d.seam with cfg := v &&& seamcfgMask, flags := 0, collect := none, sent := false, queries := 0 }
  if live then
    let d := setOutcome (setOutcome d a .aborted) (a + 1) .aborted
    let d := { d with seam := m, pleats := vmap (fun p => if p.en then { p with passDue := true } else p) d.pleats }
    if d.pleats.toList.any (·.passDue) then d else putSeam d { m with state := .disabled }
  else putSeam d { m with state := .disabled }

/-- EN goes from 0 to 1: rank 0 opens the domain, any other rank waits for OPEN (R342). Local-abort passes that still run end at
once: R338 says nothing of EN written 1 before STATE reads DISABLED (DESIGN CHOICE, log entry 94). -/
def enableSeam (d : Dev) (v : Word) : Dev :=
  let d := if d.pleats.toList.any (·.passDue) then endPasses d else d
  let m := { d.seam with cfg := v &&& seamcfgMask, collect := none, sent := false, queries := 0, flags := 0 }
  if seamRank m == 0 then
    let next := m.lAid + 2
    let d := toKids (applyNext (putSeam d m) next) fun k => .seamOpen k { seamMsg m 0 with next }
    putSeam d { d.seam with state := .idle, aid := next }
  else putSeam d { m with state := .waitnext }

/-- SEAMCFG_WRITE. -/
def execSeamcfgWrite (v : Word) (trusted : Bool) (s : State) : Out :=
  let off := 0x40000
  .next (s.onDev fun d =>
    if barred d trusted || decide (fld v.toNat 28 12 < fld v.toNat 0 12) then herr d 4 off
    else if v.getLsbD 63 then (if seamEn d then herr d 5 off else enableSeam d v)
    else if seamEn d then disableSeam d v
    else putSeam d { d.seam with cfg := v &&& seamcfgMask })

/-- LOCAL_ABORT_PASS_END. -/
def execLocalAbortPassEnd (s : State) : Out :=
  if s.dev.pleats.toList.any (·.passDue) then .next (s.onDev endPasses) else .refused (.cannotOccur "local abort pass end")

/-- SEAMRES: the attempt in doubt is resolved (R346). -/
def execSeamres (v : Word) (trusted : Bool) (s : State) : Out :=
  let n := v.toNat
  let out := fld n 61 2
  let d := s.dev
  .next (if barred d trusted || !bit n 63 || (out != 1 && out != 2) || fld n 16 45 != 0
        || decide (d.seam.state ≠ .indoubt) || !seamEn d || bf 16 0 n != d.seam.aid then s.onDev (herr · 4 0x40018)
    else applyDecision s out 0 0 (d.seam.aid + 2))

/-- PLEATCFG_WRITE. A stack of 16 or more names an unlisted offset, which has no register (R327). -/
def execPleatcfgWrite (stack : Nat) (v : Word) (trusted : Bool) (s : State) : Out :=
  let n := v.toNat
  let nf := fld n 24 24
  let first := fld n 0 24
  let off := 0x40100 + 8 * stack
  .next (if stack ≥ 16 then s else s.onDev fun d =>
    let p := pleatAt d stack
    if barred d trusted then herr d 4 off
    else if p.en then herr d 5 off
    else if first + 2 * nf > 2 ^ 24 || (bit n 63 && nf == 0) then herr d 4 off
    else pleatSet d stack { p with en := bit n 63, busy := bit n 63, nframes := nf, first })

/-- PLEAT_INIT_DONE: every block of the region has SEL = 0 and AID = 0. -/
def execPleatInitDone (stack : Nat) (s : State) : Out :=
  let p := pleatAt s.dev stack
  if stack < 16 && p.busy then
    .next (s.onDev fun d => pleatSet d stack { p with busy := false, blocks := [], badMeta := [], began := d.seam.aid })
  else .refused (.cannotOccur "pleat initialisation")

/-- PLEAT_SCRUB_PASS (R337): the pass of a controller ends and the next one begins; metadata that it cannot read set
CORRUPT (R331, R348). -/
def execPleatScrubPass (stack : Nat) (s : State) : Out :=
  let p := pleatAt s.dev stack
  let m := s.dev.seam
  let live (y : BitVec 16) : Bool := attemptLive s.dev && (y == m.aid || y == m.aid + 1)
  if stack < 16 && p.en && !p.busy then
    .next (s.onDev fun d => pleatSet (if p.badMeta.isEmpty then d else flagAttempt d flCorrupt) stack
      { passOver p fun b => if live b.2 then b else (committedSlot p b, m.lAid + 1) with began := m.aid })
  else .refused (.cannotOccur "pleat scrub pass")

end Sys2Proof.Machine
end

