-- ==== Sys2Proof/Machine/System.lean ====
section
/-! DEFINITION. TRAP, TRET and TRET.SKIP (R369), and PGREQ (R315, R370). -/

namespace Sys2Proof.Machine

/-- TRAP (R369): INSN.BREAK in any mode. -/
def execTrap (k : BitVec 8) (s : State) : Out := .next (trapX s { cause := .brk, info := k.setWidth 64 })

/-- TRET (R369). -/
def execTret (s : State) : Out := if s.core.handler then .next (returnTrap s false) else insnX s .priv .tret

/-- TRET.SKIP (R369). -/
def execTretSkip (s : State) : Out := if s.core.handler then .next (returnTrap s true) else insnX s .priv .tretSkip

/-- Bits of x[xb] of PGREQ that must be zero. -/
def pgreqSpare : Word := 0xFFFFFFFF00FCFC00

/-- The slot of the page-request ring that PGREQ tries, and the request count of the ASID (R315). -/
def pageSlot (s : State) : Res (Nat × Nat × BitVec 8) :=
  if sget 0 s.dev.asidTab s.core.asid.toNat ≥ entBad then dramErr (asidPa s.dev s.core.asid) (asidPa s.dev s.core.asid)
  else match asidEnt s.dev s.core.asid with
  | none => raise .unmapped
  | some e =>
    let ring := fld e.n 64 64 / 4096 * 4096
    let c := sget 0 s.dev.pgCount s.core.asid.toNat
    if ring + 4096 > hbmEnd then raiseAt .unmapped ring true
    else if sealBreak s.dev (asidSealed s.dev s.core.asid e) ring then raiseAt .sealed ring true
    else .ok (ring + 32 * (c % 128), c, bf 8 192 e.n)

/-- The first 24 bytes of a page-request record. -/
def pageRecord (s : State) (va xb : Word) : List Byte :=
  toBytesLE 8 va.toNat ++ toBytesLE 8 s.core.taskFrame.toNat ++ toBytesLE 2 (fld xb.toNat 0 10)
    ++ toBytesLE 1 (fld xb.toNat 16 2) ++ toBytesLE 1 (fld xb.toNat 24 8) ++ toBytesLE 4 0

/-- The task waits for its page service. -/
def markPending (t : Option Task) (sem : BitVec 8) : Option Task := t.map fun t => { t with pagePending := true, pgSem := sem }

/-- PGREQ (R370). -/
def execPgreq (d a b : BitVec 5) (s : State) : Out :=
  let i : Instr := .pgreq d a b
  let xb := xget s b
  if !s.core.handler then insnX s .priv i
  else if xb &&& pgreqSpare ≠ 0 then insnX s .operand i
  else stepI i s do
    let (pa, c, vec) ← pageSlot s
    match sysRead s.dev [] (pa + 24) 8 with
    | none => sysErr s.dev [] pa (pa + 24) 8
    | some q =>
      let s := readNotes s (pa + 24) 8
      if ofBytesLE q ≠ 0 then pure (xset s d 1)
      else
        let bs := pageRecord s (xget s a) xb ++ toBytesLE 8 (c + 1)
        let dev := { sysWrite s.dev pa bs with pgCount := sset 0 s.dev.pgCount s.core.asid.toNat (c + 1) }
        let s1 := { s with dev := dev.send (.msix (1025 + vec.toNat))
                           core := { s.core with task := markPending s.core.task (xb.extractLsb' 24 8) } }
        pure (xset s1 d 0)

end Sys2Proof.Machine
end

