-- ==== Sys2Proof/Machine/Units.lean ====
section
/-! DEFINITION. Steps of the units on their own: completion and retirement of engine words (R25, R171, R198), the start of
a copy engine's post (R252), posted near-memory operations (R224), the watchdog (R299), the delivery of a cause
(R364, R367), and words that no encoding assigns (R37). -/

namespace Sys2Proof.Machine

/-! ### Completion and retirement -/

/-- The word in flight of C is complete: no word that issued past it can be cancelled any more (R363). -/
def flightDone (s : State) (f : Flight) : State :=
  { s with core := { s.core with c := { s.core.c with flight := some { f with done := true, late := none }, undo := none } } }

/-- MATRIX_WORD_COMPLETE (R198): the matrix pipeline has finished the word. -/
def execMatrixWordComplete (s : State) : Out :=
  match s.core.c.flight with
  | some f =>
    if f.kind = .matrix && !f.done then .next (flightDone s f) else .refused (.cannotOccur "matrix word completion")
  | none => .refused (.cannotOccur "matrix word completion")

/-- Flags joined to VFSTAT. -/
def addVfstat (c : Core) (fl : FFlags) : Core := { c with vfstat := c.vfstat ||| fl.setWidth 64 }

/-- The index of the chunk in its register or path. -/
def chunkOf : ResPlace → Nat
  | .v _ k | .p _ k | .path _ k | .tile _ k | .stream _ k | .queue _ k => k
  | .x _ | .idx _ _ => 0

/-- A mismatch that the second execution does not meet is counted (R91, log entry 81). -/
def countMismatch (d : Dev) (g : Nat) (u : UnitId) : Dev :=
  { d with elogCount := (bumpCount (causeCode .residue (unitCode u)) (corePlace g) d.elogCount).1 }

/-- Residue mismatches that a check meets (R91): those that the second execution does not meet are counted and gone. The
first of the others stands. -/
def retried (s : State) (u : UnitId) (hit : ResPlace → Bool) : State × Option ResMark :=
  let hits := s.core.residues.filter fun m => hit m.place
  (if hits.all (·.lasting) then s else
    { s with core := { s.core with residues := s.core.residues.filter fun m => m.lasting || !hit m.place }
             dev := countMismatch s.dev s.core.gcore u }, hits.find? (·.lasting))

/-- A fault of the data path of a unit (R90). -/
def onPath (u : UnitId) : ResPlace → Bool
  | .path w _ => decide (w = u)
  | _ => false

/-- Registers written by number. -/
def putRegs (c : Core) (l : List (Nat × VReg)) : Core :=
  l.foldl (fun c r => if h : r.1 < 64 then { c with v := c.v.set r.1 r.2 h } else c) c

/-- Positions of streams restored (R101). -/
def putPos (c : Core) (l : List (BitVec 4 × Nat)) : Core := l.foldl (fun c p => gsetReg c p.1 { gget c p.1 with pos := p.2 }) c

/-- The word of C in flight stops as its hem phase ends: its streams stand where they stood, and the lane-flag record and the
flags are those that it leaves (R101, R173). -/
def hemStop (s : State) (f : Flight) (l : Late) (lflags : SMap FFlags) (fl : FFlags) (c : CauseRec) : State :=
  let t := stopFlight s .c f c
  { t with core := addVfstat { putPos t.core l.pos with lflags } fl }

/-- The push of an elementary-function word, by the register as the word found it at its issue (R102). -/
def hemPush (s : State) (p : StreamReg × Ty × List (Nat × Nat)) : State × Option CauseRec :=
  let vecs := p.2.2.map fun x => (x.1, bit x.2)
  pushAll (wordPlan (descOf p.1.desc.toNat) [] p.1.pos vecs) vecs p.1 s

/-- A hem phase ends (R171): the word writes its destinations, its lane-flag entries and VFSTAT together, or raises its cause
(R173). What its registers and lane flags hold has been seen already by words that issued past it (R363). The residue check of
the phase retries it without a second pop; a mismatch that stands stops the word (R91, R173). -/
def hemEnd (s0 : State) (f : Flight) (l : Late) : State :=
  let before := if s0.core.c.undo.isSome then (s0.core.c.undo.map (·.lflags)).getD [] else s0.core.lflags
  let (s, m) := retried s0 (.seq .c) (onPath (.seq .c))
  match l.cause, m with
  | some c, _ => hemStop s f l l.lflags l.flags { cause := c, info := l.info }
  | none, some m => hemStop s f l before 0 { cause := .residue, info := BitVec.ofNat 64 (chunkOf m.place) }
  | none, none =>
    let s1 := if s.core.c.undo.isSome then s else { s with core := { putRegs s.core l.regs with lflags := l.lflags } }
    let w := match l.push with
      | some p => hemPush s1 p
      | none => (s1, none)
    match w.2 with
    | some c => hemStop w.1 f l before 0 c
    | none => flightDone { w.1 with core := addVfstat w.1.core l.flags } f

/-- HEM_PHASE_END (R171). -/
def execHemPhaseEnd (s : State) : Out :=
  match s.core.c.flight with
  | some f =>
    if f.kind = .hem && !f.done then
      .next (match f.late with
        | some l => hemEnd s f l
        | none => flightDone s f)
    else .refused (.cannotOccur "hem phase end")
  | none => .refused (.cannotOccur "hem phase end")

/-- A sequencer belongs to the core in focus: its own, or a copy engine that runs a program of its task. -/
def ownSeq (s : State) : SeqId → Bool
  | .e m => if h : m < 48 then (s.dev.ce[m]'h).prog == some s.core.gcore else false
  | _ => true

/-- A fence or NMFEN word. -/
def isFence : FlightKind → Bool
  | .fence _ _ | .nmfen => true
  | _ => false

/-- A fence that its sequencer's freeze has met before it retired: it is executed again, and does not retire now (R219). -/
def frozenFence (s : State) (u : SeqId) (f : Flight) : Bool := isFence f.kind && issuesNot s u && !(seqOf s u).flushed

/-- A complete word has nothing left to wait for (R216, R247), and is no fence that is executed again (R219). -/
def mayRetire (s : State) (u : SeqId) (f : Flight) : Bool :=
  f.done && !frozenFence s u f && match f.kind with
    | .fence a sc => !fencePending s (.seq u) a sc
    | .nmfen => !nopsPending s (.seq u)
    | _ => true

/-- WORD_RETIRE (R25). -/
def execWordRetire (u : SeqId) (s : State) : Out :=
  if noUnit u then .fault .noSuchUnit
  else match (seqOf s u).flight with
    | some f => if ownSeq s u && mayRetire s u f then .next (retireWord s u f) else .refused (.cannotOccur "word retirement")
    | none => .refused (.cannotOccur "word retirement")

/-! ### Copy engines (R251, R252) -/

/-- A post's record: entry and parameter, read under the posting task. -/
def readRecordOf (s : State) (m : Nat) (p : Post) : Res (State × Word × Word) := do
  let (s, bs) ← vread s (accOf { s with unit := .seq (.e m) }) .l2 p.addr.toNat 16
  let n := ofBytesLE bs
  pure (s, bf 64 0 n, bf 64 64 n)

/-- An engine takes its first post, with the posting core in focus. A record that cannot be read, and an entry that is not
aligned, stop the program before its first word. The post is used up then: a TRET lets the program whose record could not be
read go on at PC 0 with i0 = 0 (R252 does not say what it goes on with: DESIGN CHOICE, log entry 91). -/
def startPost (s : State) (m : Nat) (p : Post) : State :=
  let start (s : State) (q : Seq) : State :=
    s.onDev fun d => if h : m < 48 then
      { d with ce := d.ce.set m { (d.ce[m]'h) with seq := q, posts := (d.ce[m]'h).posts.tail, prog := some p.core, num := p.num } h } else d
  match readRecordOf s m p with
  | .error c => raiseFlags (stopEvent (start s { Seq.init with running := true, cause := some c.bare }) (.e m)) c
  | .ok (s1, entry, par) =>
    let q := { iset Seq.init 0 par with pc := entry, running := true }
    if entry &&& 7 ≠ 0 then
      stopEvent (start s1 { q with cause := some { cause := .alignPc, pc := entry } }) (.e m)
    else start s1 q

/-- What the read of a record waits for (R319, R347). -/
def recordAwait (s : State) (m : Nat) (p : Post) : Option Await :=
  match readRecordOf s m p with
  | .error c => c.await
  | .ok _ => none

/-- The engine can do no more about a record than wait: its region is being initialised, or the home has yet to answer. -/
def recordBusy (s : State) (m : Nat) (p : Post) : Bool :=
  match recordAwait s m p with
  | some (.ask _ a) => s.dev.reqs.any (·.serves p.core (.seq (.e m)) a)
  | some .busy => true
  | none => false

/-- COPY_ENGINE_START: the engine asks the home of a record that is elsewhere, and starts once it has the record. -/
def execCopyEngineStart (m : Nat) (s : State) : Out :=
  if h : m < 48 then
    let e := s.dev.ce[m]'h
    match e.posts with
    | p :: _ =>
      if e.prog.isSome || recordBusy (focus s p.core) m p then .refused (.cannotOccur "copy engine start")
      else match recordAwait (focus s p.core) m p with
        | some w => .next (onCoreNo s p.core fun s => awaitAsk s (.seq (.e m)) w)
        | none => .next (onCoreNo s p.core fun s => startPost s m p)
    | [] => .refused (.cannotOccur "copy engine start")
  else .fault .noSuchUnit

/-! ### Near-memory operations (R224) -/

/-- Two operations of one unit touch overlapping bytes; a copy engine is one unit whichever cores posted its programs. -/
def nopClash (a b : NOp) : Bool :=
  decide (a.unit = b.unit) && a.pa == b.pa && (a.core == b.core || match a.unit with
    | .seq u => isCopy u
    | .x => false)

/-- N_OPERATION_PERFORM: an accepted operation, in program order of its unit at its bytes. -/
def execNOperationPerform (k : Nat) (s : State) : Out :=
  match s.dev.nops[k]? with
  | none => .refused (.cannotOccur "N operation")
  | some n =>
    if (s.dev.nops.take k).any (nopClash n) || regionBusy s.dev n.pa then .refused (.cannotOccur "N operation")
    else .next ((performNop s n).onDev fun d => { d with nops := d.nops.eraseIdx k })

/-! ### The watchdog (R299) -/

/-- LIMIT of the core in focus. -/
def watchdogOn (s : State) : Bool := s.core.wdogLimit &&& 0xFFFFFFFF != 0

/-- A counted wait of X. -/
def countedX : XWait → Bool
  | .swait | .cacq | .join | .ecmd | .redst => true
  | .wfe timed => !timed
  | _ => false

/-- A counted wait of a sequencer. -/
def countedSeq : SWait → Bool
  | .sem _ _ | .pop _ _ | .push _ _ | .counted | .post _ _ => true
  | _ => false

/-- The wait that a word which raised SYNC.WAIT_TIMEOUT goes on showing (R297); it has taken no action, so what a QPOST has
read is read again. -/
def shownWait (w : SWait) : SWait :=
  match w with
  | .post _ _ => .counted
  | w => w

/-- A waiting word of a sequencer stops on a cause: it resumes at the element at which it waits. A flushed word's cause is
discarded (R300). -/
def stopWaiting (s : State) (u : SeqId) (cause : Cause) (info : Nat → Word) : State :=
  let s := cancelEarly s u
  let q := seqOf s u
  let e := (q.resume.map (·.e)).getD 0
  let issued := (q.resume.map (·.issued)).getD false
  let descs := (q.resume.map (·.descs)).getD []
  let keep := (q.resume.map (·.keep)).getD []
  let s := match q.resume with
    | some r => { s with core := releaseHeld s.core r }
    | none => s
  let c : CauseRec := { cause, info := info e, e, issued, pc := q.pc, descs, keep }
  let s := dropAsks s (.seq u)
  if q.flushed then raiseFlags (setSeq s u (endFlush { seqOf s u with resume := none })) c
  else
    let wait := if cause = .waitTimeout then shownWait q.wait else .none
    raiseFlags (setSeq (stopEvent s u) u { seqOf s u with cause := some c, delivered := false, resume := none, wait }) c

/-- The cause of a word that has waited LIMIT cycles (R299). -/
def timeoutWord (s : State) (u : SeqId) : State := stopWaiting s u .waitTimeout (BitVec.ofNat 64 ·)

/-- WAIT_TIMEOUT: a counted wait has lasted LIMIT cycles. -/
def execWaitTimeout (u : UnitId) (s : State) : Out :=
  match u with
  | .x =>
    if watchdogOn s && countedX s.core.xwait && s.core.saving.isNone then .next (trapX s { cause := .waitTimeout })
    else .refused (.cannotOccur "wait timeout")
  | .seq q =>
    if noUnit q then .fault .noSuchUnit
    else if watchdogOn s && ownSeq s q && countedSeq (seqOf s q).wait && (seqOf s q).cause.isNone
        && (isCopy q || s.core.saving.isNone || stalledWord (seqOf s q)) then .next (timeoutWord s q)
    else .refused (.cannotOccur "wait timeout")

/-! ### Delivery (R364) -/

/-- X may take a cause of another unit now: it is at a boundary, or waits in an instruction of R364. -/
def takesCause (c : Core) : Bool :=
  !c.handler && c.saving.isNone && xAbandons c.xwait && c.task.isSome && !((c.task.map (·.hold)).getD false)

/-- The pending cause of a sequencer. -/
def pendingCause (q : Seq) : Option CauseRec := if q.delivered then none else q.cause

/-- TRAP_DELIVERY (R367). -/
def execTrapDelivery (u : SeqId) (s : State) : Out :=
  if noUnit u then .fault .noSuchUnit
  else match pendingCause (seqOf s u) with
    | some c =>
      if takesCause s.core && ownSeq s u then
        .next (deliverCause s (.seq u) c)
      else .refused (.cannotOccur "trap delivery")
    | none => .refused (.cannotOccur "trap delivery")

/-! ### Words that no encoding assigns (R37) -/

/-- The word decodes to an instruction of the unit. -/
def decodes (u : UnitId) (w : Word) : Bool :=
  match u with
  | .x => match decodeScalar (w.toNat % 2 ^ 32) with
    | .ok _ => true
    | .error _ => false
  | .seq _ => match decodeEngine w.toNat with
    | .ok _ => true
    | .error _ => false

/-- INSN_ILLEGAL. -/
def execInsnIllegal (u : UnitId) (w : Word) (s : State) : Out :=
  if decodes u w then .refused (.cannotOccur "illegal word")
  else match u with
    | .x => .next (trapX s { cause := .illegal, info := w &&& 0xFFFFFFFF })
    | .seq q =>
      if noUnit q then .fault .noSuchUnit
      else
        .next (stopBits s q w { cause := .illegal })

end Sys2Proof.Machine
end

