-- ==== Sys2Proof/Machine/Peer.lean ====
section
/-! DEFINITION. What arrives over the links: accesses and signals of peers (R306), pages shared with one peer (R318,
R319), the answers to XFER, RSIG and P-path accesses (R249, R250), and the links themselves (R323, R374, R375). -/

namespace Sys2Proof.Machine

/-! ### Pairing (R306) -/

/-- The lowest local ASID that accepts a sender's ASID. -/
def pairedAsid (d : Dev) (a : BitVec 12) : Option (BitVec 12) :=
  ((List.range 4096).find? fun k => match asidEnt d (BitVec.ofNat 12 k) with
    | some e => bit e.n 207 && bf 12 208 e.n == a
    | none => false).map (BitVec.ofNat 12)

/-- Runs an access of the device that no task of a core makes. -/
def asDevice {α : Type} (s : State) (f : State → Res (State × α)) : Res (State × α) :=
  (f { s with core := { s.core with task := none } }).map fun r =>
    ({ r.1 with core := { r.1.core with task := s.core.task } }, r.2)

/-- What a P access takes from the paired ASID. For a write with no attempt open, the receiver chooses the cause from its
own state (R334). -/
def peerAcc (d : Dev) (asid : BitVec 12) : Acc :=
  let dead := decide (d.seam.state = .idle) && decide (d.seam.lOut = 2)
  { accFor d asid (if dead then some d.seam.lAid else none) 0 with dead }

/-! ### Shared pages (R318, R319) -/

/-- The descriptor of a PEER page, as an access with the match set of a translation finds it (R333): its address and its 64
bytes. -/
def sharedDesc (d : Dev) (asid : BitVec 12) (x : Xlat) : Option (Nat × Nat) :=
  if !bit x.leaf 59 then none
  else match asidEnt d asid with
    | none => none
    | some e =>
      let pa := fld e.n 128 64 + 64 * fld x.leaf 12 40
      (sysRead d x.mset pa 64).map fun bs => (pa, ofBytesLE bs)

/-- HOME and PARTNER. -/
def homeOf (n : Nat) : Nat := fld n 64 16
/-- See `homeOf`. -/
def partnerOf (n : Nat) : Nat := fld n 80 16
/-- The frame. -/
def sharedFrame (n : Nat) : Nat := fld n 0 64 / 4096 * 4096
/-- PINEND. -/
def pinEndOf (n : Nat) : Nat := fld n 128 64
/-- The install times that are recorded, newest first. -/
def installs (n : Nat) : List Nat := ((List.range 4).map fun k => fld n (192 + 64 * k) 64).filter (· != 0)

/-- Writes HOME and PARTNER. -/
def putHome (d : Dev) (pa home partner : Nat) : Dev := sysWrite d (pa + 8) (toBytesLE 2 home ++ toBytesLE 2 partner)

/-- A pin: PINCNT and PINEND. -/
def pinPage (s : State) (pa n : Nat) : State :=
  s.onDev (sysWrite · (pa + 12) (toBytesLE 4 ((fld n 96 32 + 1) % 2 ^ 32) ++ toBytesLE 8 (s.timeNs + 100000000)))

/-- Installs that lie within the last 1 ms. -/
def recentInstalls (s : State) (n : Nat) : Nat := ((installs n).filter fun t => decide (s.timeNs ≤ t + 1000000)).length

/-- The page of an address. -/
def pageOf (va : Word) : Word := BitVec.ofNat 64 (va.toNat / 4096 * 4096)

/-- The move of the page of a descriptor, while it lasts. -/
def moveOf (d : Dev) (desc : Nat) : Option PMove := d.moves.find? fun m => m.desc == desc

/-- The home moves a page to its partner: it accepts no access to the page from now on, its caches are cleaned, and the bytes
and ages go out. A page with an uncorrectable error delivers no data: it stays, and the event is logged (R376, R377). The lines
of an open window on the frame are written back and dropped like the others, and the window stays on this frame: R238 keeps
them in L2, R319 step 2 drops them, and neither names the other (DESIGN CHOICE, log entry 91). -/
def movePage (s : State) (rank : Nat) (l asid : BitVec 12) (va : Word) (pa n : Nat) : State :=
  let f := sharedFrame n
  let s := dropAllL1 s fun k => k / 64 == f / 4096
  if l2Bad s.dev f 4096 then elogOpen s (causeCode .sramUe 7) (rowKey (f / 32)) f
  else
    let s := readNotes (s.onDev (wbWhere · fun p => p / 4096 == f / 4096)) f 4096
    match (List.range 128).find? fun k => s.dev.badWords.contains (f / 32 + k) with
    | some k => elogOpen s dramCode (rowKey (f / 32 + k)) (f + 32 * k)
    | none =>
      let bytes := (List.range 4096).map fun i => hbmByte s.dev (f + i)
      let ages := (installs n).map fun t => s.timeNs - t
      s.onDev fun d => Dev.send
        { d with moves := d.moves ++ [({ asid := l, va := pageOf va, peer := asid, desc := pa, rank, pend := [] } : PMove)] }
        (.pageMove rank asid (pageOf va) bytes ages)

/-- After a partner's write at the home (R319): the page moves, or is pinned. `asid` is the local ASID and `a` the
sender's. -/
def afterPartnerWrite (s : State) (rank : Nat) (asid a : BitVec 12) (va : Word) (x : Xlat) : State :=
  match sharedDesc s.dev asid x with
  | none => s
  | some (pa, n) =>
    if partnerOf n != rank || pinEndOf n != 0 || (moveOf s.dev pa).isSome then s
    else if recentInstalls s n < 4 then movePage s rank asid a va pa n
    else (pinPage s pa n).onDev (·.send (.pin rank a (pageOf va)))

/-! ### P accesses -/

/-- The sender's rank and ASID of an access. -/
def senderOf : PAccess → Nat × BitVec 12
  | .read r a _ _ _ | .write r a _ _ _ | .atomic r a _ _ _ _ | .elem r a _ _ _ | .signal r a _ _ _ | .nop r a _ _ _ _ _ | .pin r a _ => (r, a)

/-- The number under which its sender waits for an access. -/
def numberOf : PAccess → Option Nat
  | .read _ _ id _ _ | .write _ _ id _ _ | .atomic _ _ id _ _ _ | .nop _ _ id _ _ _ _ => some id
  | _ => none

/-- The home of a PEER page answers an access of a unit, or of the device: a graph that waits for its node table may open
then (R319). -/
def applyAnswer (s : State) (id : Nat) (r : PAnswer) : State :=
  let own := s.dev.reqs.any fun q => q.id == id && q.core == Config.cores
  let s := s.onDev fun d => { d with reqs := d.reqs.map fun q => if q.id == id && q.ans.isNone then { q with ans := some r } else q }
  if own then openGraphs s else s

/-- The answer to an access goes to its sender; one of this device's own, which came back to it, is answered here (R319). -/
def answerWith (s : State) (p : PAccess) (id : Nat) (r : PAnswer) : State :=
  if (senderOf p).1 == ownRank s.dev then applyAnswer s id r else s.onDev (·.send (.answer (senderOf p).1 id r))

/-- The answer to an access that has been performed, or accepted (R226, R319). -/
def answer (s : State) (p : PAccess) (bs : List Byte) : State :=
  match numberOf p with
  | some id => answerWith s p id (.data bs)
  | none => s.onDev (·.send (.reply (senderOf p).1 none bs))

/-- A refusal: one with TXN.ABORTED carries the receiver's LAID (R334), one with INTEGRITY.DRAM_UE the stack (R366). What the
cause leaves in this device stays here (R310, R348, R378). -/
def refuse (s : State) (p : PAccess) (c : CauseRec) : State :=
  let s := correctWords (s.onDev (causeLeaves c false)) c.soft
  let info : BitVec 16 := if c.cause = .aborted then s.dev.seam.lAid else if c.cause = .dramUe then c.info.setWidth 16 else 0
  let code := causeCode c.cause 0
  match numberOf p with
  | some id => answerWith s p id (.refused code info)
  | none => s.onDev (·.send (.reply (senderOf p).1 (some code) (toBytesLE 2 info.toNat)))

/-- An access waits for the end of the move of its page (R319). -/
def holdAccess (s : State) (desc : Nat) (p : PAccess) : State :=
  s.onDev fun d => { d with moves := d.moves.map fun m => if m.desc == desc then { m with pend := m.pend ++ [p] } else m }

/-- The move under way of the page that a leaf of an ASID names. -/
def movingDesc (d : Dev) (asid : BitVec 12) (x : Xlat) : Option Nat :=
  match sharedDesc d asid x with
  | some (pa, _) => if (moveOf d pa).isSome then some pa else none
  | none => none

/-- An access at a virtual address by a peer, which answers bytes, and what a write does to a PEER page. An access that
reaches a page whose home has moved on goes to the new home; one to a page that moves waits. -/
def peerAt (s : State) (p : PAccess) (l : BitVec 12) (va : Word) (k : Kind) (moves : Bool)
    (f : Acc → Xlat → State → Res (State × List Byte)) : State :=
  let acc := peerAcc s.dev l
  match translate s.dev acc k va.toNat with
  | .error c => refuse s p c
  | .ok x =>
    match x.remote, movingDesc s.dev l x with
    | some r, _ => s.onDev (·.send (.access r p))
    | none, some pa => holdAccess s pa p
    | none, none =>
      match asDevice s (f acc x) with
      | .error c => refuse s p c
      | .ok (s1, bs) =>
        let s2 := answer s1 p bs
        if moves && bit x.leaf 59 then afterPartnerWrite s2 (senderOf p).1 l (senderOf p).2 va x else s2

/-- A near-memory operation of a peer, performed at once at its place. -/
def peerNop (va : Word) (op : Nat) (f32 : Bool) (v : BitVec 32) (acc : Acc) (x : Xlat) (s : State) : Res (State × List Byte) := do
  if x.attr == 2 then raiseAt .cuffAttr va.toNat true
  if x.pa ≥ farBase then raiseAt .perm va.toNat true
  placeWriteCheck s.dev acc x va.toNat 4
  let o : NOp := { core := Config.cores, unit := .x, pa := x.pa, op, f32, val := v, pleat := x.attr == 1, mset := acc.mset,
                   foldAid := acc.foldAid }
  if nopBad s.dev o then sysErr s.dev acc.mset va.toNat x.pa 4
  pure (performNop (s.mark x true) o, [])

/-- A signal of a peer to a semaphore (R250, R296 bit 5). -/
def peerSignal (s : State) (l : BitVec 12) (core : Nat) (sem : BitVec 8) (inc : Nat) : Res State :=
  let c := coreAt s core
  if core ≥ Config.cores || c.task.isNone || c.asid != l then raise .perm
  else match semAdd c 5 sem inc with
    | .error .refused => raise .perm
    | .error .overflow => raise .semOvf (sem.setWidth 64)
    | .ok c => .ok (putCore s core c)

/-- An access of a peer under its paired ASID. -/
def peerAccess (s : State) (p : PAccess) (l : BitVec 12) : State :=
  match p with
  | .read _ _ _ va n => peerAt s p l va .read false fun acc _ s => vread s acc .l2 va.toNat n
  | .write _ _ _ va bs => peerAt s p l va .write true fun acc _ s => (vwriteMasked s acc .x .l2 true va.toNat bs).map fun s => (s, [])
  | .atomic _ _ _ va n op => peerAt s p l va .both true fun acc x s =>
      (placeAtomic s acc x va.toNat n op).map fun r => (r.1, toBytesLE n r.2)
  | .elem _ _ va bs ext => peerAt s p l va .write false fun acc _ s =>
      (vwrite s acc .x .l2 false va.toNat bs).map fun s => (ext.foldl (fun s e => markRange s acc e.1 e.2) s, [])
  | .nop _ _ _ va op f32 v => peerAt s p l va .write true (peerNop va op f32 v)
  | .signal _ _ core sem inc =>
    match peerSignal s l core sem inc with
    | .error c => refuse s p c
    | .ok s1 => answer s1 p []
  | .pin _ _ va =>
    match translate s.dev (peerAcc s.dev l) .read va.toNat with
    | .error _ => s
    | .ok x => match sharedDesc s.dev l x with
      | some (pa, n) => pinPage s pa n
      | none => s

/-- The local ASID of an access: the paired one, or its own where it has come back to its sender (R306, R319). -/
def localAsid (d : Dev) (p : PAccess) : Option (BitVec 12) :=
  if (senderOf p).1 == ownRank d then some (senderOf p).2 else pairedAsid d (senderOf p).2

/-- An access that arrives over the links. -/
def receiveAccess (s : State) (p : PAccess) : State :=
  match localAsid s.dev p with
  | none => refuse s p { cause := .perm }
  | some l => peerAccess s p l

/-- The access waits for a pleat region whose metadata are being initialised (R347). -/
def accessBusy (d : Dev) (p : PAccess) : Bool :=
  match localAsid d p, accPlace p with
  | some l, some (_, va) => match translate d (peerAcc d l) .read va.toNat with
    | .ok _ => false
    | .error c => decide (c.await = some .busy)
  | _, _ => false

/-- P_ACCESS_RECEIVE (R306). -/
def execPAccessReceive (p : PAccess) (s : State) : Out :=
  if accessBusy s.dev p then .refused (.cannotOccur "P access") else .next (receiveAccess s p)

/-- The partner has installed a page that moved to it: it is home, and the accesses that arrived meanwhile go there in their
order, the partner's own among them (R319). -/
def pageInstalled (s : State) (asid : BitVec 12) (va : Word) : State :=
  match s.dev.moves.find? fun m => m.peer == asid && m.va == pageOf va with
  | none => s
  | some m =>
    s.onDev fun d =>
      let d := putHome { d with moves := d.moves.filter fun x => x.desc != m.desc } m.desc m.rank (ownRank d)
      m.pend.foldl (fun d p => d.send (.access m.rank p)) d

/-- PEER_PAGE_INSTALL (R319): the partner takes the bytes into its frame, becomes home and says so. It waits while a window is
open on a line of the frame: R243 refuses the write, and names no issuing unit that would raise the cause (log entry 91). -/
def execPeerPageInstall (asid : BitVec 12) (va : Word) (bytes : List Byte) (ages : List Nat) (s : State) : Out :=
  match translate s.dev (accDev s.dev asid) .read va.toNat with
  | .error _ => .refused (.cannotOccur "peer page installation")
  | .ok x =>
    match sharedDesc s.dev asid x with
    | none => .refused (.cannotOccur "peer page installation")
    | some (pa, n) =>
      let f := sharedFrame n
      if homeOf n == ownRank s.dev || f ≥ hbmEnd || bytes.length != 4096
          || s.dev.rwins.any fun w => w.lines.any fun k => k / 32 == f / 4096 then .refused (.cannotOccur "peer page installation")
      else
        let now := s.timeNs
        let times := (now :: ages.map fun g => now - g).take 4
        let d := homeStore s.dev f bytes
        let d := putHome d pa (ownRank d) (homeOf n)
        let d := sysWrite d (pa + 24) ((times ++ List.replicate (4 - times.length) 0).map (toBytesLE 8)).flatten
        .next { s with dev := d.send (.installed (homeOf n) asid (pageOf va)) }

/-- PIN_END (R319): the time of a pin has passed. -/
def execPinEnd (asid : BitVec 12) (va : Word) (s : State) : Out :=
  match translate s.dev (accDev s.dev asid) .read va.toNat with
  | .error _ => .refused (.cannotOccur "pin end")
  | .ok x =>
    match sharedDesc s.dev asid x with
    | none => .refused (.cannotOccur "pin end")
    | some (pa, n) =>
      if pinEndOf n == 0 || decide (s.timeNs < pinEndOf n) then .refused (.cannotOccur "pin end")
      else .next (s.onDev (sysWrite · (pa + 16) (toBytesLE 8 0)))

/-! ### Answers to the device's own accesses -/

/-- The word in flight is a signal: RSIG. -/
def isSignal (f : Flight) : Bool := f.word.toNat / 2 ^ 56 == 0xE3

/-- The cause of a refused XFER or RSIG (R249, R250, R366); a signal has no address and clears WRITE. A code that a peer does
not refuse with is taken as ACCESS.PERM. -/
def refusedCause (s : State) (f : Flight) (code : BitVec 10) (e : Nat) (info : BitVec 16) (va : Word) : CauseRec :=
  let k := peerCause code info va.toNat true
  let info := match k.cause with
    | .aborted | .dramUe => k.info
    | .noAttempt => (s.core.txnAid.getD 0).setWidth 64
    | .semOvf => BitVec.ofNat 64 (fld f.word.toNat 21 8)
    | _ => BitVec.ofNat 64 e
  { k with addr := if isSignal f || k.cause = .semOvf then none else k.addr, write := !isSignal f, info, e }

/-- Writes of an XFER that its peer has accepted and has yet to report as performed (R218). -/
def owePeer (s : State) (u : SeqId) (f : Flight) (e : Nat) : State :=
  if isSignal f || e == 0 then s
  else s.onDev fun d => { d with peerOut := d.peerOut ++ [{ core := s.core.gcore, unit := u, rank := f.rank }] }

/-- A peer reports the writes of an XFER as performed. -/
def peerPerformed (s : State) (u : SeqId) : State :=
  s.onDev fun d => { d with peerOut := match d.peerOut.findIdx? fun p => decide (p.unit = u) && (p.core == s.core.gcore || isCopy u) with
    | some k => d.peerOut.eraseIdx k
    | none => d.peerOut }

/-- An answer of a peer to the word in flight of a sequencer of the core in focus: the word is complete, or it stops where its
source stopped it, once its peer has accepted the elements before. -/
def applyReply (s : State) (u : SeqId) (r : PeerReply) : State :=
  match r, (seqOf s u).flight with
  | .performed, _ => peerPerformed s u
  | _, none => s
  | r, some f =>
    if f.kind = .peer ∧ f.done = false then
      let stopped (c : CauseRec) : State := stopFlight (owePeer s u f c.e) u f c
      match r, f.stop with
      | .accepted e, some c =>
        if c.e ≤ e then stopped c else setSeq s u { seqOf s u with flight := some { f with e := Nat.max f.e e } }
      | .accepted e, none => setSeq s u { seqOf s u with flight := some { f with e := Nat.max f.e e } }
      | .refused code e info va, _ => stopped (refusedCause s f code e info va)
      | _, some c => stopped c
      | _, none =>
        let s := owePeer s u f 1
        setSeq s u { seqOf s u with flight := some { f with done := true }, undo := none }
    else s

/-- The core whose unit an answer reaches: a copy engine's is the one whose program it runs. -/
def replyCore (s : State) (core : Nat) (u : SeqId) : Nat :=
  match u with
  | .e m => if h : m < 48 then ((s.dev.ce[m]'h).prog).getD core else core
  | _ => core

/-- A state of an outcome that is a next state. -/
def stateOf (s : State) (o : Out) : State :=
  match o with
  | .next t => t
  | _ => s

/-- What a flit carries takes effect. -/
def deliverMsg (s : State) (port : Fin 24) (m : LinkMsg) : State :=
  match m with
  | .access a => receiveAccess s a
  | .answer id r => applyAnswer s id r
  | .installed asid va => pageInstalled s asid va
  | .ack next => s.onDev fun d =>
      let p := d.ports[port.val]
      let keep := if next == p.send then [] else match p.unacked.findIdx? fun f => f.1 == next with
        | some k => p.unacked.drop k
        | none => p.unacked
      let p := { p with unacked := keep, replays := if keep.length < p.unacked.length then 0 else p.replays }
      releaseWaiting port p.waiting.length { d with ports := d.ports.set port.val p }
  | .reply core u r =>
    let g := replyCore s core u
    if g < Config.cores && !noUnit u then onCoreNo s g fun s => applyReply s u r else s
  | .vote v => stateOf s (execVote v s)
  | .decision v => stateOf s (execDecision v s)
  | .query v => stateOf s (execQuery v s)
  | .opening v => stateOf s (execOpening v s)

/-! ### Links (R374, R375, R323) -/

/-- Replaces a port. -/
def setPort (d : Dev) (k : Nat) (p : Port) : Dev := if h : k < 24 then { d with ports := d.ports.set k p h } else d

/-- A port; none for a number of 24 or more. -/
def portAt (d : Dev) (k : Nat) : Option Port := if h : k < 24 then some (d.ports[k]'h) else none

/-- FLIT_RECEIVE: in sequence it is delivered; else it is discarded with a negative acknowledgement. A port without keys
carries no P or Seam traffic. -/
def execFlitReceive (port : Nat) (seqno : BitVec 12) (crcOk : Bool) (m : LinkMsg) (s : State) : Out :=
  match portAt s.dev port with
  | none => .refused (.cannotOccur "flit reception")
  | some p =>
    if !p.up || (match m with | .access a => accessBusy s.dev a | _ => false) then .refused (.cannotOccur "flit reception")
    else if !crcOk || seqno != p.expect then .next (s.onDev (·.send (.nack port p.expect)))
    else
      let s1 := s.onDev (setPort · port { p with expect := p.expect + 1, rxFlits := p.rxFlits + 1 })
      .next (if p.keyed then deliverMsg s1 (Fin.ofNat 24 port) m else s1)

/-- FLIT_REPLAY: go-back-N from the number that a negative acknowledgement names. -/
def execFlitReplay (port : Nat) (expected : BitVec 12) (s : State) : Out :=
  match portAt s.dev port with
  | none => .refused (.cannotOccur "flit replay")
  | some p =>
    match p.unacked.findIdx? fun f => f.1 == expected with
    | none => .refused (.cannotOccur "flit replay")
    | some k =>
      if !p.up || p.replays ≥ 8 then .refused (.cannotOccur "flit replay")
      else
        let l := p.unacked.drop k
        let p' := { p with unacked := l, replays := if k = 0 then p.replays + 1 else 1 }
        .next (s.onDev fun d => { setPort d port p' with outbox := d.outbox ++ l.map (·.2) })

/-- A LINK event of the device: logged at unit 6, and FAULT is set (R348, R375). -/
def linkEvent (s : State) (c : Cause) (place : Nat) : State :=
  (elogOpen s (causeCode c 6) place 0).onDev (flagAttempt · flFault)

/-- PORT_RETRAIN: after eight replays without progress. -/
def execPortRetrain (port : Nat) (ok : Bool) (s : State) : Out :=
  match portAt s.dev port with
  | none => .refused (.cannotOccur "port retraining")
  | some p =>
    if p.replays < 8 || !p.up then .refused (.cannotOccur "port retraining")
    else if ok then .next (s.onDev (setPort · port { p with replays := 0 }))
    else .next (linkEvent (s.onDev (setPort · port { p with replays := 0, up := false })) .replayExhausted port)

/-- LANE_RETIRED: a lane fails its loopback test. -/
def retireLane (s : State) (port lane : Nat) (p : Port) : State :=
  let lanes := if p.lanes.contains lane then p.lanes else p.lanes ++ [lane]
  linkEvent (s.onDev (setPort · port { p with lanes, up := p.up && decide (lanes.length ≤ 4) })) .laneRetired (port + 256 * lane)

/-- LANE_RETIRED (R375). -/
def execLaneRetired (port lane : Nat) (s : State) : Out :=
  match portAt s.dev port with
  | none => .refused (.cannotOccur "lane retirement")
  | some p => if lane ≥ 8 || p.lanes.contains lane then .refused (.cannotOccur "lane retirement") else .next (retireLane s port lane p)

/-- PORT_LINK_UP (R323): the port is trained and its keys are set. -/
def execPortLinkUp (port : Nat) (s : State) : Out :=
  match portAt s.dev port with
  | none => .refused (.cannotOccur "port link up")
  | some p =>
    if p.lanes.length > 4 || (p.up && p.keyed) then .refused (.cannotOccur "port link up")
    else .next (s.onDev fun d =>
      releaseWaiting (Fin.ofNat 24 port) p.waiting.length { setPort d port { p with up := true, keyed := true, replays := 0 } with
        lostRanks := d.lostRanks.filter fun r => (d.routeOf r).val != port })

/-- KEY_UPDATE (R323): every 2^32 flits of a direction. -/
def execKeyUpdate (port : Nat) (sending : Bool) (s : State) : Out :=
  match portAt s.dev port with
  | none => .refused (.cannotOccur "key update")
  | some p =>
    if !p.keyed || decide ((if sending then p.txFlits else p.rxFlits) < 2 ^ 32) then .refused (.cannotOccur "key update")
    else if sending then
      .next (s.onDev fun d => (setPort d port { p with txFlits := p.txFlits - 2 ^ 32, txKeys := p.txKeys + 1 }).send (.keyUpdate port))
    else .next (s.onDev (setPort · port { p with rxFlits := p.rxFlits - 2 ^ 32, rxKeys := p.rxKeys + 1 }))

/-! ### Silent and lost peers (R375) -/

/-- The rank that a unit of the core in focus waits for with an access of its own (R319). -/
def askedRank (s : State) (u : UnitId) : Option Nat :=
  (s.dev.reqs.find? fun r => r.core == s.core.gcore && decide (r.unit = u) && r.ans.isNone).map (·.rank)

/-- The rank whose report the fence in which X waits lacks. -/
def fenceRank (s : State) : Option Nat :=
  (s.dev.peerOut.find? fun p => p.core == s.core.gcore && p.fenced).map (·.rank)

/-- The rank to which a page of the task on the core in focus moves (R319): a local access to the page waits for it. -/
def movingRank (s : State) : Option Nat := (s.dev.moves.find? fun m => m.asid == s.core.asid).map (·.rank)

/-- The rank that X waits for: in a fence of scope SYSTEM, or with an access; an X that is being saved has abandoned its
instruction unless that is an access (R371). -/
def xPeer (s : State) : Option Nat :=
  if s.core.saving.isSome && xAbandons s.core.xwait then none
  else match s.core.xwait with
    | .fence .system => fenceRank s
    | .access => (askedRank s .x).or (movingRank s)
    | _ => none

/-- The rank that the word in flight of a sequencer waits for, and its element. -/
def flightPeer (s : State) (u : SeqId) (f : Flight) : Option (Nat × Nat) :=
  match f.kind with
  | .peer => if f.done then none else some (f.rank, f.e)
  | .fence a .system => (s.dev.peerOut.find? (xferCovered s (.seq u) a)).map fun p => (p.rank, 0)
  | _ => none

/-- What a sequencer waits for from a peer: with its word in flight, or with an access of its next word. C raises no LINK
cause (R359). -/
def seqPeer (s : State) (u : SeqId) : Option (Nat × Nat) :=
  let q := seqOf s u
  match q.flight with
  | some f => flightPeer s u f
  | none =>
    if u = .c then none
    else ((askedRank s (.seq u)).or (if q.wait = .uncounted && q.resume.isSome then movingRank s else none)).map fun r =>
      (r, ((q.resume.map (·.e)).getD 0))

/-- A LINK cause of a waiting sequencer of the core in focus. -/
def linkStop (s : State) (u : SeqId) (c : Cause) (r : Nat × Nat) : State :=
  match (seqOf s u).flight with
  | some f => stopFlight (owePeer s u f f.e) u f { cause := c, info := linkInfo r.1 r.2, e := r.2 }
  | none => stopWaiting s u c (linkInfo r.1 ·)

/-- The page stays at its old home where its partner falls silent during a move, and the accesses that waited are performed
here (R319). -/
def cancelMoves (s : State) (rank : Nat) : State :=
  let gone := s.dev.moves.filter fun m => m.rank == rank
  let s := s.onDev fun d => { d with moves := d.moves.filter fun m => m.rank != rank }
  (gone.map (·.pend)).flatten.foldl receiveAccess s

/-- PEER_TIMEOUT: 200 µs without an answer; a move of a page to the silent peer is undone (R319). -/
def execPeerTimeout (u : UnitId) (s : State) : Out :=
  match u with
  | .x =>
    match xPeer s with
    | some r => .next (cancelMoves (trapX s { cause := .peerTimeout, info := linkInfo r 0 }) r)
    | none => .refused (.cannotOccur "peer timeout")
  | .seq q =>
    if noUnit q then .fault .noSuchUnit
    else match (if ownSeq s q && (seqOf s q).cause.isNone then seqPeer s q else none) with
      | some r => .next (cancelMoves (linkStop s q .peerTimeout r) r.1)
      | none => .refused (.cannotOccur "peer timeout")

/-- Stops a sequencer of the core in focus that waits for a lost rank. -/
def lostSeq (rank : Nat) (s : State) (u : SeqId) : State :=
  match (if (seqOf s u).cause.isNone then seqPeer s u else none) with
  | some r => if r.1 == rank then linkStop s u .peerLost r else s
  | none => s

/-- Every issuer of a core that waits for a lost rank stops. -/
def lostCore (rank : Nat) (s : State) (g : Nat) : State :=
  onCoreNo s g fun s =>
    let s := ([SeqId.l, .c, .s] ++ (enginesOf s.dev g).map SeqId.e).foldl (lostSeq rank) s
    if xPeer s == some rank then trapX s { cause := .peerLost, info := linkInfo rank 0 } else s

/-- PEER_LOST: no route to a rank remains. Nothing is awaited from it any more. -/
def execPeerLost (rank : Nat) (s : State) : Out :=
  let s := s.onDev (flagAttempt · flFault)
  let s := ((allCores s).map (·.gcore)).foldl (lostCore rank) s
  .next ((cancelMoves s rank).onDev fun d => { d with
    peerOut := d.peerOut.filter fun p => p.rank != rank
    lostRanks := if d.lostRanks.contains rank then d.lostRanks else d.lostRanks ++ [rank] })

end Sys2Proof.Machine
end

