-- ==== Sys2Proof/Machine/Host.lean ====
section
/-! DEFINITION. What the host does: the registers of BAR0 (R276, R312, R315 to R317, R321, R325, R327, R328, R347, R380),
the TDISP, SPDM and IDE messages (R320, R323, R324, R326), and reads and writes of BAR2 (R228, R322, R331, R335). -/

namespace Sys2Proof.Machine

/-! ### Queue registers (R276) -/

/-- QCTL after a write. -/
def qctlPut (old new : Word) : Word := (new &&& 0xFFFFF003) ||| (old &&& ~~~new &&& 0xC)

/-- QTAIL_WRITE: records are posted, or the write is discarded with OVF. Queues are numbered to 1,023. -/
def execQtailWrite (q : Nat) (v : Word) (s : State) : Out :=
  .next (if q ≥ 1024 then s else s.onDev fun d =>
    let r := queueAt d q
    let t := v.setWidth 32
    if (t - r.qhead).toNat > 2 ^ qlog r then putQueue d q { r with qctl := r.qctl ||| 4 } else putQueue d q { r with qtail := t })

/-- A write of a queue register without a step of its own. -/
def queueWrite (d : Dev) (off : Nat) (v : Word) : Dev :=
  let q := off / 64
  let r := queueAt d q
  if off % 64 == 0 then putQueue d q { r with qbase := v }
  else if off % 64 == 8 then putQueue d q { r with qctl := qctlPut r.qctl v }
  else d

/-! ### BAR0 (R327) -/

/-- Offsets whose writes are steps of their own. -/
def ownStep (off : Nat) : Bool :=
  (off < 0x10000 && off % 64 == 0x18) || [0x20010, 0x20020, 0x20038, 0x20040, 0x30010, 0x40000, 0x40018, 0x50010].contains off
    || (0x40100 ≤ off && off < 0x40180 && off % 8 == 0)

/-- Registers that only a trusted write changes in CONFIG_LOCKED or RUN (R328, R347). -/
def guarded (off : Nat) : Bool := [0x10000, 0x20000, 0x20008, 0x30000, 0x30008, 0x30018, 0x40008].contains off

/-- A guarded write is discarded. The places of the ASID table and of the bitmap stay guarded until a teardown has finished, so
that the frames they seal stay so (R324; DEDUCED, log entry 85). -/
def guardHolds (d : Dev) (off : Nat) (trusted : Bool) : Bool :=
  guarded off && (barred d trusted || (d.teardown && (off == 0x20000 || off == 0x20008)))

/-- HERRLOG after a write of its W1C bits. -/
def herrPut (old new : Word) : Word := old &&& ~~~(new &&& 0xC000000000000000)

/-- SEAMTO after a write: a field of 0 stays (R347). -/
def seamtoPut (old new : Word) : Word :=
  let f (m : Word) : Word := if new &&& m = 0 then old &&& m else new &&& m
  f 0xFFFF0000 ||| f 0xFFFF

/-- A register write without further behaviour; the bits below an address's alignment are not held. -/
def regWrite (d : Dev) (off : Nat) (v : Word) : Dev :=
  if off < 0x10000 then queueWrite d off v
  else match off with
    | 0x10000 => { d with rtbase := v &&& ~~~7 }
    | 0x20000 => { d with asidbase := v &&& ~~~0x1FFFF }
    | 0x20008 => { d with sealbase := v &&& ~~~0x1FFFFFF }
    | 0x20018 => { d with tlbinva := v &&& ~~~0xFFF }
    | 0x20028 => { d with miga := v }
    | 0x20030 => { d with migb := v }
    | 0x20048 => { d with herrlog := herrPut d.herrlog v }
    | 0x30000 => { d with fwaddr := v &&& ~~~0xFFF }
    | 0x30008 => { d with fwlen := v }
    | 0x40008 => { d with seam := { d.seam with tmo := seamtoPut d.seam.tmo v } }
    | 0x50000 => { d with elogbase := v &&& ~~~0xFFF }
    | _ => d

/-- REGISTER_WRITE. Offsets that are not 8-byte aligned, read-only or unlisted have no effect. -/
def execRegisterWrite (off : Nat) (v : Word) (trusted : Bool) (s : State) : Out :=
  if ownStep off then .refused (.cannotOccur "register write")
  else if guardHolds s.dev off trusted then .next (s.onDev (herr · 4 off))
  else .next (s.onDev (regWrite · off v))

/-- ELOGTAIL_WRITE (R380). -/
def execElogtailWrite (v : Word) (s : State) : Out :=
  .next (s.onDev fun d => { d with elogtail := v, eloghead := d.eloghead &&& 0x7FFFFFFFFFFFFFFF })

/-! ### Sealing (R321) -/

/-- Frames that SEALCMD names; HBM has 2^28 frames. -/
def cmdFrames (v : Word) : Nat × Nat :=
  let first := fld v.toNat 0 28
  (first, min (first + fld v.toNat 28 16 + 1) (2 ^ 28))

/-- A byte with bits lo to hi - 1 of it set or cleared; bit k stands for frame 8 j + k. -/
def bitsPut (b : Byte) (j lo hi : Nat) (v : Bool) : Byte :=
  (List.range 8).foldl (fun b k =>
    if lo ≤ 8 * j + k && 8 * j + k < hi then (if v then b ||| BitVec.ofNat 8 (2 ^ k) else b &&& ~~~(BitVec.ofNat 8 (2 ^ k))) else b) b

/-- Sets or clears the bits of frames lo to hi - 1 of the bitmap. A byte that cannot be read stays as it is, and its frames
count for no access until it is written (R376, R377; log entry 90). -/
def putSeal (d : Dev) (lo hi : Nat) (v : Bool) : Dev :=
  (List.range ((hi + 7) / 8 - lo / 8)).foldl (fun d k =>
    let j := lo / 8 + k
    let pa := d.sealbase.toNat + j
    match l2Read d pa 1 with
    | some bs => l2Store d pa [bitsPut (BitVec.ofNat 8 (ofBytesLE bs)) j lo hi v]
    | none => d) d

/-- The bits of the frames that SEALCMD names are set or cleared. -/
def sealNamed (s : State) (v : Word) (on : Bool) : State :=
  let r := cmdFrames v
  (readNotes s (s.dev.sealbase.toNat + r.1 / 8) ((r.2 + 7) / 8 - r.1 / 8)).onDev fun d => putSeal d r.1 r.2 on

/-- Every L1 and L2 copy of the selected frames is dropped and home memory holds zero there. -/
def zeroFrames (s : State) (f : Nat → Bool) : State :=
  let s := mapCores s fun c => { c with l1 := c.l1.filter fun e => !(decide (64 * e.1 < hbmEnd) && f (e.1 / 64)) }
  s.onDev fun d =>
    { d with l2 := d.l2.filter fun e => !f (e.1 / 4096), hbm := d.hbm.filter fun e => !f (e.1 / 4096)
             badWords := d.badWords.filter fun w => !f (w / 128), softWords := d.softWords.filter fun w => !f (w / 128)
             badL2 := d.badL2.filter fun w => !f (w / 512) }

/-- Bits of SEALCMD that it holds. -/
def sealMask : Word := 0x40000FFFFFFFFFFF

/-- A SEALCMD write that takes effect. -/
def sealcmdWrite (v : Word) (trusted : Bool) (s : State) (f : State → State) : State :=
  if barred s.dev trusted then s.onDev (herr · 4 0x20010)
  else if !isTrusted s.dev trusted then s
  else if s.dev.sealcmd.getLsbD 63 then s.onDev (herr · 5 0x20010)
  else (f s).onDev fun d => { d with sealcmd := (v &&& sealMask) ||| 0x8000000000000000 }

/-- SEAL: the named bits are set. -/
def execSealFrames (v : Word) (trusted : Bool) (s : State) : Out :=
  if v.getLsbD 62 then .refused (.cannotOccur "seal")
  else .next (sealcmdWrite v trusted s fun s => sealNamed s v true)

/-- UNSEAL: the frames are dropped, zeroed, and their bits cleared. -/
def execUnsealFrames (v : Word) (trusted : Bool) (s : State) : Out :=
  if !v.getLsbD 62 then .refused (.cannotOccur "unseal")
  else .next (sealcmdWrite v trusted s fun s =>
    sealNamed (zeroFrames s fun f => decide ((cmdFrames v).1 ≤ f) && decide (f < (cmdFrames v).2)) v false)

/-- SEALCMD_DONE. -/
def execSealcmdDone (s : State) : Out :=
  if s.dev.sealcmd.getLsbD 63 then .next (s.onDev fun d => { d with sealcmd := d.sealcmd &&& sealMask })
  else .refused (.cannotOccur "SEALCMD completion")

/-! ### Invalidation of translations (R312) -/

/-- An entry serves part of pages lo to hi - 1 under a named ASID: a larger page counts with each of its parts. -/
def tlbHits (t : TlbEnt) (allAsid : Bool) (asid : BitVec 12) (lo hi : Nat) : Bool :=
  let size := if t.level == 0 then (if bit t.leaf 7 then 16 else 1) else 512 ^ t.level
  let first := t.page / size * size
  (allAsid || t.asid == asid) && decide (first < hi) && decide (lo < first + size)

/-- Drops the entries of every TLB for pages lo to hi - 1. -/
def tlbDrop (d : Dev) (allAsid : Bool) (asid : BitVec 12) (lo hi : Nat) : Dev :=
  { d with tlb := d.tlb.filter fun t => !tlbHits t allAsid asid lo hi }

/-- Drops the entries that TLBINVC names, from the page that TLBINVA named at its start on. -/
def tlbNamed (d : Dev) : Dev :=
  let n := d.tlbinvc.toNat
  let first := if bit n 40 then 0 else d.tlbPage
  tlbDrop d (bit n 41) (bf 12 44 n) first (if bit n 40 then 2 ^ 52 else first + fld n 0 20 + 1)

/-- With ALLVA the walker's copy of each named entry of the ASID table goes too: it reads the table as it now stands (R305,
R312). -/
def entriesNamed (d : Dev) : Dev :=
  let n := d.tlbinvc.toNat
  if bit n 40 then (if bit n 41 then (List.range 4096).foldl (fun d a => loadAsid d (BitVec.ofNat 12 a)) d else loadAsid d (bf 12 44 n))
  else d

/-- TLB_INVALIDATE: a write of TLBINVC starts an invalidation. -/
def execTlbInvalidate (v : Word) (s : State) : Out :=
  .next (s.onDev fun d =>
    if d.tlbinvc.getLsbD 63 then herr d 5 0x20020
    else tlbNamed { d with tlbPage := d.tlbinva.toNat / 4096, tlbinvc := (v &&& 0x00FFF300000FFFFF) ||| 0x8000000000000000 })

/-- An accepted scan, near-memory operation or access at a peer, or a QPOST that waits for room with the pages that it has
translated, may still use a translation that an invalidation drops. -/
def usesDropped (s : State) : Bool :=
  let d := s.dev
  let named (q : QPost) : Bool := bit d.tlbinvc.toNat 41 || q.asid == bf 12 44 d.tlbinvc.toNat
  !d.nops.isEmpty || !d.reqs.isEmpty || !d.peerOut.isEmpty || d.qposts.any named || (allCores s).any fun c => match c.c.wait with
    | .post q _ => named q
    | _ => false

/-- TLB_INVALIDATE_DONE: from now on accesses translate from the tables as they stand. -/
def execTlbInvalidateDone (s : State) : Out :=
  if s.dev.tlbinvc.getLsbD 63 && !usesDropped s then
    .next (s.onDev fun d => { entriesNamed (tlbNamed d) with tlbinvc := d.tlbinvc &&& 0x7FFFFFFFFFFFFFFF })
  else .refused (.cannotOccur "TLB invalidation completion")

/-! ### Swap pairs (R317) -/

/-- The ASID is sealed. -/
def sealedAsid (d : Dev) (a : BitVec 12) : Bool :=
  match asidEnt d a with
  | some e => asidSealed d a e
  | none => false

/-- The 4 KiB leaf that a swap may move: its address and value; none where it is refused. -/
def swapLeaf (d : Dev) (a : BitVec 12) (va : Word) : Option (Nat × Nat) :=
  match asidEnt d a with
  | none => none
  | some ent =>
    match walk d [] (asidSealed d a ent) .both va.toNat 4 (fld ent.n 12 40 * 4096) with
    | .error _ => none
    | .ok (l, pa, e) =>
      if l == 0 && !leafBad d l e && !bit e 7 && !bit e 59 && !bit e 58 && fld e 56 2 == 0 && bit e 2 && bit e 3
          && decide (va.toNat / 4096 < 2 ^ 45) then some (pa, e) else none

/-- The frame of a 4 KiB leaf. -/
def leafFrame (e : Nat) : Nat := fld e 12 40 * 4096

/-- RES of a MIGC write, or the pair that starts. -/
def swapOf (d : Dev) (a : BitVec 12) : Except Nat Swap :=
  match swapLeaf d a d.miga, swapLeaf d a d.migb with
  | some (pA, eA), some (pB, eB) =>
    if leafFrame eA ≥ hbmEnd || leafFrame eB < farBase then .error 2
    else
      let acc := accDev d a
      match translate d acc .both d.miga.toNat, translate d acc .both d.migb.toNat with
      | .ok _, .ok _ => .ok { asid := a, near := leafFrame eA, far := leafFrame eB, leafA := pA, leafB := pB, done := 0,
                                 pages := (d.miga.toNat / 4096, d.migb.toNat / 4096) }
      | _, _ => .error 1
  | _, _ => .error 1

/-- The swap unit waits: a table of the pair lies in a pleat region whose metadata are being initialised (R347). -/
def swapWaits (d : Dev) (a : BitVec 12) : Bool :=
  [d.miga, d.migb].any fun va => match translate d (accDev d a) .both va.toNat with
    | .error c => c.await.isSome
    | .ok _ => false

/-- Reads, changes and writes a leaf; one that can no longer be read stays. -/
def changeLeaf (d : Dev) (pa : Nat) (f : Nat → Nat) : Dev :=
  match leafNow d [] pa with
  | some e => leafPut d [] pa (f e)
  | none => d

/-- Both VAs of a pair are invalidated (R312). -/
def dropPair (d : Dev) (w : Swap) : Dev :=
  tlbDrop (tlbDrop d false w.asid w.pages.1 (w.pages.1 + 1)) false w.asid w.pages.2 (w.pages.2 + 1)

/-- Step 1: SWP is set in both leaves; the near frame's lines of an open window are written back and dropped with the others, and
the window stays on that frame (DESIGN CHOICE, log entry 91). The near-memory operations accepted on the near frame are performed, as the
invalidation of the VAs asks (R312), and no TLB and no cache holds anything of the frames. -/
def swapBegin (s : State) (w : Swap) : State :=
  let s := drainNops s ((List.range 32).map fun k => w.near / 128 + k)
  let s := dropAllL1 s fun k => k / 64 == w.near / 4096 || k / 64 == w.far / 4096
  s.onDev fun d =>
    let d := wbWhere d fun p => p / 4096 == w.near / 4096
    let d := changeLeaf (changeLeaf d w.leafA (· ||| 2 ^ 58)) w.leafB (· ||| 2 ^ 58)
    dropPair { d with swap := some w, migc := BitVec.ofNat 64 (2 ^ 63 + w.asid.toNat) } w

/-- SWAP_PAIR: a MIGC write. -/
def execSwapPair (v : Word) (trusted : Bool) (s : State) : Out :=
  let a := v.setWidth 12
  if barred s.dev trusted && sealedAsid s.dev a then .next (s.onDev (herr · 4 0x20038))
  else if s.dev.migc.getLsbD 63 then .next (s.onDev (herr · 5 0x20038))
  else if swapWaits s.dev a then .refused (.cannotOccur "swap pair")
  else match swapOf s.dev a with
    | .error r => .next (s.onDev fun d => { d with migc := BitVec.ofNat 64 (r * 2 ^ 60 + a.toNat) })
    | .ok w => .next (swapBegin s w)

/-- The bytes of a near line as the swap unit reads them; an uncorrectable error delivers no data, so the bytes are free
values and the event is logged (R376). -/
def nearLine (s : State) (pa : Nat) : State × List Byte :=
  match l2Read s.dev pa 64 with
  | some bs => (correctSoft s pa 64, bs)
  | none =>
    if l2Bad s.dev pa 64 then (elogOpen s (causeCode .sramUe 7) (rowKey (pa / 32)) pa).drawBytes 64
    else (elogOpen (readNotes s pa 64) dramCode (rowKey (pa / 32)) pa).drawBytes 64

/-- SWAP_LINE_EXCHANGE: the next line of the pair. -/
def execSwapLineExchange (s : State) : Out :=
  match s.dev.swap with
  | none => .refused (.cannotOccur "swap line exchange")
  | some w =>
    if w.done ≥ 64 then .refused (.cannotOccur "swap line exchange")
    else
      let near := w.near + 64 * w.done
      let far := w.far + 64 * w.done
      let (s1, nb) := nearLine s near
      let d := s1.dev
      let key := if sealedAsid d w.asid then xtsKey d w.asid else 0
      let fb := (List.range 64).map fun i => farByteAs d key (far + i)
      let d := farForward (farStore (homeStore d near fb) .h key far nb)
      .next { s1 with dev := { d with swap := some { w with done := w.done + 1 } } }

/-- A leaf that takes a frame, with SWP = 0. -/
def leafMoved (frame e : Nat) : Nat := fld e 0 12 + frame + fld e 52 6 * 2 ^ 52 + fld e 59 5 * 2 ^ 59

/-- SWAP_PAIR_DONE: the final leaves are written. -/
def execSwapPairDone (s : State) : Out :=
  match s.dev.swap with
  | none => .refused (.cannotOccur "swap pair completion")
  | some w =>
    if w.done < 64 then .refused (.cannotOccur "swap pair completion")
    else .next (s.onDev fun d =>
      let d := changeLeaf (changeLeaf d w.leafB (leafMoved w.near)) w.leafA (leafMoved w.far)
      dropPair { d with swap := none, migc := BitVec.ofNat 64 w.asid.toNat } w)

/-! ### PGDONE (R316) -/

/-- The core on which a task is resident. -/
def residentAt (s : State) (tf : Word) : Option Core := (allCores s).find? fun c => c.task.isSome && c.taskFrame == tf

/-- The task's page is served. -/
def pageServed (t : Option Task) : Option Task := t.map fun t => { t with pagePending := false }

/-- Adds 1 to a semaphore of a core; an overflow leaves it unchanged. -/
def bumpSem (c : Core) (sem : BitVec 8) : Core :=
  if semVal c sem ≥ 65535 then c else { semSet c sem (semVal c sem + 1) with ev := c.ev ||| 1 }

/-- The launch of a task is of class C. -/
def inClassC (d : Dev) (t : Task) : Bool := ((launchOf d t.launch).map (·.cls)).getD 0 == 2

/-- What PGDONE does to a resident task. -/
def pgdoneCore (d : Dev) (c : Core) : Option Core :=
  match c.task with
  | some t =>
    if !t.pagePending then none
    else
      let c := if inClassC d t then bumpSem c t.pgSem else c
      some { c with task := pageServed c.task }
  | none => none

/-- PGDONE. -/
def execPgdone (v : Word) (trusted : Bool) (s : State) : Out :=
  let asid : Option (BitVec 12) := match savedOf s.dev v with
    | some t => some t.asid
    | none => (residentAt s v).map fun c => c.asid
  let unknown : Out := .next (s.onDev (herr · 3 0x20040))
  if barred s.dev trusted && ((asid.map (sealedAsid s.dev)).getD false) then .next (s.onDev (herr · 4 0x20040))
  else match savedOf s.dev v with
    | some t =>
      if t.task.pagePending && t.parked && !t.joined then
        let t' := { t with parked := false, task := { t.task with pagePending := false } }
        .next (readyResume (s.onDev fun d => { d with saved := d.saved.map fun x => if x.taskFrame == v then t' else x }) t' false)
      else unknown
    | none =>
      match (residentAt s v).bind (pgdoneCore s.dev) with
      | some c => .next (putCore s c.gcore c)
      | none => unknown

/-! ### Firmware (R325) -/

/-- FIRMWARE_LOAD: a write of FWCTL. The ROM waits for GO in state 0 and after a failure. -/
def execFirmwareLoad (v : Word) (trusted : Bool) (s : State) : Out :=
  if barred s.dev trusted then .next (s.onDev (herr · 4 0x30010))
  else .next (s.onDev fun d => if v.getLsbD 0 && d.fwstat != 1 && d.fwstat != 2 then { d with fwstat := 1 } else d)

/-- Bytes of the image, as host memory holds them from FWADDR on; it has FWLEN bytes, and those past its end are none. -/
def fwBytes (d : Dev) (off n : Nat) : List Byte :=
  (List.range (min n (d.fwlen.toNat - off))).map fun i => sget Config.powerOnByte d.far (farBase + d.fwaddr.toNat + off + i)

/-- The header of the image. -/
def fwHeader (d : Dev) : Nat := ofBytesLE (fwBytes d 0 4096)

/-- The payload of the image, and what follows it: the signature. -/
def fwPayload (d : Dev) : List Byte := fwBytes d 4096 (fld (fwHeader d) 128 64)
/-- See `fwPayload`. -/
def fwSignature (d : Dev) : List Byte := fwBytes d (4096 + fld (fwHeader d) 128 64) d.fwlen.toNat

/-- The header has the form of R325. -/
def headerOk (n : Nat) : Bool :=
  fld n 0 32 == 0x39444C54 && fld n 32 32 ≤ 64 && fld n 64 32 < 2 && fld n 96 32 == 0 && fld n 128 64 % 4096 == 0
    && fld n 128 64 ≤ 2 ^ 28 && n / 2 ^ 448 == 0

/-- The codes of the checks that the image fails. An image that ends before its payload has a bad header (DESIGN CHOICE, log
entry 83). -/
def fwFails (d : Dev) : List Nat :=
  let n := fwHeader d
  if !headerOk n || decide (d.fwlen.toNat < 4096 + fld n 128 64) then [0x10]
  else
    (if sha256 (fwPayload d) = toBytesLE 32 (fld n 192 256) then [] else [0x11])
      ++ (if Config.signatureOk (fwBytes d 0 4096) (fwSignature d) then [] else [0x12])
      ++ (if fld n 32 32 < d.rollback then [0x13] else [])

/-- The results that verification may have: it runs where no check fails, else it refuses with the code of one that does; a
DMA may fail. -/
def verifyMay (d : Dev) (r : Nat) : Bool := r == 0x14 || (fwFails d).contains r || ((fwFails d).isEmpty && r == 2)

/-- FIRMWARE_VERIFY_DONE. -/
def execFirmwareVerifyDone (r : Nat) (s : State) : Out :=
  if s.dev.fwstat == 1 && verifyMay s.dev r then
    .next (s.onDev fun d =>
      let n := fwHeader d
      if r == 2 then
        { d with fwstat := 2, fwSvn := fld n 32 32, fwAdvance := bit n 64, fwHash := sha256 (fwBytes d 0 4096 ++ fwPayload d) }
      else { d with fwstat := BitVec.ofNat 64 r })
  else .refused (.cannotOccur "firmware verification")

/-- FIRMWARE_READY: ADVANCE = 1 raises the rollback counter. -/
def execFirmwareReady (s : State) : Out :=
  if s.dev.fwstat == 2 then
    .next (s.onDev fun d => { d with rollback := if d.fwAdvance then Nat.max d.rollback d.fwSvn else d.rollback, fwAdvance := false })
  else .refused (.cannotOccur "firmware ready")

/-! ### TDISP (R324) -/

/-- LOCK_INTERFACE. -/
def execLockInterface (s : State) : Out :=
  .next (s.onDev fun d => if decide (d.iface = .unlocked) && !d.teardown then { d with iface := .locked } else d)

/-- START_INTERFACE. -/
def execStartInterface (s : State) : Out := .next (s.onDev fun d => if d.iface = .locked then { d with iface := .run } else d)

/-- STOP_INTERFACE: leaving CONFIG_LOCKED or RUN starts the teardown of sealed state. -/
def execStopInterface (s : State) : Out :=
  .next (s.onDev fun d => if ifaceLocked d then { d with iface := .unlocked, teardown := true } else d)

/-- The BARs that the interface report lists. -/
def ifaceBars : List Nat := [0, 2]

/-- GET_DEVICE_INTERFACE_REPORT: BAR0 and BAR2. -/
def execGetDeviceInterfaceReport (s : State) : Out := .next (s.onDev (·.send (.report ifaceBars)))

/-- Codes of the interface states. -/
def ifaceCode : Iface → Nat
  | .unlocked => 0
  | .locked => 1
  | .run => 2
  | .error => 3

/-- GET_DEVICE_INTERFACE_STATE. -/
def execGetDeviceInterfaceState (s : State) : Out := .next (s.onDev fun d => d.send (.ifaceState (ifaceCode d.iface)))

/-- Addresses of the listed bytes of a range. -/
def listedIn (d : Dev) (lo n : Nat) : List Nat :=
  ((d.l2.map (·.1)) ++ d.hbm.map (·.1)).filter fun p => lo ≤ p && p < lo + n

/-- SEAL bits of the ASID table cleared. -/
def clearSealBits (d : Dev) : Dev :=
  (listedIn d d.asidbase.toNat 131072).foldl (fun d p =>
    if (p - d.asidbase.toNat) % 32 == 0 && (l2Byte d p).getLsbD 3 then clearCounts (l2Store d p [l2Byte d p &&& 0xF7]) p 1
    else d) d

/-- The end of the sealed state: launches of sealed ASIDs are stopped, sealed frames zeroed (and those whose bit cannot be read), the bitmap and every SEAL bit
cleared, and the XTS keys destroyed. -/
def endSealed (s : State) : State :=
  let s := stopWhere s fun l => sealedAsid s.dev (launchAsid l)
  let base := s.dev.sealbase.toNat
  let bytes := listedIn s.dev base (2 ^ 25)
  let marked (f : Nat) : Bool := bytes.contains (base + f / 8) && (l2Byte s.dev (base + f / 8)).getLsbD (f % 8) || sealUnread s.dev f
  let s := zeroFrames s marked
  s.onDev fun d =>
    let d := { d with l2 := d.l2.filter fun e => !bytes.contains e.1, hbm := d.hbm.filter fun e => !bytes.contains e.1 }
    { clearSealBits d with xts := [], xtsDue := [], teardown := false }

/-- SEALED_TEARDOWN_DONE. -/
def execSealedTeardownDone (s : State) : Out :=
  if !s.dev.teardown then .refused (.cannotOccur "sealed teardown") else .next (endSealed s)

/-! ### SPDM and IDE (R323, R326) -/

/-- The SMC can sign: bottom tree c is not spent, and c is at most 32,767. -/
def canSign (d : Dev) : Bool := d.spdmLeaf < 2 ^ 15 && d.bootCount ≤ 32767

/-- The capabilities of the SMC. -/
def spdmCaps : List String := ["CERT", "CHAL", "MEAS", "KEY_EX", "ENCRYPT", "MAC"]

/-- The chain of a certificate slot: slots 1 to 7 are empty. -/
def certChain (slot : Nat) : Option (List String) :=
  if slot == 0 then some ["Rainath root", "TLD9 model CA", "device certificate"] else none

/-- The retired units and the fused counter, which a measurement of the fuses covers. -/
def fuseFacts (s : State) : List Nat :=
  let d := s.dev
  let pair (k : Nat) (m : SMap Nat) : List Nat := (m.map fun e => [k, e.1, e.2]).flatten
  let cores := ((allCores s).filter (·.retired)).map (·.gcore)
  d.rollback :: pair 0 d.spareRows ++ pair 1 d.columns ++ (d.cuffOut.map fun k => [2, k]).flatten
    ++ ((List.range 288).filter (cores.contains ·)).map (4 + 8 * ·) ++ (d.sramOut.map fun k => [3, k.1, k.2.1, k.2.2]).flatten
    ++ ((List.range 24).map fun k => ((d.ports.toList[k]?).map (·.lanes.length)).getD 0)

/-- The value of a measurement block. Index 3 holds the SVN and the boot counter as N32 (DEDUCED, log entry 84); of the digests,
that of the firmware is of its header and payload, and the others are free values of what they measure: the boot ROM, the
fuses with the retired units, and the TDISP state with the interface report. -/
def measure (s : State) (index : Nat) : List Byte :=
  match index with
  | 1 => Config.measured 1 []
  | 2 => s.dev.fwHash
  | 3 => toBytesLE 4 s.dev.fwSvn ++ toBytesLE 4 s.dev.bootCount
  | 4 => Config.measured 4 (fuseFacts s)
  | k => Config.measured k (ifaceCode s.dev.iface :: ifaceBars)

/-- An answer to a request that asks for a signature (a signed measurement, CHALLENGE, KEY_EXCHANGE): it takes a leaf, ERROR where the SMC cannot sign, logged as MACHINE.ATTEST (R381). -/
def signAnswer (s : State) (r : SpdmResp) : State :=
  if canSign s.dev then s.onDev fun d => Dev.send { d with spdmLeaf := d.spdmLeaf + 1 } (.spdm r)
  else (elogOpen s (causeCode .attest 7) 0 0).onDev fun d => (flagAttempt d flFault).send (.spdm .error)

/-- SPDM_REQUEST. Other requests of the protocol have an answer whose content the manual does not give. -/
def execSpdmRequest (r : SpdmReq) (s : State) : Out :=
  .next (match r with
    | .capabilities => s.onDev (·.send (.spdm (.capabilities spdmCaps)))
    | .certificate slot =>
      if slot < 8 then s.onDev (·.send (.spdm (.certificate (certChain slot)))) else s.onDev (·.send (.spdm .other))
    | .measurement index sign =>
      if index == 0 || 5 < index then s.onDev (·.send (.spdm .other))
      else
        if sign then signAnswer s (.signed index (measure s index)) else s.onDev (·.send (.spdm (.measurement index (measure s index))))
    | .challenge => signAnswer s (.signed 0 [])
    | .keyExchange => signAnswer s .keyExchange
    | .other => s.onDev (·.send (.spdm .other)))

/-- IDE_KM_REQUEST: streams 0 (Link IDE) to 4 (Selective IDE). -/
def execIdeKmRequest (stream : Nat) (enable : Bool) (s : State) : Out :=
  .next (s.onDev fun d =>
    let l := d.ide.filter (· != stream)
    if stream ≥ 5 then d else { d with ide := if enable then l ++ [stream] else l })

/-! ### Reads of BAR0 (R327) -/

/-- The value of a register; write-only and unlisted ones read 0. -/
def regRead (d : Dev) (off : Nat) : Word :=
  if off < 0x10000 then
    let r := queueAt d (off / 64)
    match off % 64 with
    | 0 => r.qbase
    | 8 => r.qctl
    | 0x10 => r.qhead.setWidth 64
    | 0x18 => r.qtail.setWidth 64
    | _ => 0
  else if 0x40100 ≤ off && off < 0x40180 then
    let p := pleatAt d ((off - 0x40100) / 8)
    BitVec.ofNat 64 (ofBit p.en * 2 ^ 63 + ofBit p.busy * 2 ^ 62 + p.nframes * 2 ^ 24 + p.first)
  else match off with
    | 0x10000 => d.rtbase
    | 0x20000 => d.asidbase
    | 0x20008 => d.sealbase
    | 0x20010 => d.sealcmd
    | 0x20018 => d.tlbinva
    | 0x20020 => d.tlbinvc
    | 0x20028 => d.miga
    | 0x20030 => d.migb
    | 0x20038 => d.migc
    | 0x20048 => d.herrlog
    | 0x30000 => d.fwaddr
    | 0x30008 => d.fwlen
    | 0x30018 => d.fwstat
    | 0x40000 => d.seam.cfg
    | 0x40008 => d.seam.tmo
    | 0x40010 => seamst d.seam
    | 0x50000 => d.elogbase
    | 0x50008 => d.eloghead
    | 0x50010 => d.elogtail
    | _ => 0

/-- Only aligned requests of 8 bytes reach a register. -/
def regRequest (off n : Nat) : Bool := off % 8 == 0 && n == 8

/-- Bytes of BAR0. -/
def bar0Bytes : Nat := 2 ^ 26

/-- What a read of BAR0 returns. -/
def bar0Read (d : Dev) (off n : Nat) : List Byte :=
  if regRequest off n then toBytesLE 8 (regRead d off).toNat else List.replicate n 0xFF

/-- A write of a register, by the step that is its own. -/
def bar0Put (off : Nat) (v : Word) (trusted : Bool) (s : State) : Out :=
  if off < 0x10000 && off % 64 == 0x18 then execQtailWrite (off / 64) v s
  else if 0x40100 ≤ off && off < 0x40180 then execPleatcfgWrite ((off - 0x40100) / 8) v trusted s
  else match off with
    | 0x20010 => if v.getLsbD 62 then execUnsealFrames v trusted s else execSealFrames v trusted s
    | 0x20020 => execTlbInvalidate v s
    | 0x20038 => execSwapPair v trusted s
    | 0x20040 => execPgdone v trusted s
    | 0x30010 => execFirmwareLoad v trusted s
    | 0x40000 => execSeamcfgWrite v trusted s
    | 0x40018 => execSeamres v trusted s
    | 0x50010 => execElogtailWrite v s
    | _ => execRegisterWrite off v trusted s

/-! ### BAR2 and the host's memory (R203, R228, R322, R331, R335, R376) -/

/-- The parts of a range that lie in one frame each: address and length, on fuel. -/
def frameParts : Nat → Nat → Nat → List (Nat × Nat)
  | 0, _, _ => []
  | k + 1, pa, n =>
    let m := min n (4096 - pa % 4096)
    if n == 0 then [] else (pa, m) :: frameParts k (pa + m) (n - m)

/-- Records an error of a host access and signals its vector (R322). -/
def hostErr (d : Dev) (code pa : Nat) : Dev := (herr d code pa).send (.msix 1024)

/-- The range lies in part in a region whose metadata are being initialised, where an access waits (R347). -/
def hostWaits (d : Dev) (pa n : Nat) : Bool := (frameParts (n / 4096 + 2) pa n).any fun p => regionBusy d p.1

/-- What a host read of slots C leaves: words with an error within one symbol are corrected, and the row of a word that fails is
demoted (R376, R378). -/
def pleatNotes (s : State) (pa n : Nat) : State :=
  if s.dev.softWords.isEmpty && s.dev.badWords.isEmpty then s
  else
    let bad := s.dev.badWords.filter fun w => (List.range n).any fun i => slotOf s.dev [] (pa + i) / 32 == w
    (correctWords s (softIn s.dev [] pa n)).onDev fun d => bad.foldl (fun d w => demote d (rowKey w)) d

/-- A host read of one part; a part whose seal bit cannot be read delivers nothing (R376); none for Completer Abort. Metadata of a pleat block that cannot be read set CORRUPT (R331). -/
def hostReadPart (s : State) (trusted : Bool) (pa n : Nat) : State × Option (List Byte) :=
  let ones := List.replicate n (0xFF : Byte)
  let d := s.dev
  if !isTrusted d trusted && sealUnread d (pa / 4096) then (readNotes s (d.sealbase.toNat + pa / 32768) 1, none)
  else if frameSealed d (pa / 4096) && !isTrusted d trusted then (s.onDev (hostErr · 1 pa), some ones)
  else if isSecondary d pa then (s.onDev (herr · 4 pa), some ones)
  else if isPrimary d pa then
    let s := if (List.range n).any fun i => metaBad d (pa + i) then s.onDev (flagAttempt · flCorrupt) else s
    (pleatNotes s pa n, sysRead d [] pa n)
  else if l2Bad d pa n then (s, none)
  else (readNotes s pa n, l2Read d pa n)

/-- A byte of far memory as the host finds it there: what the port has yet to forward does not show (R228), and a line under an
XTS key is ciphertext (R323). -/
def hostFarByte (d : Dev) (pa : Nat) : Byte :=
  let raw (p : Nat) : Byte := sget Config.powerOnByte d.far p
  if lineKey d pa == 0 then raw pa
  else decipher 0 (lineKey d pa) (pa / 16) ((List.range 16).map fun i => raw (pa / 16 * 16 + i)) (pa % 16)

/-- A line of far memory is as the host finds it, in the clear. -/
def hostFarLine (d : Dev) (line : Nat) : Dev :=
  if lineKey d (64 * line) == 0 then d
  else
    let d := farForward d
    let bs := (List.range 64).map fun i => hostFarByte d (64 * line + i)
    { d with far := ssetAll Config.powerOnByte d.far (64 * line) bs, farKey := sdel d.farKey line }

/-- A write of the host to its own memory. -/
def hostFarPut (d : Dev) (pa : Nat) (bs : List Byte) : Dev :=
  let d := (List.range (bs.length / 64 + 2)).foldl (fun d k => if 64 * (pa / 64 + k) < pa + bs.length then hostFarLine d (pa / 64 + k) else d) d
  { d with far := ssetAll Config.powerOnByte d.far pa bs }

/-- A host read of BAR2. -/
def bar2Read (s : State) (trusted : Bool) (addr n : Nat) : State :=
  let r := (frameParts (n / 4096 + 2) addr n).foldl (fun (a : State × Option (List Byte)) p =>
    let x := hostReadPart a.1 trusted p.1 p.2
    (x.1, match a.2, x.2 with | some b, some c => some (b ++ c) | _, _ => none)) (s, some [])
  r.1.onDev fun d => match r.2 with
    | some bs => d.send (.hostRead bs)
    | none => d.send .hostAbort

/-- HOST_MEMORY_READ: of BAR0, of BAR2, a window of 1 TiB, or of the host's own memory. -/
def execHostMemoryRead (addr : HostAddr) (n : Nat) (trusted : Bool) (s : State) : Out :=
  match addr with
  | .bar0 addr =>
    if addr + n > bar0Bytes then .refused (.cannotOccur "host memory read")
    else .next (s.onDev (·.send (.hostRead (bar0Read s.dev addr n))))
  | .bar2 addr =>
    if addr + n > hbmEnd || hostWaits s.dev addr n then .refused (.cannotOccur "host memory read")
    else .next (bar2Read s trusted addr n)
  | .far addr =>
    if addr + n > farBase then .refused (.cannotOccur "host memory read")
    else .next (s.onDev (·.send (.hostRead ((List.range n).map fun i => hostFarByte s.dev (farBase + addr + i)))))

/-- Bytes of one frame put into slot C of their blocks (R335); a block whose metadata cannot be read stays (R331). -/
def hostPleat (d : Dev) (pa : Nat) (bs : List Byte) : Dev :=
  (List.range 17).foldl (fun d k =>
    let base := (pa / 256 + k) * 256
    let first := max base pa
    let chunk := (bs.drop (first - pa)).take (base + 256 - first)
    if chunk.isEmpty || metaBad d first then d
    else homeStore d (slotPa (pleatAt d (stackOf pa)) (committedSlot (pleatAt d (stackOf pa)) (blockMeta d first)) first) chunk) d

/-- The entry of an ASID that a write touched: its request count is 0, and a trusted write of SEAL takes effect; SEAL draws a
new XTS key when it becomes 1; the key that an ASID has stands until the next invalidation of it (R305, R315, R321, R323). -/
def entryWritten (d : Dev) (trusted : Bool) (a : Nat) : Dev :=
  let d := { d with pgCount := sdel d.pgCount a }
  if !isTrusted d trusted then d
  else
    let on := (l2Byte d (d.asidbase.toNat + 32 * a)).getLsbD 3
    let rest := d.xtsDue.filter (·.1 != a)
    if !d.xts.any (·.1 == a) then (if on then { d with xts := d.xts ++ [(a, d.nextKey)], nextKey := d.nextKey + 1 } else d)
    else if !on then { d with xtsDue := rest ++ [(a, none)] }
    else if d.xtsDue.contains (a, none) then { d with xtsDue := rest ++ [(a, some d.nextKey)], nextKey := d.nextKey + 1 }
    else d

/-- The entries of the ASID table that a range touches. -/
def entriesOf (d : Dev) (pa n : Nat) : List Nat :=
  let b := d.asidbase.toNat
  (List.range 4096).filter fun a => decide (b + 32 * a < pa + n) && decide (pa < b + 32 * a + 32)

/-- The range touches a line of an open reduction window. -/
def inWindow (d : Dev) (pa n : Nat) : Bool :=
  (List.range (n / 128 + 2)).any fun k => decide ((pa / 128 + k) * 128 < pa + n) && (windowOf d ((pa / 128 + k) * 128)).isSome

/-- A host write of one part. -/
def hostWritePart (trusted : Bool) (d : Dev) (pa : Nat) (bs : List Byte) : Dev :=
  let n := bs.length
  if (frameSealed d (pa / 4096) || sealUnread d (pa / 4096)) && !isTrusted d trusted then hostErr d 1 pa
  else if isSecondary d pa then herr d 4 pa
  else if isPrimary d pa then (if attemptLive d then herr d 4 pa else hostPleat d pa bs)
  else if inWindow d pa n then hostErr d 2 pa
  else (entriesOf d pa n).foldl (fun d a => entryWritten d trusted a) (l2Store d pa bs)

/-- HOST_MEMORY_WRITE: to BAR0, BAR2 or the host's own memory. A request to BAR0 that is not an aligned one of 8 bytes is
discarded. -/
def execHostMemoryWrite (addr : HostAddr) (bytes : List Byte) (trusted : Bool) (s : State) : Out :=
  match addr with
  | .bar0 addr =>
    if addr + bytes.length > bar0Bytes then .refused (.cannotOccur "host memory write")
    else if regRequest addr bytes.length then bar0Put addr (BitVec.ofNat 64 (ofBytesLE bytes)) trusted s
    else .next s
  | .bar2 addr =>
    if addr + bytes.length > hbmEnd || hostWaits s.dev addr bytes.length then .refused (.cannotOccur "host memory write")
    else .next (s.onDev fun d =>
      (frameParts (bytes.length / 4096 + 2) addr bytes.length).foldl
        (fun d p => hostWritePart trusted d p.1 ((bytes.drop (p.1 - addr)).take p.2)) d)
  | .far addr =>
    if addr + bytes.length > farBase then .refused (.cannotOccur "host memory write")
    else .next (s.onDev (hostFarPut · (farBase + addr) bytes))

end Sys2Proof.Machine
end

