-- ==== Sys2Proof/Machine/Events.lean ====
section
/-! DEFINITION. Memory and machine events: refresh and patrol scrub (R376, R378), self-tests (R379), MACHINE causes (R381),
reset (R325), evictions and the far-tier port (R204, R205). -/

namespace Sys2Proof.Machine

/-! ### DRAM (R376, R378) -/

/-- REFRESH: no byte changes, and no scan result (R266). -/
def execRefresh (stack bank _row : Nat) (s : State) : Out :=
  if stack < 16 && bank < 4096 then .next s else .refused (.cannotOccur "refresh")

/-- A 32-byte word has an error within one symbol; a second such error is one that the code does not correct (R376). -/
def softWord (d : Dev) (word : Nat) : Dev :=
  if d.badWords.contains word then d
  else if d.softWords.contains word then
    { d with softWords := d.softWords.filter (· != word), badWords := d.badWords ++ [word] }
  else { d with softWords := d.softWords ++ [word] }

/-- PATROL_SCRUB of a 32-byte word, which finds the errors that it holds or the one that it meets. A stored error keeps failing
its check; one in a slot of a pleat block is in its controller and sets CORRUPT (R348). -/
def execPatrolScrub (word : Nat) (ecc : EccOutcome) (s : State) : Out :=
  let pa := 32 * word
  let bad := s.dev.badWords.contains word || decide (ecc = .uncorrectable)
  if word ≥ hbmEnd / 32 then .refused (.cannotOccur "patrol scrub")
  else if bad then
    let s1 := s.onDev fun d =>
      let d := demote { d with badWords := addOnce d.badWords word, softWords := d.softWords.filter (· != word) } (rowKey word)
      if isPrimary d pa || isSecondary d pa then flagAttempt d flCorrupt else d
    .next (elogOpen s1 dramCode (rowKey word) pa)
  else if ecc = .corrected then .next (correctSoft (s.onDev fun d => { d with softWords := addOnce d.softWords word }) pa 32)
  else .next (correctSoft s pa 32)

/-! ### Faults of storage and of data paths, as they strike (R90, R331, R376, R377) -/

/-- A link buffer holds a word that its code does not correct: the port is the unit that reads it. The manual gives the port no
further effect: DESIGN CHOICE (log entry 86). -/
def linkBufferError (s : State) (port : Nat) : State :=
  (elogOpen s (causeCode .sramUe 6) port 0).onDev (flagAttempt · flCorrupt)

/-- A queue vector holds an error. -/
def spoilVec (q : RQueue) (slot : Nat) : RQueue :=
  { q with vecs := q.vecs.mapIdx fun k v => if k = slot then { v with bad := true } else v }

/-- A fault strikes; none where the array holds nothing there. -/
def strike (s : State) (f : Upset) : Option State :=
  let onCore (g : Nat) (f : Core → Core) : State := putCore s g (f (coreAt s g))
  match f with
  | .dram w lasting =>
    if w ≥ hbmEnd / 32 then none
    else if lasting then some (s.onDev fun d => { d with badWords := addOnce d.badWords w, softWords := d.softWords.filter (· != w) })
    else some (s.onDev (softWord · w))
  | .blockMeta k b =>
    let p := pleatAt s.dev k
    if k < 16 && p.en && b < 16 * p.nframes then some (s.onDev fun d => pleatSet d k { p with badMeta := addOnce p.badMeta b }) else none
  | .l1 g w =>
    if g < Config.cores && (slook (coreAt s g).l1 (w / 8)).isSome then
      some (onCore g fun c => { c with badL1 := addOnce c.badL1 w }) else none
  | .code g l =>
    if g < Config.cores && (slook (coreAt s g).code l).isSome then
      some (onCore g fun c => { c with badCode := addOnce c.badCode l }) else none
  | .l2 w => if l2Holds s.dev (8 * w) then some (s.onDev fun d => { d with badL2 := addOnce d.badL2 w }) else none
  | .scratchpad w => if w < 36 * 2 ^ 20 then some (s.onDev fun d => { d with badWin := addOnce d.badWin w }) else none
  | .queue g q k =>
    if h : q < 8 then
      if g < Config.cores && k < ((coreAt s g).q[q]'h).vecs.length then
        some (onCore g fun c => { c with q := c.q.set q (spoilVec (c.q[q]'h) k) h }) else none
    else none
  | .linkBuffer p => if p < 24 then some (linkBufferError s p) else none
  | .oneBit place => some (elog s (causeCode .sramUe 7) 0 place 0)
  | .residue g p l =>
    if g < Config.cores then some (onCore g fun c => { c with residues := c.residues ++ [{ place := p, lasting := l }] }) else none

/-! ### Self-test (R379) -/

/-- A core takes no new task; its task is saved and resumes elsewhere, and a class C launch is stopped. -/
def retireCore (s : State) (g : Nat) : State :=
  let c := coreAt s g
  let s := putCore s g { c with retired := true }
  match c.task with
  | none => s
  | some t =>
    if ((launchOf s.dev t.launch).map (·.cls)).getD 0 == 2 then stopLaunch s t.launch
    else if c.saving.isNone then beginSave s { c with retired := true } .retire
    else s

/-- INTEGRITY.RESIDUE_PERSIST in a unit of the core in focus: precise in X, in the word in flight of a sequencer, or at the one at
which it waits or is to issue. A sequencer that has no word, or holds a cause, has none that could stop, and neither has an X
that is being saved: the cause sets CORRUPT there and is logged (log entry 56). -/
def raisePersist (u : UnitId) (s : State) : State :=
  let c : CauseRec := { cause := .residuePersist }
  match u with
  | .x => if s.core.task.isNone then s else if s.core.saving.isSome then raiseFlags s c else trapX s c
  | .seq q =>
    let r := seqOf s q
    if s.core.task.isNone then s
    else if r.cause.isSome || !r.running then raiseFlags s c
    else match r.flight with
      | some f => stopFlight (owePeer s q f f.e) q f { c with e := f.e }
      | none => stopBits (cancelEarly s q) q 0 c

/-- The word in flight of a core's sequencer has done all that could stop it: a test that would stop a word waits until it
retires. -/
def retiresFirst (s : State) (g : Nat) : UnitId → Bool
  | .x => false
  | .seq q => ((seqOf (focus s g) q).flight.map fun f => f.done || decide (f.kind = .matrix)).getD false

/-- A unit of a core has a lasting fault: RESIDUE_PERSIST is raised and logged, and the core is retired. -/
def persist (s : State) (g : Nat) (u : UnitId) : State :=
  let s := onCoreNo s g (raisePersist u)
  retireCore (elog s (causeCode .residuePersist (unitCode u)) 3 (corePlace g) 0) g

/-- The test of a DRAM row. The spare row takes its corrected contents: errors within one symbol are gone, and a word that the code
does not correct keeps failing its check until a write covers it (R376, Stored error). -/
def testRow (stack bank row : Nat) (r : TestResult) (s : State) : Out :=
  let key := 4096 * stack + bank
  let used := sget 0 s.dev.spareRows key
  let log (s : State) (o : Nat) : Out := .next (elog s (causeCode .dramUe 5) o (stack + 2 ^ 4 * bank + 2 ^ 16 * row) 0)
  if stack ≥ 16 || bank ≥ 4096 then .refused (.cannotOccur "self-test")
  else match r with
    | .transient => log s 1
    | .spared => if used < 32 then log (s.onDev fun d =>
          { d with spareRows := sset 0 d.spareRows key (used + 1)
                   softWords := d.softWords.filter fun w => rowKey w != stack + 2 ^ 4 * bank + 2 ^ 16 * row }) 2
        else .refused (.cannotOccur "self-test")
    | .noSpare => if used < 32 then .refused (.cannotOccur "self-test") else log s 4

/-- The test of a cuff unit. -/
def testCuff (stack bank : Nat) (r : TestResult) (s : State) : Out :=
  let key := 4096 * stack + bank
  let log (s : State) (o : Nat) : Out := .next (elog s (causeCode .cuffBankUe 5) o (stack + 2 ^ 4 * bank) 0)
  if stack ≥ 16 || bank ≥ 4096 then .refused (.cannotOccur "self-test")
  else match r with
    | .transient => log s 1
    | .spared => .refused (.cannotOccur "self-test")
    | .noSpare => log (s.onDev fun d => { d with cuffOut := if d.cuffOut.contains key then d.cuffOut else d.cuffOut ++ [key] }) 3

/-- The test of a lane. -/
def testLane (port lane : Nat) (r : TestResult) (s : State) : Out :=
  match portAt s.dev port, r with
  | some _, .transient =>
    if lane < 8 then .next (elog s (causeCode .laneRetired 6) 1 (port + 256 * lane) 0) else .refused (.cannotOccur "self-test")
  | some p, .noSpare =>
    if lane < 8 && !p.lanes.contains lane then .next (retireLane s port lane p) else .refused (.cannotOccur "self-test")
  | _, _ => .refused (.cannotOccur "self-test")

/-- A matrix word of a core is in flight and not complete. -/
def inMatrixWord (c : Core) : Bool := (c.c.flight.map fun f => decide (f.kind = .matrix) && !f.done).getD false

/-- The test of a matrix column: two are replaced by spares, between matrix words (R200); a third retires the core. -/
def testColumn (core : Nat) (r : TestResult) (s : State) : Out :=
  let used := sget 0 s.dev.columns core
  let log (s : State) (o : Nat) : Out := .next (elog s (causeCode .residue 2) o (corePlace core) 0)
  if core ≥ Config.cores then .refused (.cannotOccur "self-test")
  else match r with
    | .transient => log s 1
    | .spared => if used < 2 && !inMatrixWord (coreAt s core) then
          log (s.onDev fun d => { d with columns := sset 0 d.columns core (used + 1) }) 2
        else .refused (.cannotOccur "self-test")
    | .noSpare => if used < 2 || retiresFirst s core (.seq .c) then .refused (.cannotOccur "self-test") else .next (persist s core (.seq .c))

/-- The test of another unit of a core after ARITH.RESIDUE. -/
def testResidue (core : Nat) (u : UnitId) (r : TestResult) (s : State) : Out :=
  if core ≥ Config.cores then .refused (.cannotOccur "self-test")
  else match r with
    | .transient => .next (elog s (causeCode .residue (unitCode u)) 1 (corePlace core) 0)
    | .spared => .refused (.cannotOccur "self-test")
    | .noSpare => if retiresFirst s core u then .refused (.cannotOccur "self-test") else .next (persist s core u)

/-- The retest of an SRAM array: kind 0 an L2 way of a die, 1 to 8 result queue kind - 1 of a core, else another array of a core.
With no redundancy left the way, the queue or the core is out of use (log entry 68): a queue has no free room any more, and
that a slice has a way less does not show, since it may write lines back at any time (R204). -/
def testSram (die kind core : Nat) (r : TestResult) (s : State) : Out :=
  let log (s : State) (o : Nat) : State := elog s (causeCode .sramUe 7) o (if kind ≥ 1 then corePlace core else die) 0
  if die ≥ 4 || (kind ≥ 1 && core ≥ Config.cores) then .refused (.cannotOccur "self-test")
  else match r with
    | .transient => .next (log s 1)
    | .spared => .next (log s 2)
    | .noSpare =>
      let out := (min kind 9, die, core)
      let s := (log s 3).onDev fun d => { d with sramOut := if d.sramOut.contains out then d.sramOut else d.sramOut ++ [out] }
      .next (if kind ≥ 9 then retireCore s core else s)

/-- SELF_TEST. -/
def execSelfTest (t : TestUnit) (r : TestResult) (s : State) : Out :=
  match t with
  | .dramRow stack bank row => testRow stack bank row r s
  | .cuffUnit stack bank => testCuff stack bank r s
  | .lane port lane => testLane port lane r s
  | .matrixColumn core _ => testColumn core r s
  | .residue core u => testResidue core u r s
  | .sram die kind core => testSram die kind core r s

/-! ### Machine events (R381) -/

/-- A MACHINE cause is logged at the management unit and sets FAULT. -/
def machineEvent (s : State) (c : Cause) : State := (elogOpen s (causeCode c 7) 0 0).onDev (flagAttempt · flFault)

/-- Stops every launch with STATUS 0x03. -/
def stopAll (s : State) : State := stopWhere s fun _ => true

/-- THERMAL: above 105 °C the clock is throttled by a further 1/8, and above 115 °C every launch is stopped. -/
def execThermal (celsius : Nat) (s : State) : Out :=
  if celsius ≤ 105 then .next s
  else
    let s := (machineEvent s .thermal).onDev fun d => { d with throttle := min 7 (d.throttle + 1) }
    .next (if celsius > 115 then stopAll s else s)

/-- The compute dies are in reset: the cores, the copy engines, the scratchpads, the L2 slices and the TLBs hold their reset
values. What the base dies and the I/O die hold stays. -/
def resetDies (s : State) : State :=
  let s := mapCores s fun c => { Core.init c.gcore with retired := c.retired }
  s.onDev fun d => { d with
    l2 := [], badL2 := [], badWin := [], tlb := [], win := [], tags := [], reqs := [], claspWait := [], rwins := []
    ce := Vector.replicate 48 { seq := Seq.init, posts := [], prog := none } }

/-- POWER: loss of power-good stops every launch and holds the compute dies in reset. -/
def execPower (s : State) : Out :=
  .next ((resetDies (stopAll (machineEvent s .power))).onDev fun d => { d with powerLost := true })

/-- FIRMWARE: a firmware fault. -/
def execFirmware (s : State) : Out := .next ((stopAll (machineEvent s .firmware)).onDev fun d => { d with fwstat := 0 })

/-- What a reset keeps of the device: DRAM with its stored errors, fuses, retired units and the boot counter, which
advances; far memory is the host's, and what stands there under a lost key stays so (R323). -/
def resetDev (d : Dev) : Dev :=
  { Dev.init with
    hbm := d.hbm, far := d.far, farKey := d.farKey, nextKey := d.nextKey, badWords := d.badWords, softWords := d.softWords
    rollback := d.rollback, spareRows := d.spareRows, cuffOut := d.cuffOut, sramOut := d.sramOut
    columns := d.columns, bootCount := d.bootCount + 1, hot := d.hot, outbox := d.outbox
    ports := vmap (fun p => { Port.init with lanes := p.lanes }) d.ports }

/-- RESET (R325): every register returns to its reset value and the boot ROM waits for GO. A reset that leaves CONFIG_LOCKED or
RUN ends the sealed state first (R324). -/
def execReset (s : State) : Out :=
  let s := if sealsHeld s.dev then endSealed s else s
  .next { core := { Core.init s.core.gcore with retired := s.core.retired }
          others := (s.others.filter fun e => e.2.retired).map fun e => (e.1, { Core.init e.1 with retired := true })
          dev := resetDev s.dev, unit := .x, sched := s.sched, cycle := 0, free := s.free, part := none }

/-! ### Evictions (R204, R205) -/

/-- EVICTION of a line: 64 bytes of the L1 of the core in focus, or 128 bytes of L2. Lines of an open window stay (R238). -/
def execEviction (l1 : Bool) (line : Nat) (s : State) : Out :=
  if l1 then
    if (slook s.core.l1 line).isSome then .next (dropL1 s fun k _ => k == line) else .refused (.cannotOccur "eviction")
  else if (windowOf s.dev (128 * line)).isSome || !s.dev.l2.any (fun e => e.1 / 128 == line) then .refused (.cannotOccur "eviction")
  else .next (s.onDev fun d => wbWhere d fun p => p / 128 == line)

/-- FAR_TIER_WRITE_FORWARD: the oldest write that the port holds reaches far memory. -/
def execFarTierWriteForward (s : State) : Out :=
  match s.dev.farPort with
  | [] => .refused (.cannotOccur "far-tier forward")
  | w :: rest => .next (s.onDev fun d => { d with far := sset Config.powerOnByte d.far w.pa w.b, farPort := rest })

/-- STACK_TEMPERATURE_CHANGE: across 85 °C. -/
def execStackTemperatureChange (stack : Nat) (hot : Bool) (s : State) : Out :=
  if h : stack < 16 then .next (s.onDev fun d => { d with hot := d.hot.set stack hot h })
  else .refused (.cannotOccur "stack temperature")

end Sys2Proof.Machine
end

