-- ==== Sys2Proof/Machine/Fused.lean ====
section
/-! DEFINITION. The fused softmax group of C (R178 to R180). -/

namespace Sys2Proof.Machine

/-- The effects of the four words in order: sources, destination, result (R178). -/
def fusedWords (o : FusedOp) : List (List Spec × Spec × (State → List Src → VRes)) :=
  let reg (c : BitVec 7) : Spec := { code := c, ty := o.ty }
  [([reg o.vx], reg o.vm, redBody o.ty false o.pg fun s l => (extremeOf true o.ty s l, 0)),
   ([reg o.vx, reg o.vm], reg o.vy, laneBody o.ty true o.pg
      (arith o.ty (fun m xs => subVal m (argF xs 0) (argF xs 1)) (fun _ _ => 0))),
   ([reg o.vy], reg o.ve, laneBody o.ty true o.pg (elemLane (if o.two then .exp2 else .exp) o.ty)),
   ([reg o.ve], reg o.vs, redBody o.ty true o.pg (sumOf o.ty))]

/-- Runs words in order, joining their flags; what they write is held back until the hem phase of the group ends (R171). A
word that raises a cause leaves no destination of the group written; its flags and those before it go to VFSTAT, and the
lane-flag record holds what it writes (R180). TRAP_INFO holds the flags of that word alone, as for a word of its own (R366;
R180 does not say: DESIGN CHOICE, log entry 92). -/
def fusedRun (s0 : State) : FFlags → List (List Spec × Spec × (State → List Src → VRes)) → State → Eng
  | fl, [], s =>
    { s := s0, kind := .hem, done := false, late := some { regs := regsOf s0.core s.core, lflags := s.core.lflags, flags := fl } }
  | fl, (srcs, dst, f) :: ws, s =>
    let r := vecBody srcs (some dst) f s
    match r.err with
    | some c =>
      { s := s0, kind := .hem, done := false
        late := some { lflags := r.s.core.lflags, flags := fl ||| c.info.setWidth 5, cause := some c.cause, info := c.info } }
    | none => fusedRun s0 (fl ||| r.flags) ws r.s

/-- The words of the group meet R178. -/
def fusedOk (o : FusedOp) (s : State) : Bool :=
  (o.ty == .f16 || o.ty == .bf16 || o.ty == .f32) && [o.vx, o.vm, o.vy, o.ve, o.vs].all (fun c => decide (c.toNat < 64))
    && (match roundCheck s with | .ok _ => true | .error _ => false)

/-- A fused group at C: it issues and retires as one word, with word 1's WAIT and TKI and word 4's SIG and TKO (R179). -/
def execFusedSoftmaxGroup (o : FusedOp) (s : State) : Out :=
  if decide (s.unit = .seq .c) && fusedOk o s then
    issueWord (.fusedSoftmaxGroup o) (groupSync o) { c := true } noCheck noWait noCheck
      (fun s u _ =>
        let r := fusedRun s 0 (fusedWords o) s
        { r with pc := some ((seqOf s u).pc + 32) }) s
  else .refused (.cannotOccur "fused group")

end Sys2Proof.Machine
end

