-- ==== Sys2Proof/Machine/Gather.lean ====
section
/-! DEFINITION. GATH and SCAT (R248): rows of a memory table named by a window of row numbers. -/

namespace Sys2Proof.Machine

/-- The three passes of a gather or scatter: memory side, window side, and row numbers. -/
structure Rows where
  md : Desc
  wd : Desc
  xd : Desc
  deriving DecidableEq, Repr

/-- The operand rules of R248, R111 and R100. -/
def rowsOk (gath : Bool) (u : SeqId) (r : Rows) : Bool :=
  let mask (d : Desc) : Bool := !isCopy u || oneBit d.cmask
  r.md.mem && r.md.push == !gath && !r.md.mx && r.md.n2 == 1 && r.md.n3 == 1
    && !r.wd.mem && r.wd.push == gath && !r.wd.mx && decide (r.wd.ty = r.md.ty)
    && !r.xd.mem && !r.xd.push && !r.xd.mx && (decide (r.xd.ty = .n16) || decide (r.xd.ty = .n32))
    && r.wd.total == r.xd.total * r.md.run && mask r.wd && mask r.xd

/-- The passes of a word from its D, S and X. -/
def rowsOf (gath : Bool) (d sr x : Desc) : Rows := if gath then { md := sr, wd := d, xd := x } else { md := d, wd := sr, xd := x }

/-- Decode check: a copy engine uses the descriptor form. -/
def rowsDecode (o : GOp) (_ : State) (u : SeqId) : Res Unit := if isCopy u && !o.f then raise .operand else .ok ()

/-- The passes that the descriptors of D, S and X describe. -/
def rowsIn (gath : Bool) (l : List Nat) : Rows :=
  rowsOf gath (descOf (l.headD 0)) (descOf ((l[1]?).getD 0)) (descOf ((l[2]?).getD 0))

/-- The descriptors in the stream registers that a word names. -/
def rowRegs (s : State) (o : GOp) : List Nat := [o.d, o.s, o.x].map fun g => (gget s.core g).desc.toNat

/-- Issue-cycle check of the register form. -/
def rowsEarly (gath : Bool) (o : GOp) (s : State) (u : SeqId) : Res Unit :=
  if o.f || !(keptDescs s u).isEmpty || rowsOk gath u (rowsIn gath (rowRegs s o)) then .ok () else raise .operand

/-- The descriptors of a word's passes (R102, R248). -/
def fetchRows (gath : Bool) (o : GOp) (s : State) (u : SeqId) : Res (State × List Nat) :=
  match keptDescs s u with
  | [] =>
    if o.f then do
      let (s, d) ← readDesc s u o.d
      let (s, sr) ← readDesc s u o.s
      let (s, x) ← readDesc s u o.x
      if !rowsOk gath u (rowsIn gath [d, sr, x]) then raise .operand
      pure (s, [d, sr, x])
    else .ok (s, rowRegs s o)
  | l => .ok (s, l)

/-- Row number j; a cause reports the first window element of the row. -/
def rowIndex (s : State) (u : SeqId) (r : Rows) (j : Nat) : Res Nat :=
  atElem (j * r.md.run) do
    alignCheck r.xd.ty (r.xd.addr j) false
    let x ← sideRead s (.seq u) (accOf s) (sideOf s u r.xd) r.xd.swz (r.xd.addr j) (groupBytes r.xd.ty)
    pure (ofBytesLE x.2)

/-- The address of group k of row n. -/
def rowAddr (r : Rows) (n k : Nat) : Int := r.md.base + (n : Int) * r.md.s1 + (k : Int) * r.md.s0

/-- The address of window group i in the table. -/
def groupRow (s : State) (u : SeqId) (r : Rows) (i : Nat) : Res Int :=
  (rowIndex s u r (i / r.md.n0)).map fun n => rowAddr r n (i % r.md.n0)

/-- The groups of a gather from group i on, up to the first cause. -/
def gatherGrps (u : SeqId) (r : Rows) : Nat → Nat → State → State × List Grp × Option CauseRec
  | 0, _, s => (s, [], none)
  | n + 1, i, s =>
    let e := groupElems r.md.ty * i
    match groupRow s u r i with
    | .error c => (s, [], some c)
    | .ok addr =>
      match atElem e (do
          alignCheck r.md.ty addr false
          sideRead s (.seq u) (accOf s) .mem 0 addr (groupBytes r.md.ty)) with
      | .error c => (s, [], some c)
      | .ok (s, bs) =>
        let x := gatherGrps u r n (i + 1) s
        (x.1, { e, bytes := bs, scale := none } :: x.2.1, x.2.2)

/-- GATH (R248). -/
def execGath (y : Sync) (o : GOp) (s : State) : Out :=
  issueWord (.gath y o) y { l := true, e := true } (rowsDecode o) noWait (rowsEarly true o)
    (fun s u e0 =>
      match atElem e0 (fetchRows true o s u) with
      | .error c => stopAt s c
      | .ok (s, l) =>
        let r := rowsIn true l
        let i := e0 / groupElems r.wd.ty
        let k := keptRun r.wd.ty (((resumeOf s u).map (·.keep)).getD []) (r.wd.groups - i) i
        let x := gatherGrps u r (r.wd.groups - i - k.length) (i + k.length) s
        let g := cutLines s r.wd (k ++ x.2.1) (haltOf x.2.2)
        let plan := (g.1.map (planGroup r.wd)).flatten
        let w := writePlan (.seq u) (accOf s) [sideOf s u r.wd] r.wd.ty (wholePlan r.wd plan g.2.1.elem) plan x.1
        endEng w.1 ((haltOf w.2).orElse g.2.1) l g.2.2) s

/-- Marks the pages of a row for migration (R313). -/
def markRow (s : State) (r : Rows) (n : Nat) : State :=
  let a := rowAddr r n 0
  let b := rowAddr r n (r.md.n0 - 1)
  markRange s (accOf s) (min a b) (max a b + groupBytes r.md.ty)

/-- Writes window groups into their rows, up to the first cause. -/
def scatterGrps (u : SeqId) (r : Rows) : List Grp → State → State × Option CauseRec
  | [], s => (s, none)
  | g :: gs, s =>
    let i := g.e / groupElems r.md.ty
    match rowIndex s u r (i / r.md.n0) with
    | .error c => (s, some c)
    | .ok n =>
      let s := if i % r.md.n0 == 0 then markRow s r n else s
      let wr : Wr := { e := g.e, addr := rowAddr r n (i % r.md.n0), mode := 0, bytes := fullMask g.bytes }
      match writePlan (.seq u) (accOf s) [.mem] r.md.ty [wr] [wr] s with
      | (s, some c) => (s, some c)
      | (s, none) => scatterGrps u r gs s

/-- SCAT (R248). -/
def execScat (y : Sync) (o : GOp) (s : State) : Out :=
  issueWord (.scat y o) y { s := true, e := true } (rowsDecode o) noWait (rowsEarly false o)
    (fun s u e0 =>
      match atElem e0 (fetchRows false o s u) with
      | .error c => stopAt s c
      | .ok (s, l) =>
        let r := rowsIn false l
        let i := e0 / groupElems r.wd.ty
        let x := readPass (.seq u) (accOf s) (sideOf s u r.wd) r.wd (r.wd.groups - i) i s
        let g := cutTurn s x.2.1 (haltOf x.2.2)
        let w := scatterGrps u r g.1 x.1
        endEng w.1 ((haltOf w.2).orElse g.2) l []) s

end Sys2Proof.Machine
end

