-- ==== Sys2Proof/Machine/Wide64.lean ====
section
/-! DEFINITION. The 64-bit vector forms (R159) and the F64 elementary functions (R160). -/

namespace Sys2Proof.Machine

/-- A two-operand F64 word. -/
def wideWord (i : Instr) (y : Sync) (o : WOp) (ff : RMode → List FVal → FRes) (s : State) : Out :=
  laneWord i y true true true .f64 o.vd [o.va, o.vb] o.pg (arith .f64 ff (fun _ _ => 0)) s

/-- VADD.F64. -/
def execVaddF64 (y : Sync) (o : WOp) (s : State) : Out :=
  wideWord (.vaddF64 y o) y o (fun m xs => addVal m (argF xs 0) (argF xs 1)) s

/-- VSUB.F64. -/
def execVsubF64 (y : Sync) (o : WOp) (s : State) : Out :=
  wideWord (.vsubF64 y o) y o (fun m xs => subVal m (argF xs 0) (argF xs 1)) s

/-- VMUL.F64. -/
def execVmulF64 (y : Sync) (o : WOp) (s : State) : Out :=
  wideWord (.vmulF64 y o) y o (fun _ xs => mulVal (argF xs 0) (argF xs 1)) s

/-- VFMA.F64, destructive. -/
def execVfmaF64 (y : Sync) (o : WOp) (s : State) : Out :=
  laneWord (.vfmaF64 y o) y (decide (o.vd.toNat < 64)) true true .f64 o.vd [o.va, o.vb, o.vd] o.pg
    (arith .f64 (fun m xs => fmaVal m false false (argF xs 0) (argF xs 1) (argF xs 2)) (fun _ _ => 0)) s

/-- The condition of a compare sub-code. -/
def f64Cond : F64Op → VCond
  | .cmpeq => .eq | .cmpne => .ne | .cmplt => .lt | .cmple => .le | _ => .un

/-- The sub-codes at 0xDC. -/
def execF64OtherArithmetic (y : Sync) (op : F64Op) (o : WOp) (s : State) : Out :=
  let i := Instr.f64OtherArithmetic y op o
  match op with
  | .min => laneWord i y true false false .f64 o.vd [o.va, o.vb] o.pg
      (choose .f64 (fun xs => minVal (argF xs 0) (argF xs 1)) (fun _ => 0)) s
  | .max => laneWord i y true false false .f64 o.vd [o.va, o.vb] o.pg
      (choose .f64 (fun xs => maxVal (argF xs 0) (argF xs 1)) (fun _ => 0)) s
  | .abs => bitWord i y true .f64 o.vd [o.va] o.pg (absLane .f64) s
  | .neg => bitWord i y true .f64 o.vd [o.va] o.pg (negLane .f64) s
  | .cmpeq | .cmpne | .cmplt | .cmple | .cmpun => cmpWord i y true .f64 (o.vd.setWidth 4) o.va o.vb o.pg (f64Cond op) s
  | .redsum => redWord i y .f64 true true o.vd o.va o.pg (sumOf .f64) s
  | .redmax => redWord i y .f64 false true o.vd o.va o.pg (fun s l => (extremeOf true .f64 s l, 0)) s
  | .redmin => redWord i y .f64 false true o.vd o.va o.pg (fun s l => (extremeOf false .f64 s l, 0)) s
  | .scan => scanWord i y .f64 o.vd o.va o.pg s

/-- Destination and source of a conversion sub-code at 0xDD. -/
def cvt64Types : Cvt64 → Ty × Ty
  | .f64f32 => (.f64, .f32) | .f32f64 => (.f32, .f64) | .f64i64 => (.f64, .i64) | .f64n64 => (.f64, .n64)
  | .i64f64 => (.i64, .f64) | .n64f64 => (.n64, .f64) | .i64i32 => (.i64, .i32) | .n64n32 => (.n64, .n32)
  | .i32i64 => (.i32, .i64) | .n32n64 => (.n32, .n64)

/-- The conversions at 0xDD: 64 lanes, so that of a group of two registers on either side elements 0 to 63 alone are converted
(R123, R159, log entry 11). -/
def execVcvtF64 (y : Sync) (op : Cvt64) (vd va : BitVec 7) (rm : RmSel) (pg : BitVec 4) (s : State) : Out :=
  convWord (.vcvtF64 y op vd va rm pg) y (cvt64Types op).1 (cvt64Types op).2 false 64 vd va rm pg s

/-- The elementary functions at 0xDE. -/
def execF64Elementary (y : Sync) (fn : Fn) (o : WOp) (s : State) : Out :=
  elemWord (.f64Elementary y fn o) y fn .f64 o.vd (if fn = .div then [o.va, o.vb] else [o.va]) o.pg s

/-- Integer lane of a two-operand sub-code at 0xDF. -/
def i64Lane (op : I64Op) (xs : List Nat) : Nat :=
  let a := argN xs 0
  let b := argN xs 1
  let sa := intOf true 64 a
  let sb := intOf true 64 b
  match op with
  | .add => a + b
  | .sub => a + 2 ^ 64 - b
  | .mul => a * b
  | .min => if sa ≤ sb then a else b
  | .max => if sa ≤ sb then b else a
  | .minu => Nat.min a b
  | .maxu => Nat.max a b
  | .and => a &&& b
  | .or => a ||| b
  | .xor => a ^^^ b
  | .sll => a * 2 ^ (b % 64)
  | .srl => a / 2 ^ (b % 64)
  | .sra => intPat 64 (sa / (2 ^ (b % 64) : Int))
  | .cmplt | .cmpltu | .cmpeq => 0

/-- The sub-codes at 0xDF. Those for both types read lanes as N64 where it makes no difference. -/
def execI64Arithmetic (y : Sync) (op : I64Op) (o : WOp) (s : State) : Out :=
  let i := Instr.i64Arithmetic y op o
  match op with
  | .cmplt => cmpWord i y true .i64 (o.vd.setWidth 4) o.va o.vb o.pg .lt s
  | .cmpltu => cmpWord i y true .n64 (o.vd.setWidth 4) o.va o.vb o.pg .lt s
  | .cmpeq => cmpWord i y true .i64 (o.vd.setWidth 4) o.va o.vb o.pg .eq s
  | .minu | .maxu => bitWord i y true .n64 o.vd [o.va, o.vb] o.pg (i64Lane op) s
  | _ => bitWord i y true .i64 o.vd [o.va, o.vb] o.pg (i64Lane op) s

end Sys2Proof.Machine
end

