-- ==== Sys2Proof/Machine/Dispatch.lean ====
section
/-! DEFINITION. What each instruction and step does: one arm for each constructor of `Instr`. -/

namespace Sys2Proof.Machine

/-- The meaning of one step of the T9: an instruction word at its unit, or a step of the device. -/
def exec (i : Instr) (s : State) : Host.Outcome State Fault Refusal :=
  match i with
  | .add d a b => Sys2Proof.Machine.execAdd d a b s
  | .sub d a b => Sys2Proof.Machine.execSub d a b s
  | .mul d a b => Sys2Proof.Machine.execMul d a b s
  | .mulh d a b => Sys2Proof.Machine.execMulh d a b s
  | .mulhu d a b => Sys2Proof.Machine.execMulhu d a b s
  | .div d a b => Sys2Proof.Machine.execDiv d a b s
  | .divu d a b => Sys2Proof.Machine.execDivu d a b s
  | .rem d a b => Sys2Proof.Machine.execRem d a b s
  | .remu d a b => Sys2Proof.Machine.execRemu d a b s
  | .and d a b => Sys2Proof.Machine.execAnd d a b s
  | .or d a b => Sys2Proof.Machine.execOr d a b s
  | .xor d a b => Sys2Proof.Machine.execXor d a b s
  | .sll d a b => Sys2Proof.Machine.execSll d a b s
  | .srl d a b => Sys2Proof.Machine.execSrl d a b s
  | .sra d a b => Sys2Proof.Machine.execSra d a b s
  | .slt d a b => Sys2Proof.Machine.execSlt d a b s
  | .sltu d a b => Sys2Proof.Machine.execSltu d a b s
  | .min d a b => Sys2Proof.Machine.execMin d a b s
  | .max d a b => Sys2Proof.Machine.execMax d a b s
  | .minu d a b => Sys2Proof.Machine.execMinu d a b s
  | .maxu d a b => Sys2Proof.Machine.execMaxu d a b s
  | .addi d a imm => Sys2Proof.Machine.execAddi d a imm s
  | .andi d a imm => Sys2Proof.Machine.execAndi d a imm s
  | .ori d a imm => Sys2Proof.Machine.execOri d a imm s
  | .xori d a imm => Sys2Proof.Machine.execXori d a imm s
  | .slti d a imm => Sys2Proof.Machine.execSlti d a imm s
  | .slli d a sh => Sys2Proof.Machine.execSlli d a sh s
  | .srli d a sh => Sys2Proof.Machine.execSrli d a sh s
  | .srai d a sh => Sys2Proof.Machine.execSrai d a sh s
  | .adpc d imm => Sys2Proof.Machine.execAdpc d imm s
  | .lih d imm => Sys2Proof.Machine.execLih d imm s
  | .fadd d a b p rm => Sys2Proof.Machine.execFadd d a b p rm s
  | .fsub d a b p rm => Sys2Proof.Machine.execFsub d a b p rm s
  | .fmul d a b p rm => Sys2Proof.Machine.execFmul d a b p rm s
  | .fdiv d a b p rm => Sys2Proof.Machine.execFdiv d a b p rm s
  | .fsqrt d a p rm => Sys2Proof.Machine.execFsqrt d a p rm s
  | .fmin d a b p => Sys2Proof.Machine.execFmin d a b p s
  | .fmax d a b p => Sys2Proof.Machine.execFmax d a b p s
  | .fcmp d a b p cc => Sys2Proof.Machine.execFcmp d a b p cc s
  | .fcvt d a dst src rm => Sys2Proof.Machine.execFcvt d a dst src rm s
  | .fclass d a p => Sys2Proof.Machine.execFclass d a p s
  | .fma d a b c p rm => Sys2Proof.Machine.execFma d a b c p rm s
  | .fms d a b c p rm => Sys2Proof.Machine.execFms d a b c p rm s
  | .fnma d a b c p rm => Sys2Proof.Machine.execFnma d a b c p rm s
  | .fnms d a b c p rm => Sys2Proof.Machine.execFnms d a b c p rm s
  | .beq a b off => Sys2Proof.Machine.execBeq a b off s
  | .bne a b off => Sys2Proof.Machine.execBne a b off s
  | .blt a b off => Sys2Proof.Machine.execBlt a b off s
  | .bge a b off => Sys2Proof.Machine.execBge a b off s
  | .bltu a b off => Sys2Proof.Machine.execBltu a b off s
  | .bgeu a b off => Sys2Proof.Machine.execBgeu a b off s
  | .jal off => Sys2Proof.Machine.execJal off s
  | .jalr d a imm => Sys2Proof.Machine.execJalr d a imm s
  | .ld d a sz pol off => Sys2Proof.Machine.execLd d a sz pol off s
  | .ldz d a sz pol off => Sys2Proof.Machine.execLdz d a sz pol off s
  | .st xs a sz pol off => Sys2Proof.Machine.execSt xs a sz pol off s
  | .cinv xl a off => Sys2Proof.Machine.execCinv xl a off s
  | .amo op d a b wide => Sys2Proof.Machine.execAmo op d a b wide s
  | .cas d a b wide => Sys2Proof.Machine.execCas d a b wide s
  | .fence sc => Sys2Proof.Machine.execFence sc s
  | .fencex pa pb sc => Sys2Proof.Machine.execFencex pa pb sc s
  | .cbind xl a b => Sys2Proof.Machine.execCbind xl a b s
  | .cunb a b => Sys2Proof.Machine.execCunb a b s
  | .cacq a => Sys2Proof.Machine.execCacq a s
  | .ctry d a => Sys2Proof.Machine.execCtry d a s
  | .crel a => Sys2Proof.Machine.execCrel a s
  | .rwin c a b => Sys2Proof.Machine.execRwin c a b s
  | .rwinCancel a => Sys2Proof.Machine.execRwinCancel a s
  | .redst k a xs ty => Sys2Proof.Machine.execRedst k a xs ty s
  | .nmadd a xs ty => Sys2Proof.Machine.execNmadd a xs ty s
  | .nmmin a xs ty => Sys2Proof.Machine.execNmmin a xs ty s
  | .nmmax a xs ty => Sys2Proof.Machine.execNmmax a xs ty s
  | .nmfen => Sys2Proof.Machine.execNmfen s
  | .ecmd t a b => Sys2Proof.Machine.execEcmd t a b s
  | .efen mask => Sys2Proof.Machine.execEfen mask s
  | .eflush mask => Sys2Proof.Machine.execEflush mask s
  | .toks sq => Sys2Proof.Machine.execToks sq s
  | .tokr sq => Sys2Proof.Machine.execTokr sq s
  | .ssig a sem inc => Sys2Proof.Machine.execSsig a sem inc s
  | .swait sem thr => Sys2Proof.Machine.execSwait sem thr s
  | .srd d sem => Sys2Proof.Machine.execSrd d sem s
  | .sset a sem => Sys2Proof.Machine.execSset a sem s
  | .semcfg a sem => Sys2Proof.Machine.execSemcfg a sem s
  | .wfe d a mask => Sys2Proof.Machine.execWfe d a mask s
  | .spawn a => Sys2Proof.Machine.execSpawn a s
  | .join a => Sys2Proof.Machine.execJoin a s
  | .ndone a b => Sys2Proof.Machine.execNdone a b s
  | .yield => Sys2Proof.Machine.execYield s
  | .texit => Sys2Proof.Machine.execTexit s
  | .tbegin d => Sys2Proof.Machine.execTbegin d s
  | .tflag a b => Sys2Proof.Machine.execTflag a b s
  | .pflush => Sys2Proof.Machine.execPflush s
  | .svote a b => Sys2Proof.Machine.execSvote a b s
  | .twait d a => Sys2Proof.Machine.execTwait d a s
  | .tstat d => Sys2Proof.Machine.execTstat d s
  | .csrr d num => Sys2Proof.Machine.execCsrr d num s
  | .csrw num a => Sys2Proof.Machine.execCsrw num a s
  | .trap k => Sys2Proof.Machine.execTrap k s
  | .tret => Sys2Proof.Machine.execTret s
  | .tretSkip => Sys2Proof.Machine.execTretSkip s
  | .pgreq d a b => Sys2Proof.Machine.execPgreq d a b s
  | .enop sy => Sys2Proof.Machine.execEnop sy s
  | .estop sy => Sys2Proof.Machine.execEstop sy s
  | .ejmp sy off => Sys2Proof.Machine.execEjmp sy off s
  | .ebr sy cc ia ib off => Sys2Proof.Machine.execEbr sy cc ia ib off s
  | .eloop sy i1 off => Sys2Proof.Machine.execEloop sy i1 off s
  | .loop sy i1 off => Sys2Proof.Machine.execLoop sy i1 off s
  | .iset sy i1 imm => Sys2Proof.Machine.execIset sy i1 imm s
  | .iadd sy i1 imm => Sys2Proof.Machine.execIadd sy i1 imm s
  | .ild sy i1 ib off => Sys2Proof.Machine.execIld sy i1 ib off s
  | .rbset sy vrb prb => Sys2Proof.Machine.execRbset sy vrb prb s
  | .gcfg sy g ib off => Sys2Proof.Machine.execGcfg sy g ib off s
  | .gset sy g fld ia => Sys2Proof.Machine.execGset sy g fld ia s
  | .lds sy o => Sys2Proof.Machine.execLds sy o s
  | .sts sy o => Sys2Proof.Machine.execSts sy o s
  | .mcast sy o => Sys2Proof.Machine.execMcast sy o s
  | .bcopy sy o => Sys2Proof.Machine.execBcopy sy o s
  | .gath sy o => Sys2Proof.Machine.execGath sy o s
  | .scat sy o => Sys2Proof.Machine.execScat sy o s
  | .redstEngine sy o ik => Sys2Proof.Machine.execRedstEngine sy o ik s
  | .nmaddEngine sy o => Sys2Proof.Machine.execNmaddEngine sy o s
  | .nmminEngine sy o => Sys2Proof.Machine.execNmminEngine sy o s
  | .nmmaxEngine sy o => Sys2Proof.Machine.execNmmaxEngine sy o s
  | .nmfenEngine sy => Sys2Proof.Machine.execNmfenEngine sy s
  | .fencexEngine sy pa pb sc => Sys2Proof.Machine.execFencexEngine sy pa pb sc s
  | .mwld sy sw sm sp d64 => Sys2Proof.Machine.execMwld sy sw sm sp d64 s
  | .mmaF sy o => Sys2Proof.Machine.execMmaF sy o s
  | .mmaB sy o => Sys2Proof.Machine.execMmaB sy o s
  | .mmaG sy o => Sys2Proof.Machine.execMmaG sy o s
  | .mdrain sy o => Sys2Proof.Machine.execMdrain sy o s
  | .mzero sy mask f64 => Sys2Proof.Machine.execMzero sy mask f64 s
  | .msave sy t g => Sys2Proof.Machine.execMsave sy t g s
  | .mrest sy t g => Sys2Proof.Machine.execMrest sy t g s
  | .matrixWordComplete => Sys2Proof.Machine.execMatrixWordComplete s
  | .vadd sy o => Sys2Proof.Machine.execVadd sy o s
  | .vsub sy o => Sys2Proof.Machine.execVsub sy o s
  | .vmul sy o => Sys2Proof.Machine.execVmul sy o s
  | .vfma sy o => Sys2Proof.Machine.execVfma sy o s
  | .vfms sy o => Sys2Proof.Machine.execVfms sy o s
  | .vfnma sy o => Sys2Proof.Machine.execVfnma sy o s
  | .vmin sy o => Sys2Proof.Machine.execVmin sy o s
  | .vmax sy o => Sys2Proof.Machine.execVmax sy o s
  | .vabs sy o => Sys2Proof.Machine.execVabs sy o s
  | .vneg sy o => Sys2Proof.Machine.execVneg sy o s
  | .vsadd sy o => Sys2Proof.Machine.execVsadd sy o s
  | .vssub sy o => Sys2Proof.Machine.execVssub sy o s
  | .vmulh sy o => Sys2Proof.Machine.execVmulh sy o s
  | .vclamp sy o => Sys2Proof.Machine.execVclamp sy o s
  | .vcpsgn sy o => Sys2Proof.Machine.execVcpsgn sy o s
  | .vand sy o => Sys2Proof.Machine.execVand sy o s
  | .vor sy o => Sys2Proof.Machine.execVor sy o s
  | .vxor sy o => Sys2Proof.Machine.execVxor sy o s
  | .vnot sy o => Sys2Proof.Machine.execVnot sy o s
  | .vsll sy o => Sys2Proof.Machine.execVsll sy o s
  | .vsrl sy o => Sys2Proof.Machine.execVsrl sy o s
  | .vsra sy o => Sys2Proof.Machine.execVsra sy o s
  | .vpopc sy o => Sys2Proof.Machine.execVpopc sy o s
  | .vcmpeq sy o => Sys2Proof.Machine.execVcmpeq sy o s
  | .vcmpne sy o => Sys2Proof.Machine.execVcmpne sy o s
  | .vcmplt sy o => Sys2Proof.Machine.execVcmplt sy o s
  | .vcmple sy o => Sys2Proof.Machine.execVcmple sy o s
  | .vcmpun sy o => Sys2Proof.Machine.execVcmpun sy o s
  | .pand sy pd pa pb => Sys2Proof.Machine.execPand sy pd pa pb s
  | .por sy pd pa pb => Sys2Proof.Machine.execPor sy pd pa pb s
  | .pxor sy pd pa pb => Sys2Proof.Machine.execPxor sy pd pa pb s
  | .pnot sy pd pa => Sys2Proof.Machine.execPnot sy pd pa s
  | .pset sy ty pd i1 => Sys2Proof.Machine.execPset sy ty pd i1 s
  | .pcnt sy ty id pa pg => Sys2Proof.Machine.execPcnt sy ty id pa pg s
  | .pfirst sy ty id pa pg => Sys2Proof.Machine.execPfirst sy ty id pa pg s
  | .vcvt sy o => Sys2Proof.Machine.execVcvt sy o s
  | .vquant sy o => Sys2Proof.Machine.execVquant sy o s
  | .vmov sy o => Sys2Proof.Machine.execVmov sy o s
  | .vbcast sy o ib => Sys2Proof.Machine.execVbcast sy o ib s
  | .vperm sy o => Sys2Proof.Machine.execVperm sy o s
  | .vslide sy o => Sys2Proof.Machine.execVslide sy o s
  | .vsel sy o => Sys2Proof.Machine.execVsel sy o s
  | .vredsum sy o => Sys2Proof.Machine.execVredsum sy o s
  | .vredmax sy o => Sys2Proof.Machine.execVredmax sy o s
  | .vredmin sy o => Sys2Proof.Machine.execVredmin sy o s
  | .vscan sy o => Sys2Proof.Machine.execVscan sy o s
  | .vsort sy o => Sys2Proof.Machine.execVsort sy o s
  | .vtopk sy o => Sys2Proof.Machine.execVtopk sy o s
  | .vcompact sy o => Sys2Proof.Machine.execVcompact sy o s
  | .viota sy ty vd ib pg => Sys2Proof.Machine.execViota sy ty vd ib pg s
  | .vrand sy ty vd ik ic pg => Sys2Proof.Machine.execVrand sy ty vd ik ic pg s
  | .vroute sy ty vd va ic pd => Sys2Proof.Machine.execVroute sy ty vd va ic pd s
  | .vchk sy ty pd va id pg => Sys2Proof.Machine.execVchk sy ty pd va id pg s
  | .vflg sy pd sel pg => Sys2Proof.Machine.execVflg sy pd sel pg s
  | .vsmrg sy vd va hd => Sys2Proof.Machine.execVsmrg sy vd va hd s
  | .vexp sy o => Sys2Proof.Machine.execVexp sy o s
  | .vexp2 sy o => Sys2Proof.Machine.execVexp2 sy o s
  | .vexpm1 sy o => Sys2Proof.Machine.execVexpm1 sy o s
  | .vlog sy o => Sys2Proof.Machine.execVlog sy o s
  | .vlog2 sy o => Sys2Proof.Machine.execVlog2 sy o s
  | .vlog1p sy o => Sys2Proof.Machine.execVlog1p sy o s
  | .vrcp sy o => Sys2Proof.Machine.execVrcp sy o s
  | .vrsqrt sy o => Sys2Proof.Machine.execVrsqrt sy o s
  | .vsqrt sy o => Sys2Proof.Machine.execVsqrt sy o s
  | .vdiv sy o => Sys2Proof.Machine.execVdiv sy o s
  | .vsin sy o => Sys2Proof.Machine.execVsin sy o s
  | .vcos sy o => Sys2Proof.Machine.execVcos sy o s
  | .vtanh sy o => Sys2Proof.Machine.execVtanh sy o s
  | .verf sy o => Sys2Proof.Machine.execVerf sy o s
  | .vsigm sy o => Sys2Proof.Machine.execVsigm sy o s
  | .vexpa sy o => Sys2Proof.Machine.execVexpa sy o s
  | .vexp2a sy o => Sys2Proof.Machine.execVexp2a sy o s
  | .vexpm1a sy o => Sys2Proof.Machine.execVexpm1a sy o s
  | .vloga sy o => Sys2Proof.Machine.execVloga sy o s
  | .vlog2a sy o => Sys2Proof.Machine.execVlog2a sy o s
  | .vlog1pa sy o => Sys2Proof.Machine.execVlog1pa sy o s
  | .vrcpa sy o => Sys2Proof.Machine.execVrcpa sy o s
  | .vrsqrta sy o => Sys2Proof.Machine.execVrsqrta sy o s
  | .vsqrta sy o => Sys2Proof.Machine.execVsqrta sy o s
  | .vdiva sy o => Sys2Proof.Machine.execVdiva sy o s
  | .vsina sy o => Sys2Proof.Machine.execVsina sy o s
  | .vcosa sy o => Sys2Proof.Machine.execVcosa sy o s
  | .vtanha sy o => Sys2Proof.Machine.execVtanha sy o s
  | .verfa sy o => Sys2Proof.Machine.execVerfa sy o s
  | .vsigma sy o => Sys2Proof.Machine.execVsigma sy o s
  | .hemPhaseEnd => Sys2Proof.Machine.execHemPhaseEnd s
  | .fusedSoftmaxGroup o => Sys2Proof.Machine.execFusedSoftmaxGroup o s
  | .vaddF64 sy o => Sys2Proof.Machine.execVaddF64 sy o s
  | .vsubF64 sy o => Sys2Proof.Machine.execVsubF64 sy o s
  | .vmulF64 sy o => Sys2Proof.Machine.execVmulF64 sy o s
  | .vfmaF64 sy o => Sys2Proof.Machine.execVfmaF64 sy o s
  | .f64OtherArithmetic sy op o => Sys2Proof.Machine.execF64OtherArithmetic sy op o s
  | .vcvtF64 sy op vd va rm pg => Sys2Proof.Machine.execVcvtF64 sy op vd va rm pg s
  | .f64Elementary sy fn o => Sys2Proof.Machine.execF64Elementary sy fn o s
  | .i64Arithmetic sy op o => Sys2Proof.Machine.execI64Arithmetic sy op o s
  | .qpost sy qa ik il q => Sys2Proof.Machine.execQpost sy qa ik il q s
  | .kapp sy o ij => Sys2Proof.Machine.execKapp sy o ij s
  | .xfer sy o ip => Sys2Proof.Machine.execXfer sy o ip s
  | .rsig sy sem inc ip => Sys2Proof.Machine.execRsig sy sem inc ip s
  | .wordRetire u => Sys2Proof.Machine.execWordRetire u s
  | .copyEngineStart m => Sys2Proof.Machine.execCopyEngineStart m s
  | .nOperationPerform k => Sys2Proof.Machine.execNOperationPerform k s
  | .kappWriteThrough k => Sys2Proof.Machine.execKappWriteThrough k s
  | .bankScanComplete qid bank ecc => Sys2Proof.Machine.execBankScanComplete qid bank ecc s
  | .triplePush qid => Sys2Proof.Machine.execTriplePush qid s
  | .pAccessReceive a => Sys2Proof.Machine.execPAccessReceive a s
  | .peerPageInstall asid va bytes ages => Sys2Proof.Machine.execPeerPageInstall asid va bytes ages s
  | .pinEnd asid va => Sys2Proof.Machine.execPinEnd asid va s
  | .waitTimeout u => Sys2Proof.Machine.execWaitTimeout u s
  | .wfeTimer => Sys2Proof.Machine.execWfeTimer s
  | .trapDelivery u => Sys2Proof.Machine.execTrapDelivery u s
  | .launchRecordRead q => Sys2Proof.Machine.execLaunchRecordRead q s
  | .taskDispatch core region => Sys2Proof.Machine.execTaskDispatch core region s
  | .cLaunchStart launch => Sys2Proof.Machine.execCLaunchStart launch s
  | .checkStartDelay => Sys2Proof.Machine.execCheckStartDelay s
  | .priorityPreemption => Sys2Proof.Machine.execPriorityPreemption s
  | .contextSave => Sys2Proof.Machine.execContextSave s
  | .qtailWrite q v => Sys2Proof.Machine.execQtailWrite q v s
  | .registerWrite off v trusted => Sys2Proof.Machine.execRegisterWrite off v trusted s
  | .sealFrames v trusted => Sys2Proof.Machine.execSealFrames v trusted s
  | .unsealFrames v trusted => Sys2Proof.Machine.execUnsealFrames v trusted s
  | .sealcmdDone => Sys2Proof.Machine.execSealcmdDone s
  | .tlbInvalidate v => Sys2Proof.Machine.execTlbInvalidate v s
  | .tlbInvalidateDone => Sys2Proof.Machine.execTlbInvalidateDone s
  | .swapPair v trusted => Sys2Proof.Machine.execSwapPair v trusted s
  | .swapLineExchange => Sys2Proof.Machine.execSwapLineExchange s
  | .swapPairDone => Sys2Proof.Machine.execSwapPairDone s
  | .pgdone v trusted => Sys2Proof.Machine.execPgdone v trusted s
  | .elogtailWrite v => Sys2Proof.Machine.execElogtailWrite v s
  | .firmwareLoad v trusted => Sys2Proof.Machine.execFirmwareLoad v trusted s
  | .firmwareVerifyDone result => Sys2Proof.Machine.execFirmwareVerifyDone result s
  | .seamcfgWrite v trusted => Sys2Proof.Machine.execSeamcfgWrite v trusted s
  | .localAbortPassEnd => Sys2Proof.Machine.execLocalAbortPassEnd s
  | .seamres v trusted => Sys2Proof.Machine.execSeamres v trusted s
  | .pleatcfgWrite stack v trusted => Sys2Proof.Machine.execPleatcfgWrite stack v trusted s
  | .pleatInitDone stack => Sys2Proof.Machine.execPleatInitDone stack s
  | .pleatScrubPass stack => Sys2Proof.Machine.execPleatScrubPass stack s
  | .opening m => Sys2Proof.Machine.execOpening m s
  | .vote m => Sys2Proof.Machine.execVote m s
  | .decision m => Sys2Proof.Machine.execDecision m s
  | .query m => Sys2Proof.Machine.execQuery m s
  | .seamVoteTimer => Sys2Proof.Machine.execSeamVoteTimer s
  | .decisionTimeout => Sys2Proof.Machine.execDecisionTimeout s
  | .twaitDeadline => Sys2Proof.Machine.execTwaitDeadline s
  | .windowWrapTimer => Sys2Proof.Machine.execWindowWrapTimer s
  | .flitReceive port seqno crcOk m => Sys2Proof.Machine.execFlitReceive port seqno crcOk m s
  | .flitReplay port expected => Sys2Proof.Machine.execFlitReplay port expected s
  | .portRetrain port ok => Sys2Proof.Machine.execPortRetrain port ok s
  | .laneRetired port lane => Sys2Proof.Machine.execLaneRetired port lane s
  | .peerTimeout u => Sys2Proof.Machine.execPeerTimeout u s
  | .peerLost rank => Sys2Proof.Machine.execPeerLost rank s
  | .keyUpdate port sending => Sys2Proof.Machine.execKeyUpdate port sending s
  | .spdmRequest r => Sys2Proof.Machine.execSpdmRequest r s
  | .lockInterface => Sys2Proof.Machine.execLockInterface s
  | .getDeviceInterfaceReport => Sys2Proof.Machine.execGetDeviceInterfaceReport s
  | .getDeviceInterfaceState => Sys2Proof.Machine.execGetDeviceInterfaceState s
  | .startInterface => Sys2Proof.Machine.execStartInterface s
  | .stopInterface => Sys2Proof.Machine.execStopInterface s
  | .sealedTeardownDone => Sys2Proof.Machine.execSealedTeardownDone s
  | .hostMemoryRead addr n trusted => Sys2Proof.Machine.execHostMemoryRead addr n trusted s
  | .hostMemoryWrite addr bytes trusted => Sys2Proof.Machine.execHostMemoryWrite addr bytes trusted s
  | .refresh stack bank row => Sys2Proof.Machine.execRefresh stack bank row s
  | .patrolScrub word ecc => Sys2Proof.Machine.execPatrolScrub word ecc s
  | .selfTest t r => Sys2Proof.Machine.execSelfTest t r s
  | .thermal celsius => Sys2Proof.Machine.execThermal celsius s
  | .power => Sys2Proof.Machine.execPower s
  | .firmware => Sys2Proof.Machine.execFirmware s
  | .reset => Sys2Proof.Machine.execReset s
  | .insnIllegal u w => Sys2Proof.Machine.execInsnIllegal u w s
  | .eviction l1 line => Sys2Proof.Machine.execEviction l1 line s
  | .farTierWriteForward => Sys2Proof.Machine.execFarTierWriteForward s
  | .stackTemperatureChange stack hot => Sys2Proof.Machine.execStackTemperatureChange stack hot s
  | .firmwareReady => Sys2Proof.Machine.execFirmwareReady s
  | .portLinkUp port => Sys2Proof.Machine.execPortLinkUp port s
  | .ideKmRequest stream enable => Sys2Proof.Machine.execIdeKmRequest stream enable s

end Sys2Proof.Machine
end

