-- ==== Sys2Proof/Machine/Residue.lean ====
section
/-! DEFINITION. The residue checks of registers and data paths (R90, R91): which chunks a word consumes and writes, and what a
mismatch does. A mark in `Core.residues` is a chunk whose residue does not match it. -/

namespace Sys2Proof.Machine

/-! ### What a word consumes and writes -/

/-- An operand: an X register, an index register, what an operand code of C names with its group of vector registers, a
predicate, rows of a tile (4 is gp), the entries that an MMA writes, a vector of a result queue or of a stream. -/
inductive RegRef where
  | x (n : BitVec 5)
  | i (n : BitVec 4)
  | v (code : BitVec 7) (k : Nat)
  | p (n : BitVec 4)
  | tile (n lo rows : Nat)
  | mma (md : MmaMode) (o : MmaOp)
  | q (n : BitVec 3)
  | g (n : BitVec 4)
  deriving DecidableEq, Repr

/-- Registers that a word consumes and writes. -/
structure Uses where
  srcs : List RegRef := []
  dsts : List RegRef := []
  deriving DecidableEq, Repr

/-- X registers consumed and written. -/
def xUses (dsts srcs : List (BitVec 5)) : Uses := { srcs := srcs.map .x, dsts := dsts.map .x }

/-- Index registers consumed and written. -/
def iUses (dsts srcs : List (BitVec 4)) : Uses := { srcs := srcs.map .i, dsts := dsts.map .i }

/-- A vector word with two or one source codes and a governing predicate. -/
def vUses (d : BitVec 7) (srcs : List (BitVec 7)) (pg : BitVec 4) : Uses :=
  { srcs := srcs.map (.v · 1) ++ [.p pg], dsts := [.v d 1] }

/-- A compare. -/
def cUses (o : COp) : Uses := { srcs := [.v o.va 1, .v o.vb 1, .p o.pg], dsts := [.p o.pd] }

/-- A conversion: a group on the side with the wider elements. -/
def convUses (d s : Ty) (vd va : BitVec 7) (pg : BitVec 4) (mx : Bool) : Uses :=
  { srcs := [.v va (max 1 (laneBits s / laneBits d)), .p pg]
    dsts := [.v vd (if mx then 2 else max 1 (laneBits d / laneBits s))] }

/-- A word with two sources. -/
def laneUses (o : VOp) : Uses := vUses o.vd [o.va, o.vb] o.pg

/-- A multiply-add word also reads its destination. -/
def fmaUses (o : VOp) : Uses := vUses o.vd [o.va, o.vb, o.vd] o.pg

/-- A word with one source. -/
def oneUses (o : UOp) : Uses := vUses o.vd [o.va] o.pg

/-- A 64-bit vector form. -/
def wideUses (o : WOp) (two : Bool) : Uses := vUses o.vd (if two then [o.va, o.vb] else [o.va]) o.pg

/-- The index registers of the draw of stochastic rounding (R79). -/
def drawUses (mode : RMode) : List RegRef := if mode = .srd then [.i 14, .i 15] else []

/-- A multiplying matrix word: the entries that it accumulates into, its control register and its predicates, and its A rows: a
stream's, those of both streams in mode G, or rows of a tile that it rounds (R189). -/
def mmaUses (c : Core) (md : MmaMode) (o : MmaOp) : Uses :=
  { srcs := [.mma md o, .i o.im, .p o.pr, .p o.pd, .p o.pc] ++
      (if o.ch then .tile (o.sa.toNat / 4) 0 (rowCtl (iget c.c o.im)).m :: drawUses (rmodeOf (fld c.vfctl.toNat 0 3))
       else .g o.sa :: if md = .g then [.g o.sb] else [])
    dsts := [.mma md o] }

/-- A whole tile. -/
def wholeTile (n : Nat) : RegRef := .tile n 0 128

/-- The tile that MSAVE or MREST names; the panel has no residues. -/
def tileOf : MTgt → List RegRef
  | .a0 => [wholeTile 0] | .a1 => [wholeTile 1] | .a2 => [wholeTile 2] | .a3 => [wholeTile 3] | .gp => [wholeTile 4] | .wp => []

/-- The tiles of a mask of MZERO: a0 to a3 and gp. -/
def maskTiles (m : BitVec 5) : List RegRef := ((List.range 5).filter m.getLsbD).map wholeTile

/-- The rows of an MDRAIN. -/
def drainRef (c : Core) (o : DrainOp) : RegRef :=
  let w := (iget c.c o.ir).toNat
  .tile o.as.toNat (fld w 8 8) (fld w 0 8 + 1)

/-- A transfer: its index registers in the descriptor form, and its queue. -/
def moveUses (o : XOp) : Uses :=
  { srcs := (if o.f then [.i o.d] else []) ++
      (if o.src.toNat < 16 then (if o.f then [.i (o.src.setWidth 4)] else [])
       else if o.src.toNat < 24 then [.q (o.src.setWidth 3)] else []) }

/-- A gather or scatter. -/
def gatherUses (o : GOp) : Uses := if o.f then iUses [] [o.d, o.s, o.x] else {}

/-- Further registers that a word consumes. -/
def Uses.also (u : Uses) (l : List RegRef) : Uses := { u with srcs := u.srcs ++ l }

/-- Registers that a word of X consumes and writes. -/
def scalarUses : Instr → Uses
  | .add d a b | .sub d a b | .mul d a b | .mulh d a b | .mulhu d a b | .div d a b | .divu d a b | .rem d a b
  | .remu d a b | .and d a b | .or d a b | .xor d a b | .sll d a b | .srl d a b | .sra d a b | .slt d a b
  | .sltu d a b | .min d a b | .max d a b | .minu d a b | .maxu d a b => xUses [d] [a, b]
  | .addi d a _ | .andi d a _ | .ori d a _ | .xori d a _ | .slti d a _ | .slli d a _ | .srli d a _ | .srai d a _ => xUses [d] [a]
  | .adpc d _ | .lih d _ => xUses [d] []
  | .fadd d a b _ _ | .fsub d a b _ _ | .fmul d a b _ _ | .fdiv d a b _ _ | .fmin d a b _ | .fmax d a b _ | .fcmp d a b _ _ =>
    xUses [d] [a, b]
  | .fsqrt d a _ _ | .fcvt d a _ _ _ | .fclass d a _ => xUses [d] [a]
  | .fma d a b c _ _ | .fms d a b c _ _ | .fnma d a b c _ _ | .fnms d a b c _ _ => xUses [d] [a, b, c]
  | .beq a b _ | .bne a b _ | .blt a b _ | .bge a b _ | .bltu a b _ | .bgeu a b _ => xUses [] [a, b]
  | .jal _ => xUses [1] []
  | .jalr d a _ | .ld d a _ _ _ | .ldz d a _ _ _ => xUses [d] [a]
  | .st xs a _ _ _ | .cinv xs a _ => xUses [] [xs, a]
  | .amo _ d a b _ => xUses [d] [a, b]
  | .cas d a b _ => xUses [d] [d, a, b]
  | .cbind xl a b => xUses [] [xl, a, b]
  | .cunb a b | .ndone a b | .tflag a b | .svote a b => xUses [] [a, b]
  | .cacq a | .crel a | .rwinCancel a | .ssig a _ _ | .sset a _ | .semcfg a _ | .spawn a | .join a | .csrw _ a => xUses [] [a]
  | .ctry d a | .wfe d a _ | .twait d a => xUses [d] [a]
  | .rwin c a b => xUses [] [c, a, b]
  | .redst k a xs _ => xUses [] [k, a, xs]
  | .nmadd a xs _ | .nmmin a xs _ | .nmmax a xs _ => xUses [] [a, xs]
  | .ecmd _ a b => xUses [] [a, b]
  | .srd d _ | .tbegin d | .tstat d | .csrr d _ => xUses [d] []
  | .pgreq d a b => xUses [d] [a, b]
  | _ => {}

/-- Registers that an engine word consumes and writes, C's vector words apart. -/
def engineUses (c : Core) : Instr → Uses
  | .ebr _ _ ia ib _ => iUses [] [ia, ib]
  | .eloop _ i _ | .loop _ i _ | .iadd _ i _ => iUses [i] [i]
  | .iset _ i _ => iUses [i] []
  | .ild _ i ib _ => iUses [i] [ib]
  | .gcfg _ _ ib _ => iUses [] [ib]
  | .gset _ _ _ ia => iUses [] [ia]
  | .lds _ o | .sts _ o | .mcast _ o | .bcopy _ o => moveUses o
  | .nmaddEngine _ o | .nmminEngine _ o | .nmmaxEngine _ o => moveUses o
  | .gath _ o | .scat _ o => gatherUses o
  | .redstEngine _ o ik => (moveUses o).also [.i ik]
  | .kapp _ o ij => (moveUses o).also [.i o.d, .i ij]
  | .xfer _ o ip => (moveUses o).also [.i ip]
  | .rsig _ _ _ ip => iUses [] [ip]
  | .qpost _ qa ik il _ => { srcs := [.v qa 1, .i ik, .i il] }
  | .mwld _ sw sm sp _ => { srcs := .g sw :: if sp then [.g sm] else [] }
  | .mmaF _ o => mmaUses c .f o
  | .mmaB _ o => mmaUses c .b o
  | .mmaG _ o => mmaUses c .g o
  | .mdrain _ o => { srcs := drainRef c o :: .i o.ir :: drawUses (effMode o.rm c.vfctl), dsts := if o.z then [drainRef c o] else [] }
  | .mzero _ m _ => { dsts := maskTiles m }
  | .msave _ t _ => { srcs := tileOf t }
  | .mrest _ t g => { srcs := [.v g 1], dsts := tileOf t }
  | _ => {}

/-- Registers that a vector or predicate word of C consumes and writes. -/
def vectorUses (c : Core) : Instr → Uses
  | .vadd _ o | .vsub _ o | .vmul _ o | .vmin _ o | .vmax _ o | .vsadd _ o | .vssub _ o | .vmulh _ o | .vcpsgn _ o | .vand _ o
  | .vor _ o | .vxor _ o | .vsll _ o | .vsrl _ o | .vsra _ o | .vsel _ o | .vdiv _ o | .vdiva _ o => laneUses o
  | .vfma _ o | .vfms _ o | .vfnma _ o | .vclamp _ o => fmaUses o
  | .vabs _ o | .vneg _ o | .vnot _ o | .vpopc _ o | .vmov _ o | .vredsum _ o | .vredmax _ o | .vredmin _ o | .vscan _ o
  | .vcompact _ o | .vexp _ o | .vexp2 _ o | .vexpm1 _ o | .vlog _ o | .vlog2 _ o | .vlog1p _ o | .vrcp _ o | .vrsqrt _ o
  | .vsqrt _ o | .vsin _ o | .vcos _ o | .vtanh _ o | .verf _ o | .vsigm _ o | .vexpa _ o | .vexp2a _ o | .vexpm1a _ o | .vloga _ o
  | .vlog2a _ o | .vlog1pa _ o | .vrcpa _ o | .vrsqrta _ o | .vsqrta _ o | .vsina _ o | .vcosa _ o | .vtanha _ o | .verfa _ o
  | .vsigma _ o => oneUses o
  | .vbcast _ o ib => { (oneUses o) with srcs := [.v o.va 1, .i ib, .p o.pg] }
  | .vslide _ o => { srcs := [.v o.va 1, .v o.vb 1, .i o.pg], dsts := [.v o.vd 1] }
  | .vperm _ o => { srcs := [.v o.va 1, .v o.vb (max 1 (lanes o.ty / 256)), .p o.pg], dsts := [.v o.vd 1] }
  | .vsort _ o => { srcs := [.v o.va 1, .v o.vb 1, .p o.pg], dsts := [.v o.vd 2] }
  | .vtopk _ o => { srcs := [.v o.va 1, .v o.vb 1, .i o.pg], dsts := [.v o.vd 2] }
  | .vcmpeq _ o | .vcmpne _ o | .vcmplt _ o | .vcmple _ o | .vcmpun _ o => cUses o
  | .pand _ pd pa pb | .por _ pd pa pb | .pxor _ pd pa pb => { srcs := [.p pa, .p pb], dsts := [.p pd] }
  | .pnot _ pd pa => { srcs := [.p pa], dsts := [.p pd] }
  | .pset _ _ pd i => { srcs := [.i i], dsts := [.p pd] }
  | .pcnt _ _ i pa pg | .pfirst _ _ i pa pg => { srcs := [.p pa, .p pg], dsts := [.i i] }
  | .vcvt _ o => (convUses o.d o.s o.vd o.va o.pg false).also (drawUses (effMode o.rm c.vfctl))
  | .vquant _ o => (convUses o.d o.s o.vd o.va o.pg true).also (drawUses (effMode o.rm c.vfctl))
  | .viota _ _ vd ib pg => { srcs := [.i ib, .p pg], dsts := [.v vd 1] }
  | .vrand _ _ vd ik ic pg => { srcs := [.i ik, .i ic, .p pg], dsts := [.v vd 1] }
  | .vroute _ _ vd va ic pd => { srcs := [.v va 1, .i ic], dsts := [.v vd 1, .p pd] }
  | .vchk _ _ pd va i pg => { srcs := [.v va 1, .p pg], dsts := [.p pd, .i i] }
  | .vflg _ pd _ pg => { srcs := [.p pg], dsts := [.p pd] }
  | .vsmrg _ vd va hd => let k := if hd = .d256 then 3 else 2; { srcs := [.v vd k, .v va k], dsts := [.v vd k] }
  | .vaddF64 _ o | .vsubF64 _ o | .vmulF64 _ o | .f64OtherArithmetic _ _ o | .i64Arithmetic _ _ o => wideUses o true
  | .vfmaF64 _ o => vUses o.vd [o.va, o.vb, o.vd] o.pg
  | .vcvtF64 _ op vd va rm pg => (convUses (cvt64Types op).1 (cvt64Types op).2 vd va pg false).also (drawUses (effMode rm c.vfctl))
  | .f64Elementary _ fn o => wideUses o (decide (fn = .div))
  | .fusedSoftmaxGroup o => { srcs := [.v o.vx 1, .p o.pg], dsts := [.v o.vm 1, .v o.vy 1, .v o.ve 1, .v o.vs 1] }
  | _ => {}

/-- Registers that a word consumes and writes. -/
def usesOf (c : Core) (i : Instr) : Uses :=
  if i.isScalar then scalarUses i
  else
    let e := engineUses c i
    let v := vectorUses c i
    { srcs := e.srcs ++ v.srcs, dsts := e.dsts ++ v.dsts }

/-- A word that moves data without any register: a transfer in its register form, and MSAVE and MREST of the panel. -/
def movesData : Instr → Bool
  | .lds _ _ | .sts _ _ | .mcast _ _ | .bcopy _ _ | .gath _ _ | .scat _ _ | .nmaddEngine _ _ | .nmminEngine _ _ | .nmmaxEngine _ _
  | .msave _ _ _ | .mrest _ _ _ => true
  | _ => false

/-- A marked place is in an operand of a unit: x0 and p0 are no storage, and a constant has no residue. -/
def inRef (c : Core) (u : UnitId) (m : ResPlace) : RegRef → Bool
  | .x n => match m with
    | .x k => u = .x && n.toNat == k && k != 0
    | _ => false
  | .i n => match m, u with
    | .idx w k, .seq q => w = q && n.toNat == k
    | _, _ => false
  | .v code k => decide (u = .seq .c) && match m, opdOf code with
    | .v r _, .v n => (List.range k).any fun j => vphys c (n + j) == r
    | .stream r _, .g n => n.toNat == r
    | .queue r _, .q n => n.toNat == r
    | .idx .c r, .bc n => n.toNat == r
    | _, _ => false
  | .p n => match m with
    | .p r _ => decide (u = .seq .c) && n != 0 && pphys c n.toNat == r
    | _ => false
  | .tile n lo rows => match m with
    | .tile k e => decide (u = .seq .c) && n == k && decide (lo ≤ e / 128) && decide (e / 128 < lo + rows)
    | _ => false
  | .mma md o => match m with
    | .tile k e => decide (u = .seq .c) && k == (if md = .g then 4 else o.ad.toNat)
        && mmaWrites c md o (rowCtl (iget c.c o.im)) (e / 128) (e % 128)
    | _ => false
  | .q n => match m with
    | .queue k _ => n.toNat == k
    | _ => false
  | .g n => match m with
    | .stream k _ => decide (u = .seq .c) && n.toNat == k
    | _ => false

/-- A unit that runs a word meets a marked place: it consumes it, or the mark is a fault of its own data path, which every word
with a result or an operand goes through. -/
def meets (c : Core) (u : UnitId) (i : Instr) (m : ResPlace) : Bool :=
  match m with
  | .path w _ => decide (w = u) && (movesData i || !((usesOf c i).srcs.isEmpty && (usesOf c i).dsts.isEmpty))
  | _ => (usesOf c i).srcs.any (inRef c u m)

/-! ### The check -/

/-- Marks that a completed word's results replace: those of its destinations, as it found them. -/
def cleanMarks (c0 c : Core) (u : UnitId) (i : Instr) : Core :=
  { c with residues := c.residues.filter fun m => !(usesOf c0 i).dsts.any (inRef c0 u m.place) }

/-- The word has issued or taken effect between two states: X goes on elsewhere without a trap, or a sequencer has a word in
flight. -/
def tookEffect (u : UnitId) (s t : State) : Bool :=
  match u with
  | .x => decide (t.core.xwait = .none) && (t.core.delivered == s.core.delivered)
  | .seq q => (seqOf s q).flight.isNone && (seqOf t q).flight.isSome

/-- ARITH.RESIDUE in a unit, precisely at its word, which writes no destination (R91): an engine word has issued, and keeps its
issue actions; one that goes on from an element stops there. -/
def raiseResidue (s : State) (u : UnitId) (i : Instr) (chunk : Nat) : State :=
  let c : CauseRec := { cause := .residue, info := BitVec.ofNat 64 chunk, issued := true }
  match u with
  | .x => trapX s c
  | .seq q =>
    let s := match wordSync i with
      | some y => if ((seqOf s q).resume.map (·.issued)).getD false then s else issueTake s q y
      | none => s
    let r := (seqOf s q).resume.map fun r => { r with issued := true }
    stopWord (setSeq s q { seqOf s q with resume := r }) q i c

/-- The outcome of a word under its residue checks. A mismatch that the second execution meets again stops a word that would
take effect; one that raises another cause, or waits, does that. -/
def residueStep (i : Instr) (s : State) (run : State → Out) : Out :=
  let (s1, bad) := retried s s.unit (meets s.core s.unit i)
  match run s1 with
  | .next t =>
    if !tookEffect s.unit s1 t then .next t
    else match bad with
      | some m => .next (raiseResidue s1 s.unit i (chunkOf m.place))
      | none => .next { t with core := cleanMarks s1.core t.core s.unit i }
  | o => o

/-- A fetched word runs on the unit in focus: where no residue of the core fails, the checks change nothing. -/
def runWord (i : Instr) (s : State) (run : State → Out) : Out :=
  if s.core.residues.isEmpty then run s else residueStep i s run

end Sys2Proof.Machine
end

