-- ==== Sys2Proof/Machine/Turn.lean ====
section
/-! DEFINITION. Which unit or event moves next, and what it does: the fetch of a word (R56, R314), the delivery of a pending
cause (R364), freezing and draining (R365), the fused group (R178), the device's own ready steps, and the placement of a
word where the next step fetches it. -/

namespace Sys2Proof.Machine

/-! ### Time -/

/-- A step takes a cycle and as many more as the machine likes (R65). -/
def tick (s : State) : State :=
  { s with cycle := s.cycle + 1 + BitVec.ofNat 64 (Config.freeCycles s.free), free := s.free + 1 }

/-! ### Fetch (R56) -/

/-- The bytes of a word in a line of the instruction store. -/
def codeBytes (w : BitVec 512) (off n : Nat) : List Byte :=
  (List.range n).map fun i => BitVec.ofNat 8 (w.toNat >>> (8 * (off + i)))

/-- A line with the bytes of a word replaced. -/
def codePatch (w : BitVec 512) (off n : Nat) (bs : List Byte) : BitVec 512 :=
  BitVec.ofNat 512 (ofBytesLE (codeBytes w 0 off ++ bs ++ codeBytes w (off + n) (64 - off - n)))

/-- X's instruction store drops a line. -/
def codeDrop (c : Core) (line : Nat) : Core :=
  { c with code := sdel c.code line, resident := c.resident.filter (· != line), badCode := c.badCode.filter (· != line) }

/-- X's instruction store takes a line. A handler's lines go to the resident region and others to the rest; where that is full,
another line there is dropped (R12; which lines the region takes is DEDUCED, log entry 79). -/
def codeFill (c : Core) (line : Nat) (w : BitVec 512) : Core :=
  let side := (c.code.map (·.1)).filter fun l => c.resident.contains l == c.handler
  let room := if c.handler then Config.residentLines else Config.codeLines - Config.residentLines
  let c := if side.length < room then c else match side[Config.victim side.length % side.length]? with
    | some l => codeDrop c l
    | none => c
  { c with code := sput w c.code line, resident := if c.handler then addOnce c.resident line else c.resident }

/-- The old word or the new one, whole, where a code page has been written since the task fetched it (R56). A fetch that meets
no error takes what it likes; the old word also hides a new error. -/
def oldOrNew (s : State) (old : List Byte) (read : Res (State × List Byte)) (keep : State → List Byte → State) : Res (State × List Byte) :=
  match read with
  | .ok (t, now) =>
    if now == old then .ok (s, old)
    else if Config.takesNew (s.free + 1) then .ok ({ keep t now with free := s.free + 1 }, now)
    else .ok ({ s with free := s.free + 1 }, old)
  | .error c =>
    if c.await.isSome || Config.takesNew (s.free + 1) then .error c else .ok ({ s with free := s.free + 1 }, old)

/-- An instruction that X fetches at a translated place. Its instruction store may still hold the word that stood there when the
task fetched the line (R12, R56); a line that cannot be read whole is not taken (R376). -/
def fetchAt (s : State) (a : Acc) (x : Xlat) (va : Nat) : Res (State × List Byte) :=
  let line := x.pa / 64
  let off := x.pa % 64
  match slook s.core.code line with
  | none => match placeRead s a .l2 { x with pa := 64 * line } (va / 64 * 64) 64 with
    | .ok (t, bs) => .ok (t.onCore (codeFill · line (BitVec.ofNat 512 (ofBytesLE bs))), (bs.drop off).take 4)
    | .error _ => placeRead s a .l2 x va 4
  | some w =>
    if s.core.badCode.contains line then raiseAt .sramUe va
    else oldOrNew s (codeBytes w off 4) (placeRead s a .l2 x va 4) fun t now =>
      t.onCore fun c => { c with code := sput (codePatch w off 4 now) c.code line }

/-- An engine word at a translated place. A sequencer may still fetch the word that the task's sequencers fetched there before
(R56). -/
def fetchOld (s : State) (a : Acc) (x : Xlat) (va : Nat) : Res (State × List Byte) :=
  let keep (t : State) (bs : List Byte) : State :=
    t.onCore fun c => { c with fetched := sput (BitVec.ofNat 64 (ofBytesLE bs)) c.fetched (x.pa / 8) }
  let read := placeRead s a .l2 x va 8
  match slook s.core.fetched (x.pa / 8) with
  | none => read.map fun r => (keep r.1 r.2, r.2)
  | some w => oldOrNew s (toBytesLE 8 w.toNat) read keep

/-- The bytes of X's instruction. Pages that no cache holds are read each time: PLEAT and PEER pages and those of a swap pair. -/
def fetchX (s : State) : Res (State × List Byte) :=
  let va := s.core.pc.toNat
  if s.core.pc &&& 3 ≠ 0 then raise .alignPc
  else do
    let x ← translate s.dev (accOf s) .exec va
    if x.remote.isSome || x.unc || x.attr == 1 then vreadPage s (accOf s) .exec .l2 va 4
    else fetchAt (s.mark x false) (accOf s) x va

/-- The bytes of a sequencer's word. -/
def fetchSeq (s : State) (u : SeqId) : Res (State × List Byte) :=
  let va := (seqOf s u).pc.toNat
  if (seqOf s u).pc &&& 7 ≠ 0 then raise .alignPc
  else do
    let x ← translate s.dev (accOf s) .exec va
    if x.remote.isSome then vreadPage s (accOf s) .exec .l2 va 8
    else fetchOld (s.mark x false) (accOf s) x va

/-- A word from its bytes. -/
def wordOf (bs : List Byte) : Word := BitVec.ofNat 64 (ofBytesLE bs)

/-! ### Freeze and drain (R365) -/

/-- The sequencer waits for a condition of R24. -/
def waitsAtIssue : SWait → Bool
  | .sem _ _ | .pop _ _ | .push _ _ => true
  | _ => false

/-- A draining sequencer that is idle, or whose next word cannot issue under R24, acts as frozen from then on. -/
def noteDrain (u : SeqId) (s : State) : State :=
  let q := seqOf s u
  if q.running && !waitsAtIssue q.wait then s else setSeq s u { q with drained := true }

/-! ### The units -/

/-- A fused group of four words (R178), with the synchronisation fields that it uses. -/
def fuse (two : Bool) (y1 y2 y3 y4 : Sync) (o1 : UOp) (o2 : VOp) (o3 o4 : UOp) : Option FusedOp :=
  let free (y : Sync) : Bool := y.wthr == 0 && y.tki == 0
  let quiet (y : Sync) : Bool := y.sinc == 0 && y.tko == 0
  if decide (o1.ty = o2.ty) && decide (o2.ty = o3.ty) && decide (o3.ty = o4.ty) && o1.pg == o2.pg && o2.pg == o3.pg && o3.pg == o4.pg
      && o2.va == o1.va && o2.vb == o1.vd && o3.va == o2.vd && o4.va == o3.vd && free y2 && free y3 && free y4
      && quiet y1 && quiet y2 && quiet y3 then
    some { ty := o1.ty, pg := o1.pg, vx := o1.va, vm := o1.vd, vy := o2.vd, ve := o3.vd, vs := o4.vd, two,
           wthr := y1.wthr, wsem := y1.wsem, tki := y1.tki, sinc := y4.sinc, ssem := y4.ssem, tko := y4.tko }
  else none

/-- The group that four words make. -/
def fusedOf (i1 i2 i3 i4 : Instr) : Option FusedOp :=
  match i1, i2, i3, i4 with
  | .vredmax y1 o1, .vsub y2 o2, .vexp y3 o3, .vredsum y4 o4 => fuse false y1 y2 y3 y4 o1 o2 o3 o4
  | .vredmax y1 o1, .vsub y2 o2, .vexp2 y3 o3, .vredsum y4 o4 => fuse true y1 y2 y3 y4 o1 o2 o3 o4
  | _, _, _, _ => none

/-- The word at a distance beyond C's PC; none when it cannot be fetched or decoded, and a cause to wait for when it is not here
yet. -/
def peekC (s : State) (k : Nat) : Res (Option Instr) :=
  match vreadPage s (accOf s) .exec .l2 ((s.core.c.pc.toNat + 8 * k) % 2 ^ 64) 8 with
  | .ok (_, bs) => match decodeEngineBytes bs with
    | .ok (i, _) => .ok (some i)
    | .error _ => .ok none
  | .error c => if c.await.isSome then .error c else .ok none

/-- Word 2, and word 3, of a group. -/
def isSub : Instr → Bool
  | .vsub _ _ => true
  | _ => false
/-- See `isSub`. -/
def isExp : Instr → Bool
  | .vexp _ _ | .vexp2 _ _ => true
  | _ => false

/-- The fused group that C's next word begins, if any. -/
def fusedAt (s : State) (i : Instr) : Res (Option FusedOp) :=
  match i with
  | .vredmax _ _ => do
    match (← peekC s 1).filter isSub with
    | none => pure none
    | some i2 => match (← peekC s 2).filter isExp with
      | none => pure none
      | some i3 => match ← peekC s 3 with
        | none => pure none
        | some i4 => pure ((fusedOf i i2 i3 i4).filter (fusedOk · s))
  | _ => .ok none

/-- A sequencer cannot fetch its word: it stops on the cause, or waits for the access. -/
def noFetch (s : State) (u : SeqId) (c : CauseRec) : State :=
  match c.await with
  | some w => waitSeq (awaitAsk s (.seq u) w) u .uncounted
  | none => stopWord s u (.enop { wthr := 0, wsem := 0, sinc := 0, ssem := 0, tki := 0, tko := 0 }) c

/-- The instruction that a sequencer issues at a word: C's fused group where it begins one. -/
def groupAt (s : State) (u : SeqId) (i : Instr) : Res Instr :=
  if u = .c then (fusedAt s i).map fun o => (o.map Instr.fusedSoftmaxGroup).getD i else .ok i

/-- The next word of a sequencer. -/
def engineWord (s : State) (u : SeqId) : Out :=
  match fetchSeq s u with
  | .error c => .next (noFetch s u c)
  | .ok (s1, bs) =>
    match decodeEngineBytes bs with
    | .error _ => execInsnIllegal (.seq u) (wordOf bs) s1
    | .ok (i, _) => match groupAt s1 u i with
      | .ok k => runWord k s1 (exec k)
      | .error c => .next (noFetch s u c)

/-- The turn of a word that waits or goes on at an element. It has the own state of its sequencer as it stood before the words
that issued past it, which keep theirs while it does not stop (R363). -/
def headTurn (s : State) (u : SeqId) : Out :=
  let q := seqOf s u
  match q.undo with
  | none => engineWord s u
  | some x =>
    match engineWord (putOwn s u x) u with
    | .next t =>
      let r := seqOf t u
      if r.cause.isNone && (r.flight.isSome || stalledWord r) then
        let v := putOwn t u (ownState s u)
        .next (setSeq v u { seqOf v u with early := q.early, undo := some (ownState t u) })
      else .next t
    | o => o

/-- A word in flight completes or retires; a fence that a freeze meets is issued again after it (R219). -/
def flightTurn (s : State) (u : SeqId) (f : Flight) : Out :=
  if frozenFence s u f then .next (setSeq s u (reissue (seqOf s u)))
  else if f.done then (if mayRetire s u f then execWordRetire u s else .next s)
  else match f.kind with
    | .matrix => execMatrixWordComplete s
    | .hem => execHemPhaseEnd s
    | _ => .next s

/-- The outcome with a draining sequencer noted. -/
def afterDrain (u : SeqId) (o : Out) : Out :=
  match o with
  | .next t => .next (noteDrain u t)
  | r => r

/-- The turn of an engine sequencer of the core in focus, or of a copy engine that runs a program of its task. -/
def engineTurn (s : State) (u : SeqId) : Out :=
  let q := seqOf s u
  if noUnit u then .fault .noSuchUnit
  else if !ownSeq s u then .next s
  else match q.flight with
    | some f => flightTurn s u f
    | none =>
      if q.cause.isSome then .next s
      else if stalledWord q then headTurn s u
      else if q.flushed || (!isCopy u && s.core.saving.isSome) then .next s
      else match holdOf s u with
        | .freeze => .next s
        | .drain => if q.drained then .next s
            else if q.running then afterDrain u (engineWord s u) else .next (noteDrain u s)
        | .run => if q.running then engineWord s u else .next s

/-- The unit whose pending cause X takes next. -/
def pendingUnit (s : State) : Option SeqId :=
  if !takesCause s.core then none
  else ([SeqId.l, .c, .s] ++ (enginesOf s.dev s.core.gcore).map SeqId.e).find? fun u => (pendingCause (seqOf s u)).isSome

/-- The next instruction of X. -/
def scalarWord (s : State) : Out :=
  match fetchX s with
  | .error c => stopX s c
  | .ok (s1, bs) =>
    match decodeScalarBytes bs with
    | .error _ => execInsnIllegal .x (wordOf bs) s1
    | .ok (i, _) => runWord i s1 (exec i)

/-- The turn of X of the core in focus. A save lets an instruction complete that it does not abandon (R371). -/
def xTurn (s : State) : Out :=
  match s.core.task with
  | none => .next s
  | some t =>
    if t.hold then execCheckStartDelay s
    else if s.core.saving.isSome then
      (if !xAbandons s.core.xwait then scalarWord s else if saveReady s then execContextSave s else .next s)
    else match pendingUnit s with
      | some u => execTrapDelivery u s
      | none => scalarWord s

/-! ### Words that issue past an incomplete one (R363) -/

/-- The word waits at nothing and is of a kind that may be confined. -/
def mayConfine (u : SeqId) (i : Instr) : Bool :=
  let free := match wordSync i with
    | some y => y.wthr == 0 && y.tki == 0 && y.tko == 0
    | none => false
  free && match i with
    | .enop _ | .ejmp _ _ | .ebr .. | .eloop .. | .loop .. | .iset .. | .iadd .. | .ild .. => true
    | .estop _ | .gcfg .. | .gset .. | .qpost .. | .mdrain .. | .msave .. => false
    | _ => u = .c

/-- The word in flight has yet to complete, and words may issue past it: its unit is C's matrix or elementary pipeline, or a
peer. -/
def mayPass (f : Flight) : Bool :=
  !f.done && match f.kind with
    | .matrix | .peer | .hem => true
    | _ => false

/-- The words of a sequencer that have issued, oldest first. -/
def issued (q : Seq) : List Flight := q.flight.toList ++ q.early

/-- What the words that issued have yet to push: a later word does not read streams before them. -/
def owesPush (q : Seq) : Bool := (issued q).any fun f => (f.late.bind (·.push)).isSome

/-- The last word that issued has been passed before: its undo point stands. -/
def passedOver (q : Seq) : Bool :=
  match q.early.getLast? with
  | some n => n.back.isSome
  | none => q.undo.isSome

/-- An undo point for the words that issue past the last one. -/
def setBack (q : Seq) (x : Undo) : Seq :=
  match q.early.getLast? with
  | some n => { q with early := q.early.dropLast ++ [{ n with back := some x }] }
  | none => { q with undo := some x }

/-- A sequencer as the next word finds it that issues past the last one: what stands there is the undo point of the words from
here on, and C's results of that word are seen (R120, R363). -/
def passLast (s : State) (u : SeqId) : State :=
  let q := seqOf s u
  if passedOver q then s
  else
    let s1 := setSeq s u (setBack q (ownState s u))
    match (if u = .c then ((issued q).getLast?).bind (·.late) else none) with
    | some l => if l.cause.isSome then s1 else { s1 with core := { putRegs s1.core l.regs with lflags := l.lflags } }
    | none => s1

/-- A word that has issued leaves nothing changed outside its sequencer, but for what it has read. -/
def staysIn (u : SeqId) (push : Bool) (s t : State) : Option Flight :=
  let q := seqOf t u
  match q.flight with
  | some n =>
    if (decide (n.kind = .plain) && n.done || decide (n.kind = .matrix) || decide (n.kind = .hem)) && (n.late.bind (·.push)).isNone
        && q.cause.isNone && q.resume.isNone && (t.core.q == s.core.q) && (t.dev.win == s.dev.win) && (t.dev.tags == s.dev.tags)
        && (!push || t.core.g == s.core.g) then some n else none
  | none => none

/-- Words may issue past the incomplete word of a sequencer: one in flight, or a transfer of L, S or a copy engine that is
part-way. -/
def mayIssue (u : SeqId) (q : Seq) : Bool :=
  match q.flight with
  | some f => mayPass f
  | none => stalledWord q && decide (u ≠ .c)

/-- A confined word may issue past the incomplete one: past a transfer that writes memory none reads memory. -/
def confined (u : SeqId) (q : Seq) (i : Instr) : Bool :=
  mayConfine u i && match i with
    | .ild .. => q.flight.isSome || decide (u = .l)
    | _ => true

/-- A confined word issues before an earlier one has completed, and keeps its results until it retires (R24, R363). -/
def earlyTurn (s : State) (u : SeqId) : Out :=
  let q := seqOf s u
  let no : Out := .refused (.cannotOccur "early issue")
  if noUnit u || !released s.dev || !ownSeq s u || q.cause.isSome || q.flushed || !q.running || s.core.task.isNone || issuesNot s u
      || !mayIssue u q then no
  else
    let s0 := passLast s u
    let p := seqOf s0 u
    let pc := if q.flight.isNone && q.undo.isNone then q.pc + 8 else q.pc
    let s1 := setSeq s0 u { p with flight := none, resume := none, wait := .none, pc }
    match fetchSeq s1 u with
    | .error _ => no
    | .ok (s2, bs) => match decodeEngineBytes bs with
      | .error _ => no
      | .ok (j, _) => match groupAt s2 u j with
        | .error _ => no
        | .ok i =>
          if !confined u q i then no
          else match runWord i s2 (exec i) with
            | .next t => match staysIn u (owesPush q) s2 t with
              | some n =>
                .next (setSeq t u { seqOf t u with flight := q.flight, resume := q.resume, wait := q.wait, early := p.early ++ [n] })
              | none => no
            | _ => no

/-- The turn of a unit of the core in focus. A copy engine acts for the core whose program it runs. -/
def unitTurn (s : State) (u : UnitId) : Out :=
  if !released s.dev then .next s
  else match u with
    | .x => xTurn { s with unit := .x }
    | .seq (.e m) =>
      if h : m < 48 then
        match (s.dev.ce[m]'h).prog with
        | some g => if g < Config.cores then engineTurn { focus s g with unit := .seq (.e m) } (.e m) else .next s
        | none => .next s
      else .fault .noSuchUnit
    | .seq q => engineTurn { s with unit := .seq q } q

/-! ### The device's own steps -/

/-- A step that the device can take of its own: the next push or scan of a query, and so on. -/
inductive Ready where
  | nop (k : Nat) | kapp (k : Nat) | push (qid : Nat) | scan (qid bank : Nat) | copy (m : Nat) | launchRecord (q : Nat) | cLaunch (id : Nat)
  | dispatch (core region : Nat) | preempt | seals | tlb | abortPass | teardown | pleatInit (stack : Nat) | swapLine | swapDone
  | farForward
  deriving DecidableEq, Repr

/-- Takes a step of the device. -/
def runReady (s : State) : Ready → Out
  | .nop k => execNOperationPerform k s
  | .kapp k => execKappWriteThrough k s
  | .push q => execTriplePush q s
  | .scan q b => execBankScanComplete q b .ok s
  | .copy m => execCopyEngineStart m s
  | .launchRecord q => execLaunchRecordRead q s
  | .cLaunch id => execCLaunchStart id s
  | .dispatch g r => execTaskDispatch g r s
  | .preempt => execPriorityPreemption s
  | .seals => execSealcmdDone s
  | .tlb => execTlbInvalidateDone s
  | .abortPass => execLocalAbortPassEnd s
  | .teardown => execSealedTeardownDone s
  | .pleatInit k => execPleatInitDone k s
  | .swapLine => execSwapLineExchange s
  | .swapDone => execSwapPairDone s
  | .farForward => execFarTierWriteForward s

/-- The next step of the accepted queries: a push, or the scan of a bank. -/
def scanEvent (s : State) : Option Ready :=
  s.dev.qposts.findSome? fun q =>
    let c := qget (coreAt s q.core) (BitVec.ofNat 3 q.q)
    let first := !s.dev.qposts.any fun p => p.id < q.id && p.core == q.core && p.q == q.q
    if q.core < Config.cores && first && (slook q.ready q.next).isSome && c.vecs.length + c.held + c.rsvd ≤ Config.queueVectors then
      some (.push q.id)
    else
      ((List.range q.banks).find? fun b =>
        q.next ≤ b && (slook q.ready b).isNone && !scanBefore s.dev q b && !bankHeld q b).map fun b => .scan q.id b

/-- The start of a post at an idle copy engine, whose record does not keep it waiting. -/
def copyEvent (s : State) : Option Ready :=
  ((List.range 48).find? fun m => if h : m < 48 then
    let e := s.dev.ce[m]'h
    e.prog.isNone && match e.posts with
      | p :: _ => !recordBusy (focus s p.core) m p
      | [] => false
    else false).map Ready.copy

/-- The dispatch of ready work, or a pre-emption for it. -/
def dispatchEvent (s : State) : Option Ready :=
  if s.dev.ready.isEmpty then none
  else match s.dev.launches.find? fun l => (cStart s l.id).isSome with
    | some l => some (.cLaunch l.id)
    | none =>
      match (List.range Config.cores).find? fun g => s.dev.ready.any (eligibleOn s g) with
      | some g => (s.dev.ready.find? fun w => (dispatchable s g w.region).isSome).map fun w => .dispatch g w.region
      | none => match execPriorityPreemption s with
        | .next _ => some .preempt
        | _ => none

/-- Commands of the host and passes that end. -/
def endEvent (s : State) : Option Ready :=
  let d := s.dev
  if d.sealcmd.getLsbD 63 then some .seals
  else if d.tlbinvc.getLsbD 63 && !usesDropped s then some .tlb
  else if d.pleats.toList.any (·.passDue) then some .abortPass
  else if d.teardown then some .teardown
  else match (List.range 16).find? fun k => (pleatAt d k).busy, d.swap with
    | some k, _ => some (.pleatInit k)
    | none, some w => some (if w.done < 64 then .swapLine else .swapDone)
    | none, none => if d.farPort.isEmpty then none else some .farForward

/-- The step that the device takes of its own when nothing else names one. -/
def readyEvent (s : State) : Option Ready :=
  let d := s.dev
  if !released d then endEvent s
  else match d.nops.findIdx? fun n => !regionBusy d n.pa, d.appends.findIdx? fun a => !appendOpen s a with
    | some k, _ => some (.nop k)
    | none, some k => some (.kapp k)
    | none, none => (scanEvent s).or ((copyEvent s).or (((nextQueue d).map Ready.launchRecord).or ((dispatchEvent s).or (endEvent s))))

/-! ### Turns -/

/-- An instruction word, which a unit fetches; every other step comes from the device or its surroundings. -/
def isWord (i : Instr) : Bool :=
  i.isScalar || i.sync?.isSome || match i with
    | .fusedSoftmaxGroup _ => true
    | _ => false

/-- An outcome after which transfers move what they like again. -/
def wholeAgain : Out → Out
  | .next t => .next { t with part := none }
  | o => o

/-- What a turn does. -/
def runTurn (s : State) : Turn → Out
  | .unit g u => if g < Config.cores then unitTurn (focus s g) u else .refused (.cannotOccur "unit turn")
  | .part g u n => if g < Config.cores then wholeAgain (unitTurn { focus s g with part := some n } u) else .refused (.cannotOccur "unit turn")
  | .early g u => if g < Config.cores then earlyTurn { focus s g with unit := .seq u } u else .refused (.cannotOccur "early issue")
  | .upset f => match strike s f with
    | some t => .next t
    | none => .refused (.cannotOccur "upset")
  | .route rank port => .next (s.onDev fun d => { d with routes := sput port d.routes rank })
  | .event i => if isWord i then .refused (.cannotOccur "event") else exec i s

/-- The next core in the round, among those with a task. -/
def nextCore (s : State) : Nat :=
  let gs := (s.others.filter fun e => e.2.task.isSome).map (·.1)
  match gs.find? fun g => s.core.gcore < g, gs with
  | some g, _ => g
  | none, g :: _ => g
  | none, [] => s.core.gcore

/-- The place after one in the round: X, L, C, S, the copy engines, then the device, whose place is `.e 48`. -/
def nextUnit : UnitId → UnitId
  | .x => .seq .l
  | .seq .l => .seq .c
  | .seq .c => .seq .s
  | .seq .s => .seq (.e 0)
  | .seq (.e m) => if m < 48 then .seq (.e (m + 1)) else .x

/-- A step of the device that cannot be taken yet leaves the round as it is. -/
def orStay (t : State) : Out → Out
  | .refused _ => .next t
  | o => o

/-- The turn that the round gives when nothing names one: X of the next core begins its part of the round. -/
def roundTurn (s : State) : Out :=
  let u := nextUnit s.unit
  let t := { s with unit := u }
  match u with
  | .x => runTurn t (.unit (nextCore s) .x)
  | .seq (.e m) =>
    if m < 48 then runTurn t (.unit s.core.gcore u)
    else match readyEvent t with
      | some r => orStay t (runReady t r)
      | none => .next t
  | _ => runTurn t (.unit s.core.gcore u)

/-- One step: time passes, and the next turn runs; where nothing is ready, nothing else changes. -/
def stepTurn (s : State) : Out :=
  let t := tick s
  match t.sched with
  | x :: r => runTurn { t with sched := r } x
  | [] => roundTurn t

/-! ### Placing a word -/

/-- Virtual address at which a placed word stands. -/
def placeVa : Nat := 0x400000

/-- Base of the five tables of the placed task and, after them, its code page. -/
def placePa : Nat := 0x4000000

/-- The bytes that the tables and the code page need: the ASID-table entry of ASID 1, a pointer in each of four tables, the
leaf, and the word. The bitmap byte of these frames is zero. -/
def placeBytes (bs : List Byte) : List (Nat × List Byte) :=
  [(32, toBytesLE 32 (placePa + 1)), (placePa, toBytesLE 8 (placePa + 0x1001)), (placePa + 0x1000, toBytesLE 8 (placePa + 0x2001)),
   (placePa + 0x2000, toBytesLE 8 (placePa + 0x3001)), (placePa + 0x3010, toBytesLE 8 (placePa + 0x4001)),
   (placePa + 0x4000, toBytesLE 8 (placePa + 0x507F)), (placePa / 2 ^ 15, [0]), (placePa + 0x5000, bs)]

/-- The device with a word in home memory, running firmware, and a table under which ASID 1 maps it. -/
def placeDev (d : Dev) (bs : List Byte) : Dev :=
  let d := (placeBytes bs).foldl (fun d p => homeWrite d p.1 p.2) d
  { d with
    asidbase := 0, sealbase := 0, fwstat := 2, powerLost := false, iface := .unlocked, swap := none
    xts := d.xts.filter (·.1 != 1), xtsDue := [], asidTab := sset 0 d.asidTab 1 (placePa + 1), tlb := [], reqs := [], moves := []
    badWords := d.badWords.filter fun w => w * 32 ≥ placePa + 0x6000
    badL2 := d.badL2.filter fun w => w * 8 ≥ placePa + 0x6000
    pleats := d.pleats.set 0 Pleat.init }

/-- The launch and task that a placed word belongs to. -/
def placeEff : Eff :=
  { rcb := 0, cores := 288, nodes := 0, qslots := 0, rqbase := 0, spbase := 0, spsize := 0, ctxbase := 0, ctxslots := 1, prio := 0,
    maxclass := 2, det := 0, fdom := 0, asid := 1, tvec := 0, wdog := 0 }

/-- See `placeEff`. -/
def placeTask (id : Nat) : Task :=
  { launch := id, tnum := 0, node := false, cls := 0, region := 0, prio := 0, join := 0, spbase := 0, spsize := 0, ctxBase := 0,
    slot := 0, run := 0, hold := false, ordX := 0, ordS := 0, posted := 0, ceWrites := [], pagePending := false, pgSem := 0 }

/-- See `placeEff`. -/
def placeLaunch (id : Nat) : Launch :=
  { id, recVa := 0, recAsid := 1, region := 0, queue := 0, entry := BitVec.ofNat 64 placeVa, frame := 0, fstr := 0, cls := 0,
    check := false, total := 1, path := [placeEff], nodes := false, graph := none, aid := none, live := 1, started := true, run := 0,
    dkey := 0, d1 := 0, d2 := 0, status := 1 }

/-- A sequencer ready to fetch at the placed word. -/
def placeSeq (on : Bool) (q : Seq) : Seq :=
  { q with cause := none, delivered := false, flight := none, resume := none, wait := .none, drained := false, flushed := false
           early := [], undo := none, running := on || q.running, pc := if on then BitVec.ofNat 64 placeVa else q.pc }

/-- The sequencer that runs an engine word by its OP (R36): C where the word is C's, else S where it is only S's, else L. -/
def placeUnit (w : Nat) : UnitId :=
  let op := w / 2 ^ 56 % 256
  if op == 0x05 || op == 0x0B || (0x60 ≤ op && op < 0xE1) then .seq .c
  else if [0x23, 0x25, 0x27, 0x28, 0x29, 0x2A, 0x2C, 0x2D, 0xE1, 0xE2, 0xE3].contains op then .seq .s
  else .seq .l

/-- The unit before one in the round. -/
def prevUnit : UnitId → UnitId
  | .seq .l => .x
  | .seq .c => .seq .l
  | .seq .s => .seq .c
  | _ => .seq (.e 48)

/-- The state with the word of nbits bits placed where the next step fetches it: the running core has a task of ASID 1, and
it is the turn of the word's unit. -/
def placeWord (s : State) (nbits w : Nat) : State :=
  let scalar := decide (nbits ≤ 32)
  let u := if scalar then .x else placeUnit w
  let id := s.dev.nextLaunch
  let c := s.core
  { s with
    core := { c with
      pc := if scalar then BitVec.ofNat 64 placeVa else c.pc
      code := [], resident := [], fetched := [], badCode := [], residues := [], xwait := .none, handler := false, delivered := none, asid := 1, sealBit := false, task := some (placeTask id), saving := none
      l := placeSeq (decide (u = .seq .l)) c.l, c := placeSeq (decide (u = .seq .c)) c.c, s := placeSeq (decide (u = .seq .s)) c.s }
    others := []
    dev := { placeDev s.dev (if scalar then toBytesLE 4 w else toBytesLE 8 w) with
      ce := vmap (fun e => { e with prog := none }) s.dev.ce
      launches := s.dev.launches ++ [placeLaunch id], nextLaunch := id + 1 }
    unit := prevUnit u, sched := [], part := none }

end Sys2Proof.Machine
end

