-- ==== Sys2Proof/Machine/Step.lean ====
section
/-! DEFINITION. One step of the machine, and a state whose next step runs a given word. -/

namespace Sys2Proof.Machine

/-- One step of the T9. -/
def step (s : State) : Host.Outcome State Fault Refusal := stepTurn s

/-- The state with an instruction word stored where `step` fetches its next instruction. It stands for the load of the
firmware, the launch and the dispatch that bring a program to run (log entry 20). -/
def State.withFetchWord (s : State) (nbits w : Nat) : State := placeWord s nbits w

end Sys2Proof.Machine
end

