-- ==== Sys2Proof/Safety.lean ====
section
/-! DEFINITION. What a sound state of the T9 is, and the terms in which the statements say what a step leaves: the
invariants that a step keeps, and the states that the effects of words lead to. -/

namespace Sys2Proof

open Sys2Proof.Machine

/-! ### Invariants -/

/-- x0 holds zero on a core (R10). -/
def Safety.zeroReg (c : Machine.Core) : Bool := c.x[0] == 0

/-- x0 holds zero on every core. -/
def Safety.zeroRegs (s : State) : Bool := Safety.zeroReg s.core && s.others.all fun e => Safety.zeroReg e.2

/-- The home and far memories are in canonical form. -/
def Safety.memoryOk (s : State) : Bool := Memory.wf s.dev.hbm && Memory.wf s.dev.far

/-- The keys of a sparse map rise. -/
def Safety.rising {α : Type} (m : SMap α) : Prop := m.Pairwise fun a b => a.1 < b.1

/-- The dirty bytes of L2, the lines of every L1 and the cores out of focus are listed in rising order. -/
def Safety.cachesOk (s : State) : Prop :=
  Safety.rising s.dev.l2 ∧ Safety.rising s.core.l1 ∧ Safety.rising s.others ∧ ∀ e ∈ s.others, Safety.rising e.2.l1

/-! ### States that a word of X leads to -/

/-- X has gone on at the next word, and nothing else has changed. -/
def Safety.wentOn (s : State) : State := { s with core := { s.core with pc := s.core.pc + 4, xwait := .none } }

/-- X has gone on at an address, and nothing else has changed. -/
def Safety.wentTo (s : State) (a : Word) : State := { s with core := { s.core with pc := a, xwait := .none } }

/-- x[d] holds v, X has gone on at the next word, and nothing else has changed; x0 discards the value (R10). -/
def Safety.wroteX (s : State) (d : BitVec 5) (v : Word) : State :=
  { s with core := { s.core with
      x := if d = 0 then s.core.x else s.core.x.set d.toNat v d.isLt, pc := s.core.pc + 4, xwait := .none } }

/-- X can take a cause (R367): it is outside handler mode, TRAP_VEC is not 0, and the frame takes x1 to x7. -/
def Safety.mayTrap (s : State) (c : CauseRec) : Prop :=
  let s1 := raiseFlags s c
  s.core.handler = false ∧ s.core.trapVec ≠ 0 ∧
    ∃ t, vwrite s1 (trapAcc s1) .x .l2 true (frameBase s.core.taskFrame + 0x40) (x17Bytes s.core) = .ok t

/-! ### Memory -/

/-- An address lies among n bytes from a base. -/
def Safety.within (base n pa : Nat) : Prop := base ≤ pa ∧ pa < base + n

/-- The byte at a physical address as X of the core in focus sees it: its L1 copy, else the byte at the far-tier port or
at the home L2 slice. -/
def Safety.seen (s : State) (pa : Nat) : Byte :=
  match slook s.core.l1 (pa / 64) with
  | some l => lineByte l (pa % 64)
  | none => if pa ≥ farBase then farByte s.dev pa else l2Byte s.dev pa

/-- A byte as its home holds it: at the far-tier port, or at the home L2 slice. -/
def Safety.homeByte (d : Dev) (pa : Nat) : Byte := if pa ≥ farBase then farByte d pa else l2Byte d pa

/-- A byte that the home holds once X has written back the line that its L1 has of it (R117, R243). -/
def Safety.cleaned (s : State) (pa : Nat) : Byte :=
  match slook s.core.l1 (pa / 64) with
  | some l => if l.dirty.getLsbD (pa % 64) && (windowOf s.dev pa).isNone then lineByte l (pa % 64) else l2Byte s.dev pa
  | none => l2Byte s.dev pa

/-- A translated place of n aligned bytes in the HBM of this device, outside PLEAT pages. -/
def Safety.plain (x : Xlat) (n : Nat) : Prop := x.remote = none ∧ x.pa < farBase ∧ x.attr ≠ 1 ∧ x.pa % n = 0

/-- X reads and writes a place through its L1 (R117). -/
def Safety.throughL1 (x : Xlat) (pol : Policy) : Prop := pol = .d ∧ l1Holds x = true

/-- Where the walker marks the leaf of a translation: in a PLEAT page the slot that the walk reads (R310, R333). -/
def Safety.leafSlot (d : Dev) (x : Xlat) : Nat := if isPrimary d x.leafPa then slotOf d x.mset x.leafPa else x.leafPa

/-- The bytes that a write of n bytes at a translated place may change: those bytes; for a PLEAT page both slots of the block
(R334); in the far tier the lines, each of which is encrypted as one unit (R323). -/
def Safety.stored (d : Dev) (x : Xlat) (n pa : Nat) : Prop :=
  x.remote = none ∧
    if farBase ≤ x.pa then x.pa / 64 ≤ pa / 64 ∧ pa / 64 ≤ (x.pa + n - 1) / 64
    else if x.attr = 1 then
      ∃ slot, Safety.within (slotPa (pleatAt d (stackOf x.pa)) slot (x.pa / 256 * 256)) 256 pa
    else Safety.within x.pa n pa

/-- A record of the event log, which a corrected memory error leaves (R376, R380), may be written at this address. -/
def Safety.logged (d : Dev) (pa : Nat) : Prop := Safety.within d.elogbase.toNat 4096 pa

/-- The core's L1 has given up the line of an address. -/
def Safety.dropped (s t : State) (pa : Nat) : Prop :=
  (slook s.core.l1 (pa / 64)).isSome = true ∧ slook t.core.l1 (pa / 64) = none

/-- What the home of an address holds after the L1 has given up its line l: a dirty byte has reached it, unless an open
reduction window holds the line (log 16); a clean byte of HBM, and a byte that a window keeps, is as the home had it. -/
def Safety.gaveUp (s t : State) (l : L1Line) (pa : Nat) : Prop :=
  if l.dirty.getLsbD (pa % 64) && (windowOf s.dev pa).isNone then Safety.homeByte t.dev pa = lineByte l (pa % 64)
  else pa < farBase → Safety.homeByte t.dev pa = Safety.homeByte s.dev pa

/-- An address reads after a step as it did before, but where the L1 has written back and given up its line: in HBM and in a
line that the L1 holds as X sees it, elsewhere in the far tier as the port holds it. -/
def Safety.unchanged (s t : State) (pa : Nat) : Prop :=
  (pa < farBase ∨ (slook s.core.l1 (pa / 64)).isSome = true → ¬ Safety.dropped s t pa → Safety.seen t pa = Safety.seen s pa) ∧
  (farBase ≤ pa → slook s.core.l1 (pa / 64) = none → farByte t.dev pa = farByte s.dev pa) ∧
  ∀ l, slook s.core.l1 (pa / 64) = some l → slook t.core.l1 (pa / 64) = none → Safety.gaveUp s t l pa

/-! ### Values -/

/-- The rational number (-1)^neg × m × 2^x. -/
def Safety.rat (neg : Bool) (m : Nat) (x : Int) : Rat := (if neg then -1 else 1) * (m : Rat) * (2 : Rat) ^ x

/-- The rational number that a value stands for, if it is finite. -/
def Safety.ratOf : FVal → Option Rat
  | .num n m x => some (Safety.rat n m x)
  | _ => none

/-! ### States that a word of an engine sequencer leads to -/

/-- A sequencer may run a word of an engine (R36): ENOP to ELOOP, ISET, IADD and ILD run everywhere; GCFG and GSET in L and S;
LDS, MCAST and GATH in L and the copy engines; STS, SCAT, REDST, the near-memory words, XFER and RSIG in S and the copy
engines; BCOPY and FENCEX everywhere but in C; KAPP in S; every other word in C. -/
def Safety.runsIn (u : SeqId) : Instr → Prop
  | .enop .. | .estop .. | .ejmp .. | .ebr .. | .eloop .. | .iset .. | .iadd .. | .ild .. => True
  | .gcfg .. | .gset .. => u = .l ∨ u = .s
  | .lds .. | .mcast .. | .gath .. => u = .l ∨ isCopy u = true
  | .sts .. | .scat .. | .redstEngine .. | .nmaddEngine .. | .nmminEngine .. | .nmmaxEngine .. | .nmfenEngine ..
  | .xfer .. | .rsig .. => u = .s ∨ isCopy u = true
  | .bcopy .. | .fencexEngine .. => u ≠ .c
  | .kapp .. => u = .s
  | _ => u = .c

/-- What the units that come before a sequencer and wait for a semaphore take of its count (R26). -/
def Safety.claimed (s : State) (u : SeqId) (n : BitVec 8) : Nat :=
  xClaim s n + ((unitsBefore s u).map (seqClaim s n)).sum

/-- A word with these synchronisation fields may issue at a sequencer now (R24): it is the sequencer's turn, the unit
exists, no word is in flight or to be resumed, a copy engine uses no token field, the semaphore count covers the threshold
and the waiters that come first (R26), and the incoming token and a slot for the outgoing token are there. -/
def Safety.issues (s : State) (u : SeqId) (y : Sync) : Prop :=
  s.unit = .seq u ∧ noUnit u = false ∧ (seqOf s u).flight = none ∧ (seqOf s u).resume = none ∧
    (isCopy u = true → y.tki = 0 ∧ y.tko = 0) ∧
    (y.wthr = 0 ∨ Safety.claimed s u y.wsem + y.wthr.toNat ≤ semVal s.core y.wsem) ∧
    (∀ k, tkiQueue u y.tki = some k → tokens s.core k ≠ 0) ∧ ∀ k, tkoQueue u y.tko = some k → tokens s.core k < 16

/-- What the machine keeps of an issued word until it retires (R25): its place, its bits, its signal and its token. -/
def Safety.flight (u : SeqId) (y : Sync) (i : Instr) (pc : Word) : Flight :=
  { kind := .plain, done := true, pc, word := BitVec.ofNat 64 (encode i), sinc := y.sinc, ssem := y.ssem,
    tko := tkoQueue u y.tko, estop := false, flags := 0, held := [], ends := [], e := 0, rank := 0 }

/-- A sequencer has gone on at an address with a word in flight, and nothing else has changed. -/
def Safety.flown (s : State) (u : SeqId) (next : Word) (f : Flight) : State :=
  setSeq s u { seqOf s u with pc := next, wait := .none, resume := none, flight := some f }

/-- An engine word completes with an effect: where it may issue and `ok` holds, the issue actions are taken, the state is as
`eff` makes it from there, and the word is in flight as `fl` describes it. -/
def Safety.engineWord (i : Instr) (y : Sync) (u : SeqId) (ok : State → Prop) (eff : State → State)
    (next : State → Word → Word) (fl : State → Flight → Flight) : Prop :=
  ∀ s : State, Safety.issues s u y → ok s →
    let t := issueTake s u y
    let pc := (seqOf s u).pc
    exec i s = .next (Safety.flown (eff t) u (next t pc) (fl t (Safety.flight u y i pc)))

/-- A destination takes the vectors of a result: the state, and the cause that stops it. -/
def Safety.delivered (dst : Option Spec) (r : VRes) (s : State) : State × Option CauseRec :=
  match dst with
  | some p => writeVecs p r.act r.scales (destPlan s p r.vecs r.act r.scales) 0 r.vecs s
  | none => (s, none)

/-- The positions of a word of C are legal and ready, where the word may issue and its own condition holds (R31, R99). -/
def Safety.positions (s : State) (y : Sync) (own : State → Prop) (srcs : List Spec) (dst : Option Spec) : Prop :=
  Safety.issues s .c y ∧ own s ∧
    (∀ p ∈ srcs, specDecode false p = .ok ()) ∧ (∀ p ∈ dst.toList, specDecode true p = .ok ()) ∧
    specsReady s srcs = none ∧
    (∀ p ∈ srcs, specEarly s false p = .ok ()) ∧ ∀ p ∈ dst.toList, specEarly s true p = .ok ()

/-- A word of C with operand positions completes (R31, R99, R119): where it may issue, its own condition holds, the
positions are legal and ready, its sources read as vectors, no enabled trap is met and its destination takes the result,
the destination, the lane flags, the predicate and the index register are written as `f` says and the word is in flight. -/
def Safety.vectorWord (i : Instr) (y : Sync) (own : State → Prop) (srcs : List Spec) (dst : Option Spec)
    (f : State → List Src → VRes) : Prop :=
  ∀ s : State, Safety.positions s y own srcs dst →
    let t := issueTake s .c y
    ∀ s1 rs, readSrcs srcs t = .ok (s1, rs) →
    let r := f t rs
    r.flags &&& tenOf s.core.vfctl = 0 →
    ∀ s2, Safety.delivered dst r s1 = (s2, none) →
    let c := match r.lanes with
      | some l => setLaneFlags s2.core l
      | none => s2.core
    let c := match r.pred with
      | some (n, v) => pset c n v
      | none => c
    let c := match r.idx with
      | some (n, v) => csetIdx c n v
      | none => c
    let pc := s.core.c.pc
    exec i s = .next (Safety.flown { s2 with core := c } .c (pc + 8)
      { Safety.flight .c y i pc with flags := r.flags, held := heldBy t s2 srcs })

/-- An elementary-function word of C completes (R31, R99, R171): where it may issue and its sources read as vectors, they are
popped and the word is in flight in its hem phase with what it writes: for a register destination the registers as the
result leaves them, for a stream the register as the word finds it, its vectors and active lanes, the lane-flag record, the
flags and the cause of the first flag that traps. The stream that it is to push to stands after the push from now on. -/
def Safety.hemWord (i : Instr) (y : Sync) (own : State → Prop) (srcs : List Spec) (dst : Spec)
    (f : State → List Src → VRes) : Prop :=
  ∀ s : State, Safety.positions s y own srcs (some dst) →
    let t := issueTake s .c y
    ∀ s1 rs, readSrcs srcs t = .ok (s1, rs) →
    let r := f t rs
    let pc := s.core.c.pc
    ∃ l : Late,
      exec i s = .next (Safety.flown { s1 with core := takePush s1.core dst r } .c (pc + 8)
        { Safety.flight .c y i pc with kind := .hem, done := false, held := heldBy t s1 srcs, late := some l }) ∧
      l.flags = r.flags ∧ l.cause = arithCause r.flags (tenOf s.core.vfctl) ∧ l.info = r.flags.setWidth 64 ∧
      (∀ e, r.lanes = some e → l.lflags = (setLaneFlags t.core e).lflags) ∧
      (dst.code.toNat < 64 → l.push = none ∧ (putRegs t.core l.regs).v = (writeVecs dst r.act r.scales [] 0 r.vecs s1).1.core.v) ∧
      (64 ≤ dst.code.toNat → l.regs = [] ∧ l.push = latePush s1.core dst r)

/-- The result of a lane-by-lane word: `op` of the source lanes in the active lanes, and nothing in the others. -/
def Safety.byLane (t : Ty) (pg : BitVec 4) (op : List Nat → Nat) (s : State) (rs : List Src) : VRes :=
  { vecs := [packLanes t ((List.range (lanes t)).map fun k =>
      if (pget s.core pg).getLsbD k then op (rs.map fun r => r.lane t k) else 0)]
    act := fun _ k => (pget s.core pg).getLsbD k }

/-- One position that holds one vector of a type. -/
def Safety.one (t : Ty) (c : BitVec 7) : Spec := { code := c, ty := t }

/-- The number that a lane of an integer type stands for (R71). -/
def Safety.laneInt (t : Ty) (a : Nat) : Int :=
  match t with
  | .i4 | .i8 | .i16 | .i32 | .i64 => if 2 ^ (elemBits t - 1) ≤ a then (a : Int) - 2 ^ elemBits t else a
  | _ => a

/-- An integer as a lane of a type: its residue modulo 2 to the width. -/
def Safety.wrap (t : Ty) (n : Int) : Nat := (n % 2 ^ elemBits t).toNat

/-- C's words that are no conversion may round: the mode of VFCTL is not SRD (R77). -/
def Safety.rounds (s : State) : Prop := rmodeOf (fld s.core.vfctl.toNat 0 3) ≠ .srd

/-- What the machine keeps of a transfer in flight (R112, R190): the vectors that it popped from a source queue, and the
element after the last of each. -/
def Safety.movedFlight (e : Ends) (p : Pull) (f : Flight) : Flight :=
  if e.sd.isSome then f
  else { f with held := [(e.q.toNat, p.popped)]
                ends := (List.range p.popped.length).map fun v => (e.dd.vecRange v).1 + (e.dd.vecRange v).2 }

/-- A conversion (R123, R141, R142): element e of the source group, under its block scale if it has one, rounded into the
destination type, for each element; active elements are written and set flags. The word has `run` elements, and predicate bit e governs element e. -/
def Safety.converted (d s : Ty) (m n run : Nat) (rm : RmSel) (pg : BitVec 4) (st : State) (rs : List Src) : VRes :=
  let on (e : Nat) : Bool := decide (e < run) && (pget st.core pg).getLsbD e
  let r := (List.range (max (lanes d) (lanes s))).map fun e =>
    match groupElem m s (srcAt rs 0) e with
    | (x, none) => convert (numOf s) (numOf d) (cvtCtx st rm e) x
    | (x, some b) => intoNum (numOf d) (cvtCtx st rm e) (scaled s (some b) x)
  let fl := ((List.range r.length).zip r).map fun z => if on z.1 then z.2.2 else 0
  { vecs := groupVecs n d (r.map (·.1)), act := fun j l => on (l * n + j), flags := unionFlags fl, lanes := some fl }

end Sys2Proof
end

