-- ==== Sys2Proof/Certificates/Slice0/Obligations.lean ====
section
/-! DEFINITION. What is claimed of the model: the statements for the provers. -/

open Sys2Proof Sys2Proof.Machine

/-- ADD, SUB, MUL, MULH, MULHU, AND, OR, XOR, SLL, SRL, SRA, SLT, SLTU, MIN, MAX, MINU and MAXU complete in every
state: x[xd] gets the result of the table of R124 (a write to x0 is discarded), X goes on at the next word, and
nothing else of the machine changes, so no flag does (spec/05_vector_scalar_arithmetic.md, Scalar integer
instructions). -/
def Obligations.IntegerRegisterWords : Prop :=
  ∀ (s : State) (d a b : BitVec 5),
    let x := xget s a
    let y := xget s b
    exec (.add d a b) s = .next (Safety.wroteX s d (x + y)) ∧
    exec (.sub d a b) s = .next (Safety.wroteX s d (x - y)) ∧
    exec (.mul d a b) s = .next (Safety.wroteX s d (x * y)) ∧
    exec (.mulh d a b) s = .next (Safety.wroteX s d ((x.signExtend 128 * y.signExtend 128).extractLsb' 64 64)) ∧
    exec (.mulhu d a b) s = .next (Safety.wroteX s d ((x.setWidth 128 * y.setWidth 128).extractLsb' 64 64)) ∧
    exec (.and d a b) s = .next (Safety.wroteX s d (x &&& y)) ∧
    exec (.or d a b) s = .next (Safety.wroteX s d (x ||| y)) ∧
    exec (.xor d a b) s = .next (Safety.wroteX s d (x ^^^ y)) ∧
    exec (.sll d a b) s = .next (Safety.wroteX s d (x <<< (y.toNat % 64))) ∧
    exec (.srl d a b) s = .next (Safety.wroteX s d (x >>> (y.toNat % 64))) ∧
    exec (.sra d a b) s = .next (Safety.wroteX s d (BitVec.ofInt 64 (x.toInt / 2 ^ (y.toNat % 64)))) ∧
    exec (.slt d a b) s = .next (Safety.wroteX s d (if x.toInt < y.toInt then 1 else 0)) ∧
    exec (.sltu d a b) s = .next (Safety.wroteX s d (if x.toNat < y.toNat then 1 else 0)) ∧
    exec (.min d a b) s = .next (Safety.wroteX s d (BitVec.ofInt 64 (Min.min x.toInt y.toInt))) ∧
    exec (.max d a b) s = .next (Safety.wroteX s d (BitVec.ofInt 64 (Max.max x.toInt y.toInt))) ∧
    exec (.minu d a b) s = .next (Safety.wroteX s d (BitVec.ofNat 64 (Min.min x.toNat y.toNat))) ∧
    exec (.maxu d a b) s = .next (Safety.wroteX s d (BitVec.ofNat 64 (Max.max x.toNat y.toNat)))

/-- DIV, DIVU, REM and REMU with a divisor other than 0 write the quotient truncated toward zero, or its remainder, to
x[xd], and change nothing else but the PC; DIV of -2^63 by -1 gives -2^63 and REM gives 0. With a divisor of 0 they
raise ARITH.INT_DIVZERO (cause code 0x085) in X at the instruction, and where X can take the cause no x register
changes (R125). -/
def Obligations.DivisionWords : Prop :=
  ∀ (s : State) (d a b : BitVec 5),
    let x := xget s a
    let y := xget s b
    (y ≠ 0 →
      exec (.div d a b) s = .next (Safety.wroteX s d (BitVec.ofInt 64 (x.toInt.tdiv y.toInt))) ∧
      exec (.divu d a b) s = .next (Safety.wroteX s d (BitVec.ofNat 64 (x.toNat / y.toNat))) ∧
      exec (.rem d a b) s = .next (Safety.wroteX s d (BitVec.ofInt 64 (x.toInt.tmod y.toInt))) ∧
      exec (.remu d a b) s = .next (Safety.wroteX s d (BitVec.ofNat 64 (x.toNat % y.toNat)))) ∧
    (x = BitVec.intMin 64 → y = -1 →
      exec (.div d a b) s = .next (Safety.wroteX s d (BitVec.intMin 64)) ∧
      exec (.rem d a b) s = .next (Safety.wroteX s d 0)) ∧
    (y = 0 →
      exec (.div d a b) s = .next (trapX s { cause := .intDivzero }) ∧
      exec (.divu d a b) s = .next (trapX s { cause := .intDivzero }) ∧
      exec (.rem d a b) s = .next (trapX s { cause := .intDivzero }) ∧
      exec (.remu d a b) s = .next (trapX s { cause := .intDivzero }) ∧
      (Safety.mayTrap s { cause := .intDivzero } →
        let t := trapX s { cause := .intDivzero }
        t.core.x = s.core.x ∧ t.core.trapCause = 0x085 ∧ t.core.trapPc = s.core.pc ∧ t.core.pc = s.core.trapVec))

/-- ADDI and SLTI use the sign-extended immediate, ANDI, ORI and XORI the zero-extended one; SLLI, SRLI and SRAI shift
by sh; ADPC adds four times its immediate to the PC and LIH shifts its immediate left by 16. Each writes x[xd], X goes
on at the next word, and nothing else changes. Opcodes 1 to 5, 7 and 10 decode to them from every field, and LIH
followed by ORI loads any value from -2^36 to 2^36 - 1 (R126; R128). -/
def Obligations.ImmediateWords : Prop :=
  ∀ (s : State) (d a : BitVec 5) (imm : BitVec 16) (sh : BitVec 6) (far : BitVec 21),
    let x := xget s a
    exec (.addi d a imm) s = .next (Safety.wroteX s d (x + BitVec.ofInt 64 imm.toInt)) ∧
    exec (.andi d a imm) s = .next (Safety.wroteX s d (x &&& BitVec.ofNat 64 imm.toNat)) ∧
    exec (.ori d a imm) s = .next (Safety.wroteX s d (x ||| BitVec.ofNat 64 imm.toNat)) ∧
    exec (.xori d a imm) s = .next (Safety.wroteX s d (x ^^^ BitVec.ofNat 64 imm.toNat)) ∧
    exec (.slti d a imm) s = .next (Safety.wroteX s d (if x.toInt < imm.toInt then 1 else 0)) ∧
    exec (.slli d a sh) s = .next (Safety.wroteX s d (x <<< sh.toNat)) ∧
    exec (.srli d a sh) s = .next (Safety.wroteX s d (x >>> sh.toNat)) ∧
    exec (.srai d a sh) s = .next (Safety.wroteX s d (BitVec.ofInt 64 (x.toInt / 2 ^ sh.toNat))) ∧
    exec (.adpc d far) s = .next (Safety.wroteX s d (s.core.pc + BitVec.ofInt 64 (4 * far.toInt))) ∧
    exec (.lih d far) s = .next (Safety.wroteX s d (BitVec.ofInt 64 (far.toInt * 2 ^ 16))) ∧
    (let xi (op : Nat) : Nat := op * 2 ^ 26 + d.toNat * 2 ^ 21 + a.toNat * 2 ^ 16 + imm.toNat
      let xl (op : Nat) : Nat := op * 2 ^ 26 + d.toNat * 2 ^ 21 + far.toNat
      decodeScalar (xi 1) = .ok (.addi d a imm) ∧ decodeScalar (xi 2) = .ok (.andi d a imm) ∧
      decodeScalar (xi 3) = .ok (.ori d a imm) ∧ decodeScalar (xi 4) = .ok (.xori d a imm) ∧
      decodeScalar (xi 5) = .ok (.slti d a imm) ∧ decodeScalar (xl 7) = .ok (.adpc d far) ∧
      decodeScalar (xl 10) = .ok (.lih d far)) ∧
    (d ≠ 0 → ∀ v : Int, -2 ^ 36 ≤ v → v < 2 ^ 36 → ∃ (hi : BitVec 21) (lo : BitVec 16) (t u : State),
      exec (.lih d hi) s = .next t ∧ exec (.ori d d lo) t = .next u ∧ xget u d = BitVec.ofInt 64 v)

/-- A branch sets the PC to PC + 4 × off16 when its condition holds and to PC + 4 otherwise; JAL and JALR link PC + 4
(JALR to x[xd], discarded for x0) and jump; nothing else changes. A JALR whose target is no multiple of 4 raises
INSN.ALIGN_PC in X with its own word (spec/02_instruction_words.md, Scalar branches and jumps). -/
def Obligations.BranchesAndJumps : Prop :=
  ∀ (s : State) (d a b : BitVec 5) (off : BitVec 16) (far : BitVec 26),
    let x := xget s a
    let y := xget s b
    let go (c : Prop) [Decidable c] : State :=
      Safety.wentTo s (if c then s.core.pc + BitVec.ofInt 64 (4 * off.toInt) else s.core.pc + 4)
    let t := x + BitVec.ofInt 64 off.toInt
    exec (.beq a b off) s = .next (go (x = y)) ∧
    exec (.bne a b off) s = .next (go (x ≠ y)) ∧
    exec (.blt a b off) s = .next (go (x.toInt < y.toInt)) ∧
    exec (.bge a b off) s = .next (go (y.toInt ≤ x.toInt)) ∧
    exec (.bltu a b off) s = .next (go (x.toNat < y.toNat)) ∧
    exec (.bgeu a b off) s = .next (go (y.toNat ≤ x.toNat)) ∧
    exec (.jal far) s = .next (Safety.wentTo (Safety.wroteX s 1 (s.core.pc + 4)) (s.core.pc + BitVec.ofInt 64 (4 * far.toInt))) ∧
    (t.toNat % 4 = 0 → exec (.jalr d a off) s = .next (Safety.wentTo (Safety.wroteX s d (s.core.pc + 4)) t)) ∧
    (t.toNat % 4 ≠ 0 → exec (.jalr d a off) s =
      .next (trapX s { cause := .alignPc, info := BitVec.ofNat 64 (encode (.jalr d a off)) }))

/-- FADD, FSUB, FMUL, FDIV, FSQRT, FMA, FMS, FNMA, FNMS and FCVT (R130 to R133): FSTAT is joined with the flags of the
result. When none of these flags is enabled in FCTL.TEN, the word completes: x[xd] holds the rounded result, X goes on
at the next word, and nothing else changes. When one is enabled, the cause of the first enabled one in the order NV,
DZ, OF, UF, NX is taken instead, and xd is not written (spec/05_vector_scalar_arithmetic.md, Scalar floating-point
instructions; spec/03_number_formats.md, Special values, overflow and underflow; spec/03_number_formats.md, Rounding).
-/
def Obligations.ScalarFloatResults : Prop :=
  ∀ (s : State) (d a b c : BitVec 5) (p : FP) (rm : RmSel) (dst src : STy),
    let k := fpKind p
    let A := fread s p a
    let B := fread s p b
    let C := fread s p c
    let m := effMode rm s.core.fctl
    let ends (i : Instr) (image : Nat → Word) (v : Nat × FFlags) : Prop :=
      let s' : State := { s with core := { s.core with fstat := s.core.fstat ||| v.2.setWidth 64 } }
      (v.2 &&& tenOf s.core.fctl = 0 → exec i s = .next (Safety.wroteX s' d (image v.1))) ∧
      (∀ e, arithCause v.2 (tenOf s.core.fctl) = some e →
        exec i s = .next (trapX s' { cause := e, info := v.2.setWidth 64 }))
    let word (i : Instr) (r : FRes) : Prop := ends i (BitVec.ofNat 64) (deliverRes k (fctx s rm) r)
    word (.fadd d a b p rm) (addVal m A B) ∧
    word (.fsub d a b p rm) (addVal m A (if B.isNan then B else B.flip)) ∧
    word (.fmul d a b p rm) (mulVal A B) ∧
    word (.fdiv d a b p rm) (divVal A B) ∧
    word (.fsqrt d a p rm) (sqrtVal A) ∧
    word (.fma d a b c p rm) (fmaVal m false false A B C) ∧
    word (.fms d a b c p rm) (fmaVal m false true A B C) ∧
    word (.fnma d a b c p rm) (fmaVal m true false A B C) ∧
    word (.fnms d a b c p rm) (fmaVal m true true A B C) ∧
    ends (.fcvt d a dst src rm) (scalarImage dst) (convert (snumOf src) (snumOf dst) (fctx s rm) (xget s a).toNat)

/-- FMIN, FMAX, FCMP and FCLASS (R130, R131, R136, R138) write x[xd] and go on at the next word; FSTAT and everything
else stay. A comparison gives 1 or 0: with a NaN operand NE and UN are true and EQ, LT and LE false
(spec/05_vector_scalar_arithmetic.md, Scalar floating-point instructions; spec/05_vector_scalar_arithmetic.md, Vector
arithmetic; spec/05_vector_scalar_arithmetic.md, Compares and predicates). -/
def Obligations.ScalarFloatSelections : Prop :=
  ∀ (s : State) (d a b : BitVec 5) (p : FP) (cc : FCond),
    let A := fread s p a
    let B := fread s p b
    exec (.fmin d a b p) s = .next (Safety.wroteX s d (BitVec.ofNat 64 (deliver (fpKind p) { mode := .rne } (minVal A B)).1)) ∧
    exec (.fmax d a b p) s = .next (Safety.wroteX s d (BitVec.ofNat 64 (deliver (fpKind p) { mode := .rne } (maxVal A B)).1)) ∧
    exec (.fclass d a p) s = .next (Safety.wroteX s d (BitVec.ofNat 64 (classOf (fpKind p) (fbits (fpKind p) (xget s a))))) ∧
    (∃ r : Bool, exec (.fcmp d a b p cc) s = .next (Safety.wroteX s d (if r then 1 else 0)) ∧
      ((A.isNan || B.isNan) = true → r = (decide (cc = .ne) || decide (cc = .un))) ∧
      ((A.isNan || B.isNan) = false → r = match cc with
        | .eq => eqVal A B | .ne => !eqVal A B | .lt => ltVal A B | .le => ltVal A B || eqVal A B | .un => false))

/-- For finite operands the value that addition delivers to rounding is the exact sum of the operands, and the value
that multiplication delivers is their exact product, as rational numbers; neither raises a flag (R130, R134). A
magnitude m × 2^x that is rounded in mode RNE to a multiple n of 2^q, with q > x, lies within half of 2^q of n × 2^q;
when it lies exactly halfway, n is even; and it is reported as inexact exactly when it is no multiple of 2^q (R78)
(spec/05_vector_scalar_arithmetic.md, Scalar floating-point instructions; spec/05_vector_scalar_arithmetic.md, Vector
arithmetic; spec/03_number_formats.md, Rounding). -/
def Obligations.SumsProductsAndRounding : Prop :=
  (∀ (m : RMode) (n1 n2 : Bool) (m1 m2 : Nat) (x1 x2 : Int),
    let a : FVal := .num n1 m1 x1
    let b : FVal := .num n2 m2 x2
    (addVal m a b).fl = 0 ∧ (mulVal a b).fl = 0 ∧
    Safety.ratOf (addVal m a b).val = some (Safety.rat n1 m1 x1 + Safety.rat n2 m2 x2) ∧
    Safety.ratOf (mulVal a b).val = some (Safety.rat n1 m1 x1 * Safety.rat n2 m2 x2)) ∧
  (∀ (c : RCtx) (neg : Bool) (m k : Nat) (x q : Int),
    c.mode = .rne → q = x + k → 0 < k →
    let r := roundAt c neg m x q
    2 * ((r.1 * 2 ^ k : Nat) - m : Int).natAbs ≤ 2 ^ k ∧
    (2 * ((r.1 * 2 ^ k : Nat) - m : Int).natAbs = 2 ^ k → r.1 % 2 = 0) ∧
    (r.2 = true ↔ ¬ 2 ^ k ∣ m))

/-- When X raises a cause outside handler mode with TRAP_VEC not 0 and its frame writable, X enters handler mode at
TRAP_VEC: TRAP_PC holds the address of the instruction (its successor for INSN.BREAK), TRAP_CAUSE the cause code with
unit code 0, TRAP_ADDR the cause's address or 0, TRAP_INFO its information; x0 to x31, FSTAT and the other trap and
floating registers stay. The bytes of x1 to x7 stand in the frame from its byte 0x40 on, where its page is in the HBM of
this device and no PLEAT page (R366, R367) (spec/17_faults_and_traps.md, Trap registers and handler mode). -/
def Obligations.TrapEntry : Prop :=
  ∀ (s : State) (c : CauseRec), Safety.rising s.dev.l2 → Safety.mayTrap s c →
    let t := trapX s c
    t.core.handler = true ∧ t.core.pc = s.core.trapVec ∧ t.core.xwait = .none ∧ t.core.x = s.core.x ∧
    t.core.trapPc = (if c.cause = .brk then s.core.pc + 4 else s.core.pc) ∧
    t.core.trapCause = trapCauseWord .x c ∧ t.core.trapInfo = c.info ∧
    t.core.trapAddr = (if c.cause = .brk then 0 else c.addr.getD 0) ∧
    t.core.delivered = some (.x, { c.bare with pc := s.core.pc }) ∧
    t.core.trapVec = s.core.trapVec ∧ t.core.fstat = s.core.fstat ∧ t.core.fctl = s.core.fctl ∧
    t.core.vfstat = s.core.vfstat ∧ t.core.v = s.core.v ∧ t.core.p = s.core.p ∧ t.core.g = s.core.g ∧
    t.core.l = s.core.l ∧ t.core.c = s.core.c ∧ t.core.s = s.core.s ∧ t.core.sem = s.core.sem ∧ t.core.tok = s.core.tok ∧
    ∀ x, translate (raiseFlags s c).dev (trapAcc (raiseFlags s c)) .write (frameBase s.core.taskFrame + 0x40) = .ok x → Safety.plain x 8 →
      ∀ i < 56, l2Byte t.dev (x.pa + i) = (toBytesLE 8 (xget s (BitVec.ofNat 5 (1 + i / 8))).toNat).getD (i % 8) 0

/-- TRAP k completes in every state by raising INSN.BREAK with k as its information; where X may take a cause, it goes
on at TRAP_VEC in handler mode with TRAP_PC holding the address after the TRAP, TRAP_CAUSE 0x005 and TRAP_INFO k
(R366, R369). In handler mode TRET and TRET.SKIP complete: handler mode ends, x0 to x31 and the trap registers stay, and
X resumes at TRAP_PC, or at TRAP_PC + 4 for TRET.SKIP when the delivered cause was X's own; after a cause of class INSN
or ARITH of a sequencer it resumes at TRAP_ADDR. The sequencer that stopped on a delivered cause goes on at its word and
element for TRET, and at the word after it for TRET.SKIP. Outside handler mode both raise INSN.PRIV (R369)
(spec/17_faults_and_traps.md, Instructions). -/
def Obligations.TrapAndReturn : Prop :=
  (∀ (s : State) (k : BitVec 8),
    let c : CauseRec := { cause := .brk, info := k.setWidth 64 }
    exec (.trap k) s = .next (trapX s c) ∧
    (Safety.mayTrap s c → ∃ t, exec (.trap k) s = .next t ∧
      t.core.pc = s.core.trapVec ∧ t.core.handler = true ∧ t.core.trapPc = s.core.pc + 4 ∧
      t.core.trapCause = 0x005 ∧ t.core.trapInfo = k.setWidth 64 ∧ t.core.trapAddr = 0 ∧ t.core.x = s.core.x)) ∧
  (∀ (s : State), s.core.handler = true →
    let left (t : State) : Prop := t.core.handler = false ∧ t.core.delivered = none ∧ t.core.xwait = .none ∧
      t.core.x = s.core.x ∧ t.core.trapPc = s.core.trapPc ∧ t.core.trapCause = s.core.trapCause ∧
      t.core.trapAddr = s.core.trapAddr ∧ t.core.trapInfo = s.core.trapInfo ∧ t.core.trapVec = s.core.trapVec
    ((s.core.delivered = none ∨ ∃ c, s.core.delivered = some (.x, c)) →
      (∃ t, exec .tret s = .next t ∧ left t ∧ t.core.pc = s.core.trapPc ∧ t.dev = s.dev) ∧
      (∃ t, exec .tretSkip s = .next t ∧ left t ∧ t.dev = s.dev ∧
        t.core.pc = (if s.core.delivered = none then s.core.trapPc else s.core.trapPc + 4))) ∧
    (∀ u c, s.core.delivered = some (.seq u, c) →
      (∀ i ∈ [Instr.tret, Instr.tretSkip], ∃ t, exec i s = .next t ∧ left t ∧
        t.core.pc = (if wordClass c.cause then s.core.trapAddr else s.core.trapPc)) ∧
      (∀ k, noUnit u = false → (seqOf s u).cause = some k → (seqOf s u).delivered = true → k.estop = false →
        (∃ t, exec .tret s = .next t ∧ (seqOf t u).cause = none ∧ (seqOf t u).pc = k.pc ∧ (seqOf t u).delivered = false ∧
          (seqOf t u).resume = some { e := k.e, issued := k.issued, keep := k.keep, descs := k.descs }) ∧
        (∃ t, exec .tretSkip s = .next t ∧ (seqOf t u).cause = none ∧ (seqOf t u).pc = k.pc + 8 ∧
          (seqOf t u).delivered = false ∧ (seqOf t u).resume = none)))) ∧
  (∀ (s : State), s.core.handler = false →
    exec .tret s = .next (trapX s { cause := .priv, info := BitVec.ofNat 64 (encode .tret) }) ∧
    exec .tretSkip s = .next (trapX s { cause := .priv, info := BitVec.ofNat 64 (encode .tretSkip) }))

/-- CSRR of a listed register writes its value to x[xd] and CSRW writes x[xa] through the register's field rules; X
goes on at the next word and nothing else changes but the numbering of free values that a WSTATE read draws. A
register of class 0b10 outside handler mode raises INSN.PRIV, and a number that R39 does not list raises INSN.ILLEGAL
(R39, R368) (spec/02_instruction_words.md, CSR numbers). -/
def Obligations.CsrWords : Prop :=
  ∀ (s : State) (d a : BitVec 5) (n : BitVec 12),
    (∀ r, csrRead s n.toNat = some r → (csrPrivileged n.toNat = false ∨ s.core.handler = true) →
      exec (.csrr d n) s = .next (Safety.wroteX r.1 d r.2) ∧
      exec (.csrw n a) s = .next (Safety.wentOn { s with core := csrPut s.core n.toNat (xget s a) }) ∧
      { r.1 with free := s.free } = s) ∧
    ((csrRead s n.toNat).isSome = true → csrPrivileged n.toNat = true → s.core.handler = false →
      exec (.csrr d n) s = .next (trapX s { cause := .priv, info := BitVec.ofNat 64 (encode (.csrr d n)) }) ∧
      exec (.csrw n a) s = .next (trapX s { cause := .priv, info := BitVec.ofNat 64 (encode (.csrw n a)) })) ∧
    (csrRead s n.toNat = none →
      exec (.csrr d n) s = .next (trapX s { cause := .illegal, info := BitVec.ofNat 64 (encode (.csrr d n)) }) ∧
      exec (.csrw n a) s = .next (trapX s { cause := .illegal, info := BitVec.ofNat 64 (encode (.csrw n a)) }))

/-- Exactly the numbers of the table of R39 can be read: 0x000 to 0x003, 0x010 to 0x017, 0x400 to 0x40A and 0x800 to
0x805. A write to a number of class 0b01, and one to TRAP_CAUSE, changes nothing. A write to another number changes that
register alone, and a read after it gives: of FCTL TEN and FTZ, and of VFCTL SEED, TEN, SAT and FTZ, as written, RM as
written where the code is assigned and as it was otherwise, and 0 in the reserved fields; of FSTAT and VFSTAT five flags
as written; of SEQNO0 to SEQNO7, TRAP_PC, TRAP_ADDR and TRAP_INFO the value; of TRAP_VEC the value with bits 1 and 0
clear; of WDOG_LIMIT its low 32 bits (R39, R74 to R76, R367, R299) (spec/02_instruction_words.md, CSR numbers;
spec/03_number_formats.md, Control and status registers). -/
def Obligations.CsrFieldRules : Prop :=
  (∀ (s : State) (n : BitVec 12), (csrRead s n.toNat).isSome = true ↔
    n.toNat < 4 ∨ (0x10 ≤ n.toNat ∧ n.toNat < 0x18) ∨ (0x400 ≤ n.toNat ∧ n.toNat ≤ 0x40A) ∨ (0x800 ≤ n.toNat ∧ n.toNat ≤ 0x805)) ∧
  (∀ (c : Machine.Core) (n : BitVec 12) (v : Word), n.toNat / 1024 = 1 ∨ n.toNat = 0x800 → csrPut c n.toNat v = c) ∧
  (∀ (s : State) (v : Word),
    let f := s.core.fctl
    let vf := s.core.vfctl
    let newF := (v &&& 0x1F08#64) ||| (if v.toNat % 8 ≤ 4 then v &&& 7#64 else f &&& 7#64)
    let newV := (v &&& 0xFFFFFFFF00001F30#64) ||| (if v.toNat % 8 ≤ 5 then v &&& 7#64 else vf &&& 7#64)
    let after (n : Nat) (c : Machine.Core) (w : Word) : Prop :=
      csrPut s.core n v = c ∧ csrRead { s with core := csrPut s.core n v } n = some ({ s with core := csrPut s.core n v }, w)
    after 0x000 { s.core with fctl := newF } newF ∧ after 0x001 { s.core with fstat := v &&& 0x1F } (v &&& 0x1F) ∧
    after 0x002 { s.core with vfctl := newV } newV ∧ after 0x003 { s.core with vfstat := v &&& 0x1F } (v &&& 0x1F) ∧
    (∀ k : Fin 8, after (0x010 + k.val) { s.core with seqno := s.core.seqno.set k v } v) ∧
    after 0x801 { s.core with trapPc := v } v ∧ after 0x802 { s.core with trapAddr := v } v ∧
    after 0x803 { s.core with trapInfo := v } v ∧ after 0x804 { s.core with trapVec := v &&& ~~~3#64 } (v &&& ~~~3#64) ∧
    after 0x805 { s.core with wdogLimit := v &&& 0xFFFFFFFF#64 } (v &&& 0xFFFFFFFF#64))

/-- In handler mode, with the spare bits of x[xb] zero and a ring slot that can be used, PGREQ writes the record with
the next request count into a free slot, sends the message, marks the task page-pending and answers 0 in x[xd]; with a
slot in use it answers 1 and writes nothing. Outside handler mode it raises INSN.PRIV, with a spare bit set
INSN.OPERAND (R315, R370) (spec/15_isolation.md, Page faults and the pager; spec/17_faults_and_traps.md,
Instructions). -/
def Obligations.PageRequest : Prop :=
  ∀ (s : State) (d a b : BitVec 5),
    (s.core.handler = true → xget s b &&& pgreqSpare = 0 → ∀ pa n vec q, pageSlot s = .ok (pa, n, vec) →
      sysRead s.dev [] (pa + 24) 8 = some q →
      let s0 := readNotes s (pa + 24) 8
      (ofBytesLE q ≠ 0 → exec (.pgreq d a b) s = .next (Safety.wroteX s0 d 1)) ∧
      (ofBytesLE q = 0 → ∃ t, exec (.pgreq d a b) s = .next (Safety.wroteX t d 0) ∧
        t.dev = { sysWrite s0.dev pa (pageRecord s0 (xget s a) (xget s b) ++ toBytesLE 8 (n + 1)) with
          pgCount := sset 0 s0.dev.pgCount s.core.asid.toNat (n + 1) }.send (.msix (1025 + vec.toNat)) ∧
        t.core = { s.core with task := markPending s.core.task ((xget s b).extractLsb' 24 8) })) ∧
    (s.core.handler = false → exec (.pgreq d a b) s =
      .next (trapX s { cause := .priv, info := BitVec.ofNat 64 (encode (.pgreq d a b)) })) ∧
    (s.core.handler = true → xget s b &&& pgreqSpare ≠ 0 → exec (.pgreq d a b) s =
      .next (trapX s { cause := .operand, info := BitVec.ofNat 64 (encode (.pgreq d a b)) }))

/-- A load or store of n bytes uses x[xa] plus n times its signed offset. When that address is a multiple of n and the
bytes can be read, LD writes them to x[xd] sign-extended and LDZ zero-extended; when they can be written, ST stores
the low n bytes of x[xs]; X goes on. A misaligned address raises ACCESS.ALIGN at it, and an access that is refused raises
its cause and writes no register, or waits at its place. In the HBM of this device, outside PLEAT pages, the bytes read
are those that X sees of its L1 line, or through another policy than .D those at the home, and the bytes stored are those
that X sees and, through another policy than .D, the home holds afterwards. CINV always completes: it writes back and drops the L1 lines of
its range (R116 to R118) (spec/04_operand_streams.md, Scalar loads and stores). -/
def Obligations.LoadsAndStores : Prop :=
  ∀ (s : State) (d a : BitVec 5) (sz : MSize) (pol : Policy) (off : BitVec 11),
    let n := sizeBytes sz
    let va := (xget s a + BitVec.ofInt 64 (n * off.toInt)).toNat
    let lo := (xget s a + BitVec.ofInt 64 off.toInt).toNat
    (va % n = 0 → ∀ s1 bs, xread s pol va n = .ok (s1, bs) →
      exec (.ld d a sz pol off) s =
        .next (Safety.wroteX s1 d ((BitVec.ofNat (8 * n) (ofBytesLE bs)).signExtend 64)) ∧
      exec (.ldz d a sz pol off) s =
        .next (Safety.wroteX s1 d (BitVec.ofNat 64 (ofBytesLE bs)))) ∧
    (va % n = 0 → ∀ s1, xwrite s pol va (toBytesLE n (xget s d).toNat) = .ok s1 →
      exec (.st d a sz pol off) s = .next (Safety.wentOn s1)) ∧
    (va % n ≠ 0 →
      exec (.ld d a sz pol off) s = .next (trapX s { cause := .align, addr := some (BitVec.ofNat 64 va) }) ∧
      exec (.ldz d a sz pol off) s = .next (trapX s { cause := .align, addr := some (BitVec.ofNat 64 va) }) ∧
      exec (.st d a sz pol off) s =
        .next (trapX s { cause := .align, addr := some (BitVec.ofNat 64 va), write := true })) ∧
    (∀ c, va % n = 0 →
      let stops (i : Instr) : Prop :=
        (c.await = none → exec i s = .next (trapX s c)) ∧
        (∀ w, c.await = some w → ∃ t, exec i s = .next t ∧ t.core = { s.core with xwait := .access })
      (xread s pol va n = .error c → stops (.ld d a sz pol off) ∧ stops (.ldz d a sz pol off)) ∧
      (xwrite s pol va (toBytesLE n (xget s d).toNat) = .error c → stops (.st d a sz pol off))) ∧
    (Safety.rising s.dev.l2 → Safety.rising s.core.l1 → regionOf va = .mem →
      (∀ x s1 bs, translate s.dev (accOf s) .read va = .ok x → Safety.plain x n → xread s pol va n = .ok (s1, bs) →
        bs.length = n ∧ ∀ i < n, ¬ Safety.logged s.dev (x.pa + i) →
          bs.getD i 0 = if pol = .d && l1Holds x then Safety.seen s1 (x.pa + i) else l2Byte s1.dev (x.pa + i)) ∧
      (∀ x s1 v, translate s.dev (accOf s) .write va = .ok x → Safety.plain x n → xwrite s pol va (toBytesLE n v) = .ok s1 →
        ∀ i < n, Safety.seen s1 (x.pa + i) = (toBytesLE n v).getD i 0 ∧
          (¬ Safety.throughL1 x pol → l2Byte s1.dev (x.pa + i) = (toBytesLE n v).getD i 0))) ∧
    exec (.cinv d a off) s = .next (Safety.wentOn (dropL1 s fun _ l => l.asid == s.core.asid &&
      l.va.toNat < lo + (xget s d).toNat && lo < l.va.toNat + 64 && (xget s d).toNat != 0))

/-- A load or store that completes changes no register but x[xd] of a load, the PC and X's wait, its L1 and the byte
count of a checked task; no flag, CSR, engine state or other core. Every byte of memory reads after as it did before,
except the bytes stored to (for a PLEAT page the two slots of the block, in the far tier the encrypted line), the
page-table entry whose A and D marks the access sets, and the event log, where a corrected error of the word read is
recorded; the dirty bytes of a line that the L1 gives up for another have reached its home, outside the lines of open
reduction windows (log 16, the model's choice) (R117, R310, R323, R334, R376)
(spec/04_operand_streams.md, Scalar loads and stores). -/
def Obligations.LoadStoreFrame : Prop :=
  ∀ (s : State) (d a : BitVec 5) (sz : MSize) (pol : Policy) (off : BitVec 11),
    Safety.rising s.dev.l2 → Safety.rising s.core.l1 →
    let n := sizeBytes sz
    let va := xmAddr s a n off
    (∀ r, va % n = 0 → xread s pol va n = .ok r →
      ∀ i ∈ [Instr.ld d a sz pol off, Instr.ldz d a sz pol off], ∃ t v, exec i s = .next t ∧
        t.core = { s.core with
          x := (Safety.wroteX s d v).core.x, pc := s.core.pc + 4, xwait := .none, l1 := t.core.l1, badL1 := t.core.badL1 } ∧
        t.others = s.others ∧
        ∀ pa, ¬ Safety.logged s.dev pa →
          (∀ x, regionOf va = .mem → translate s.dev (accOf s) .read va = .ok x →
            ¬ Safety.within (Safety.leafSlot s.dev x) 8 pa) →
          Safety.unchanged s t pa) ∧
    (∀ r, va % n = 0 → xwrite s pol va (toBytesLE n (xget s d).toNat) = .ok r →
      ∃ t, exec (.st d a sz pol off) s = .next t ∧
        t.core = { s.core with
          pc := s.core.pc + 4, xwait := .none, l1 := t.core.l1, badL1 := t.core.badL1, task := t.core.task } ∧
        t.others = s.others ∧
        ∀ pa, ¬ Safety.logged s.dev pa →
          (∀ x, regionOf va = .mem → translate s.dev (accOf s) .write va = .ok x →
            ¬ Safety.within (Safety.leafSlot s.dev x) 8 pa ∧ ¬ Safety.stored s.dev x n pa) →
          Safety.unchanged s t pa)

/-- When the address is a multiple of the size and the bytes can be read and written, AMO and CAS complete: x[xd] gets
the old value, sign-extended, and X goes on; AMO.ADD stores the wrapped sum, SWAP the operand, AND, OR and XOR the
bitwise results, MIN and MAX the signed and MINU and MAXU the unsigned extremes, FADD the FP32 sum rounded to nearest even, FMIN
and FMAX the FP32 extremes, 0x7FC00000 for a NaN operand, and CAS stores x[xb] only when the
old value equals the low bits of x[xd]; in the HBM of this device, outside PLEAT pages, the old value is what the home
holds once X's dirty bytes are there, and the new one is what the home holds, and X sees, afterwards. AMO.FADD in a region with DET[1] = 1 raises INSN.PRIV, a misaligned address
ACCESS.ALIGN (R230, R231, R275) (spec/10_memory_instructions.md, Atomics at the home). -/
def Obligations.AtomicWords : Prop :=
  ∀ (s : State) (op : AmoOp) (d a b : BitVec 5) (wide : Bool),
    let n := if wide then 8 else 4
    let w := 8 * n
    let va := (xget s a).toNat
    let B := (xget s b).toNat % 2 ^ w
    let D := (xget s d).toNat % 2 ^ w
    (va % n = 0 → ¬ (op = .fadd ∧ detStrict s = true) → ∀ s1 o, xatomic s va n (.amo op (xget s b)) = .ok (s1, o) →
      exec (.amo op d a b wide) s = .next (Safety.wroteX s1 d (BitVec.ofInt 64 (sint w o)))) ∧
    (va % n = 0 → ∀ s1 o, xatomic s va n (.cas (xget s d) (xget s b)) = .ok (s1, o) →
      exec (.cas d a b wide) s = .next (Safety.wroteX s1 d (BitVec.ofInt 64 (sint w o)))) ∧
    (op = .fadd → detStrict s = true → exec (.amo op d a b wide) s =
      .next (trapX s { cause := .priv, info := BitVec.ofNat 64 (encode (.amo op d a b wide)) })) ∧
    (va % n ≠ 0 →
      exec (.cas d a b wide) s = .next (trapX s { cause := .align, addr := some (BitVec.ofNat 64 va), write := true }) ∧
      (op ≠ .fadd → exec (.amo op d a b wide) s =
        .next (trapX s { cause := .align, addr := some (BitVec.ofNat 64 va), write := true }))) ∧
    (∀ o, rmwNew (.amo op (xget s b)) w o = some (amoNew op w o B) ∧
      rmwNew (.cas (xget s d) (xget s b)) w o = if o = D then some B else none) ∧
    (∀ o, o < 2 ^ w →
      amoNew .swap w o B = B ∧ amoNew .add w o B = (o + B) % 2 ^ w ∧ amoNew .and w o B = o &&& B ∧
      amoNew .or w o B = o ||| B ∧ amoNew .xor w o B = o ^^^ B ∧ sint w (amoNew .min w o B) = Min.min (sint w o) (sint w B) ∧
      sint w (amoNew .max w o B) = Max.max (sint w o) (sint w B) ∧ amoNew .minu w o B = Min.min o B ∧
      amoNew .maxu w o B = Max.max o B) ∧
    (∀ o, let p := FKind.f32.fmt.value o
      let q := FKind.f32.fmt.value B
      amoNew .fadd w o B = (deliverRes .f32 { mode := .rne } (addVal .rne p q)).1 ∧
      amoNew .fmin w o B = (if p.isNan || q.isNan then 0x7FC00000 else repack .f32 (minVal p q)) ∧
      amoNew .fmax w o B = (if p.isNan || q.isNan then 0x7FC00000 else repack .f32 (maxVal p q))) ∧
    (Safety.rising s.dev.l2 → Safety.rising s.core.l1 → regionOf va = .mem →
      ∀ k x s1 o, translate s.dev (accOf s) .both va = .ok x → Safety.plain x n → xatomic s va n k = .ok (s1, o) →
        o = ofBytesLE ((List.range n).map fun i => Safety.cleaned s (x.pa + i)) ∧
        ∀ v, rmwNew k w o = some v → ∀ i < n,
          l2Byte s1.dev (x.pa + i) = (toBytesLE n v).getD i 0 ∧ Safety.seen s1 (x.pa + i) = (toBytesLE n v).getD i 0)

/-- FENCE s is FENCEX X, X, s. A fence in X first acts on memory and then, with nothing pending that it covers, X goes
on at the next word; otherwise X waits at it. With X as its first path and another second path or a scope beyond the
core, every L1 line of the core is clean afterwards, with its bytes as before (R216, R218, R232)
(spec/10_memory_instructions.md, Fences). -/
def Obligations.ScalarFences : Prop :=
  ∀ (s : State) (a b : Path) (sc : Scope),
    exec (.fence sc) s = exec (.fencex .x .x sc) s ∧
    (fencePending (fenceActions s a b sc) .x a sc = false →
      exec (.fencex a b sc) s = .next (Safety.wentOn (fenceActions s a b sc))) ∧
    (fencePending (fenceActions s a b sc) .x a sc = true → ∃ t, exec (.fencex a b sc) s = .next t ∧
      t.core.pc = s.core.pc ∧ t.core.xwait = .fence sc ∧ t.core.x = s.core.x) ∧
    (a = .x → (b ≠ .x ∨ sc ≠ .core) →
      (fenceActions s a b sc).core.l1 = s.core.l1.map fun e => (e.1, { e.2 with dirty := 0 })) ∧
    (fenceActions s a b sc).core.x = s.core.x ∧ (fenceActions s a b sc).core.pc = s.core.pc ∧
    (fenceActions s a b sc).others = s.others

/-- On a clasp that passes the checks of R233: CTRY takes a free clasp and answers 1, or answers 0 and takes nothing;
CACQ takes a free clasp when its core is first in line, and waits at its instruction otherwise; where the partner is the
clasp's home, which may have given it away meanwhile, its answer decides (R319); the owner's CREL,
CBIND with room and a legal length, and CUNB of a bound base complete, and CBIND and CUNB keep the reserved bits beside
NBIND; a CREL, CBIND or CUNB by a task that does not own the clasp raises INSN.OPERAND, and so does a CACQ by the owner
(R233 to R235) (spec/10_memory_instructions.md, Clasps). -/
def Obligations.ClaspWords : Prop :=
  ∀ (s : State) (r a b : BitVec 5) (s1 : State) (c : ClaspView),
    let refused (i : Instr) : Prop := exec i s = .next (trapX s { cause := .operand, info := BitVec.ofNat 64 (encode i) })
    (claspView s (xget s a).toNat .read = .ok (s1, c) →
      (c.owner ≠ 0 → exec (.ctry r a) s = .next (Safety.wroteX s1 r 0)) ∧
      (c.owner = 0 →
        (∀ t, winClasp s1 c = .ok (some t) → exec (.ctry r a) s = .next (Safety.wroteX t r 1)) ∧
        (winClasp s1 c = .ok none → exec (.ctry r a) s = .next (Safety.wroteX (dropAsks s1 .x) r 0)) ∧
        (c.x.remote = none → ∀ t, takeClasp s1 c = .ok t → winClasp s1 c = .ok (some t))) ∧
      (c.owner ≠ frameId s →
        let k := claspKey s1 c
        let s2 := joinLine s1 k
        let first := s2.dev.claspWait.find? fun w => w.1 == k
        (c.owner = 0 → first = some (k, s.core.gcore) →
          (∀ t, winClasp s2 c = .ok (some t) → exec (.cacq a) s = .next (Safety.wentOn t)) ∧
          (winClasp s2 c = .ok none → ∃ t, exec (.cacq a) s = .next t ∧ t.core = { s2.core with xwait := .cacq } ∧
            (k, s2.core.gcore) ∈ t.dev.claspWait)) ∧
        (¬ (c.owner = 0 ∧ first = some (k, s.core.gcore)) → ∃ t, exec (.cacq a) s = .next t ∧
          t.core = { s2.core with xwait := .cacq } ∧ (k, s2.core.gcore) ∈ t.dev.claspWait)) ∧
      (c.owner = frameId s → refused (.cacq a)) ∧
      (c.owner ≠ frameId s → refused (.crel a)) ∧
      (c.owner = frameId s →
        ∀ s2 t, objPut (release s1 c) c.x c.va 8 8 ((c.relcnt + 1) % 2 ^ 64) = .ok s2 → objPut s2 c.x c.va 0 8 0 = .ok t →
          exec (.crel a) s = .next (Safety.wentOn t))) ∧
    (claspView s (xget s a).toNat .both = .ok (s1, c) →
      (c.owner ≠ frameId s → refused (.cbind r a b) ∧ refused (.cunb a b)) ∧
      (c.owner = frameId s →
        (c.nbind < 16 → 0 < (xget s r).toNat → (xget s r).toNat ≤ 2 ^ 40 → ∀ s2 s3 t,
          objPut s1 c.lx c.lva (16 * c.nbind) 8 (xget s b).toNat = .ok s2 →
          objPut s2 c.lx c.lva (16 * c.nbind + 8) 8 (xget s r).toNat = .ok s3 →
          objPut s3 c.x c.va 24 1 (c.nbind + 1 + 32 * c.hi) = .ok t → exec (.cbind r a b) s = .next (Safety.wentOn t)) ∧
        (∀ k, c.regs.findIdx? (fun e => e.1 == (xget s b).toNat) = some k → ∀ s2 t,
          putEntries c k (c.regs.drop (k + 1)) s1 = .ok s2 → objPut s2 c.x c.va 24 1 (c.nbind - 1 + 32 * c.hi) = .ok t →
          exec (.cunb a b) s = .next (Safety.wentOn t)) ∧
        (c.regs.findIdx? (fun e => e.1 == (xget s b).toNat) = none → refused (.cunb a b))))

/-- RWIN with a legal control word, on free lines and with room on every die, opens one window of N keys from key 0 on,
with nothing accepted, and X goes on. RWIN.CANCEL closes the issuer's window of its base, and raises INSN.OPERAND where
there is none. A scalar REDST to an aligned element of an open window of its type, with a key of the window that is
neither applied nor claimed, completes: at the window's next key the element takes its value, at a later key the value
is parked; without a parking line X waits at the instruction, and outside a window it raises ACCESS.WINDOW_CONFLICT
(R237 to R244) (spec/10_memory_instructions.md, Reduction windows). -/
def Obligations.ReductionWindowWords : Prop :=
  (∀ (s : State) (c a b : BitVec 5) (lines : List Nat),
    let base := (xget s a).toNat
    let len := (xget s b).toNat
    let w := (xget s c).toNat
    base % 128 = 0 → len % 128 = 0 → 0 < len → len ≤ 2 ^ 20 → fld w 38 26 = 0 → windowType (tyOf (fld w 0 4)) = true →
    fld w 20 9 ≤ 287 → windowLines s base len 258 base = .ok lines → lineTaken s.dev 0 lines = none → diesFull s.dev lines = false →
    ∃ r : RWin, exec (.rwin c a b) s =
        .next (Safety.wentOn ((drainNops s lines).onDev fun d => { d with rwins := d.rwins ++ [r] })) ∧
      r.asid = s.core.asid ∧ r.base = xget s a ∧ r.lines = lines ∧ r.n = fld w 4 16 + 1 ∧ r.ty = tyOf (fld w 0 4) ∧
      r.next = 0 ∧ r.acc = [] ∧ r.claimed = [] ∧ r.parked = []) ∧
  (∀ (s : State) (a : BitVec 5),
    let mine (w : RWin) : Bool := w.base == xget s a && w.asid == s.core.asid
    (s.dev.rwins.any mine = true → exec (.rwinCancel a) s =
      .next (Safety.wentOn (s.onDev fun d => { d with rwins := d.rwins.filter fun w => !mine w }))) ∧
    (s.dev.rwins.any mine = false → exec (.rwinCancel a) s =
      .next (trapX s { cause := .operand, info := BitVec.ofNat 64 (encode (.rwinCancel a)) }))) ∧
  (∀ (s : State) (k a r : BitVec 5) (ty : Ty) (x : Xlat), windowType ty = true → (xget s a).toNat % groupBytes ty = 0 →
    let va := (xget s a).toNat
    let key := (xget s k).toNat
    let v := (xget s r).setWidth 32 &&& BitVec.ofNat 32 (2 ^ laneBits ty - 1)
    (accOf s).run = 0 → regionOf va = .mem → translate s.dev (accOf s) .both va = .ok x → x.remote = none → x.attr = 0 →
    (∀ w, windowOf s.dev x.pa = some w → ty = w.ty → key < w.n → w.next ≤ key → key ∉ w.claimed →
      (l2Read s.dev x.pa (groupBytes ty)).isSome = true →
      let s1 := correctSoft (s.mark x true) x.pa (groupBytes ty)
      let d := s1.dev
      let w1 := { w with claimed := key :: w.claimed }
      (key = w.next → exec (.redst k a r ty) s =
        .next (advance (keyDone { s1 with dev := applyElem (putWin d w1) ty x.pa v.toNat } w.lines key))) ∧
      (key ≠ w.next → canPark s.dev w key (x.pa / 128) = true → exec (.redst k a r ty) s =
        .next (advance (keyDone { s1 with dev := putWin d { w1 with parked := w1.parked ++ [(key, x.pa, v)] } } w.lines key))) ∧
      (key ≠ w.next → canPark s.dev w key (x.pa / 128) = false →
        exec (.redst k a r ty) s = .next { s with core := { s.core with xwait := .redst } })) ∧
    (windowOf s.dev x.pa = none → exec (.redst k a r ty) s =
      .next (trapX s { cause := .windowConflict, addr := some (BitVec.ofNat 64 va), write := true })))

/-- On an aligned address of a page of this device that takes the write, a scalar near-memory operation of type I32 or F32
completes at acceptance: one operation with X's value joins the accepted ones, and X goes on. At a page whose home is a
peer the home accepts it: X sends it and waits, and goes on with the answer (R319; that an access of X waits for its answer at
its instruction is the model's choice, log 51). Other types raise INSN.OPERAND, and NMADD
of F32 in a region with DET[1] = 1 raises INSN.PRIV. NMFEN goes on when no operation of X is pending, and waits
otherwise (R245 to R247, R275) (spec/10_memory_instructions.md, Near-memory operations). -/
def Obligations.ScalarNearMemoryWords : Prop :=
  ∀ (s : State) (a r : BitVec 5) (ty : Ty) (i : Instr) (op : Nat),
    (i, op) ∈ [(Instr.nmadd a r ty, 0), (Instr.nmmin a r ty, 1), (Instr.nmmax a r ty, 2)] →
    let va := (xget s a).toNat
    let strict := op = 0 ∧ ty = .f32 ∧ detStrict s = true
    let refused (c : Cause) : Prop := exec i s = .next (trapX s { cause := c, info := BitVec.ofNat 64 (encode i) })
    (ty = .i32 ∨ ty = .f32 → ¬ strict → va % 4 = 0 → ∀ t, nopAccept s .x op (decide (ty = .f32)) va ((xget s r).setWidth 32) = .ok t →
      exec i s = .next (advance t)) ∧
    (ty = .i32 ∨ ty = .f32 → ¬ strict → va % 4 = 0 → regionOf va = .mem → ∀ x, translate s.dev (accOf s) .write va = .ok x →
      x.attr ≠ 2 → x.pa < farBase →
      (x.remote = none → placeWriteCheck s.dev (accOf s) x va 4 = .ok () → ∃ t o, exec i s = .next t ∧
        t.dev.nops = s.dev.nops ++ [o] ∧ o.core = s.core.gcore ∧ o.unit = .x ∧ o.pa = x.pa ∧ o.op = op ∧
        o.f32 = decide (ty = .f32) ∧ o.val = (xget s r).setWidth 32 ∧ t.core.pc = s.core.pc + 4 ∧ t.core.x = s.core.x) ∧
      (∀ rank, x.remote = some rank → (∀ q ∈ s.dev.reqs, q.core ≠ s.core.gcore) → s.unit = .x →
        ∃ t, exec i s = .next t ∧ t.core = { s.core with xwait := .access } ∧ t.dev.reqs.length = s.dev.reqs.length + 1 ∧
          t.dev.nops = s.dev.nops)) ∧
    (ty ≠ .i32 → ty ≠ .f32 → refused .operand) ∧ (strict → refused .priv) ∧
    (ty = .i32 ∨ ty = .f32 → ¬ strict → va % 4 ≠ 0 →
      exec i s = .next (trapX s { cause := .align, addr := some (BitVec.ofNat 64 va), write := true })) ∧
    (nopsPending s .x = false → exec .nmfen s = .next (Safety.wentOn s)) ∧
    (nopsPending s .x = true → exec .nmfen s = .next { s with core := { s.core with xwait := .nmfen } })

/-- ECMD with a legal sequencer and an aligned entry is accepted while fewer than four commands are pending: an idle
sequencer starts it with i0 holding the parameter, a running one queues it; with four pending X waits. A bad sequencer
number raises INSN.OPERAND, a misaligned entry INSN.ALIGN_PC. EFEN goes on when the selected sequencers have no
command, and waits otherwise. EFLUSH discards the selected sequencers' commands, unissued words and causes, and goes
on when none has an issued word left, for which it waits (R45, R47, R300) (spec/02_instruction_words.md, Command hand-off;
spec/13_execution_scheduling.md, Semaphores and waits). -/
def Obligations.CommandWords : Prop :=
  (∀ (s : State) (t a b : BitVec 5),
    let u := seqCode t.toNat
    let q := seqOf s u
    let i : Instr := .ecmd t a b
    (0 < t.toNat → t.toNat ≤ 3 → (xget s a).toNat % 8 = 0 →
      (q.queue.length < 4 → q.running = true → exec i s =
        .next (Safety.wentOn (setSeq s u { q with queue := q.queue ++ [(xget s a, xget s b)] }))) ∧
      (q.queue = [] → q.running = false → exec i s =
        .next (Safety.wentOn (setSeq s u { q with pc := xget s a, idx := q.idx.set 0 (xget s b), running := true }))) ∧
      (4 ≤ q.queue.length → exec i s = .next { s with core := { s.core with xwait := .ecmd } })) ∧
    (t.toNat = 0 ∨ 3 < t.toNat → exec i s = .next (trapX s { cause := .operand, info := BitVec.ofNat 64 (encode i) })) ∧
    (0 < t.toNat → t.toNat ≤ 3 → (xget s a).toNat % 8 ≠ 0 → exec i s =
      .next (trapX s { cause := .alignPc, info := BitVec.ofNat 64 (encode i) }))) ∧
  (∀ (s : State) (m : BitVec 3),
    let busy (q : Seq) : Prop := q.running = true ∨ q.queue ≠ []
    let left (u : SeqId) : Prop := (seqOf s u).flushed = true ∨ (seqOf s u).flight ≠ none ∨ stalledWord (seqOf s u) = true
    ((∀ u ∈ maskSeqs m, ¬ busy (seqOf s u)) → exec (.efen m) s = .next (Safety.wentOn s)) ∧
    ((∃ u ∈ maskSeqs m, busy (seqOf s u)) → exec (.efen m) s = .next { s with core := { s.core with xwait := .efen } }) ∧
    (∃ t, exec (.eflush m) s = .next t ∧
      (∀ u ∈ maskSeqs m, (seqOf t u).queue = [] ∧ (seqOf t u).flight = (seqOf s u).flight ∧ (seqOf t u).idx = (seqOf s u).idx ∧
        (left u → (seqOf t u).flushed = true) ∧
        (¬ left u → (seqOf t u).running = false ∧ (seqOf t u).cause = none ∧ (seqOf t u).resume = none)) ∧
      (∀ u, u ∉ maskSeqs m → seqOf t u = seqOf s u) ∧ t.core.x = s.core.x ∧ t.dev = s.dev ∧ t.core.tok = s.core.tok ∧
      ((∀ u ∈ maskSeqs m, ¬ left u) → t.core.pc = s.core.pc + 4 ∧ t.core.xwait = .none) ∧
      ((∃ u ∈ maskSeqs m, left u) → t.core.pc = s.core.pc ∧ t.core.xwait = .eflush)))

/-- TOKS to L, C or S adds a token to X's queue to it while it holds fewer than 16, and raises SYNC.TOKEN_OVF with 16;
TOKR from L, C or S takes a token from its queue to X while it holds one, and raises SYNC.TOKEN_UNF with none. Each
goes on at the next word with nothing else changed. Sequencer 0 raises INSN.OPERAND (R28, R48). SWAIT takes its
threshold when the count has reached it, and waits otherwise. SRD reads a count, SSET writes one of at most 65,535 and
latches event 0 when it raises it (log 75, the model's choice), SEMCFG writes the 7-bit producer mask. SSIG to a core, its own with xa = 0 and otherwise core x[xa],
adds its increment there and latches event 0, where that core holds a task of the same ASID, the mask admits the source (bit 0 for the own
core, bit 6 for another) and the count stays within 65,535; it raises SYNC.SEM_OVF where it would pass, and
ACCESS.PERM where the mask or the task does not admit it. WFE returns the selected latched events and clears
them, and waits while there is none. Operands out of range raise INSN.OPERAND (R292 to R298)
(spec/02_instruction_words.md, Synchronisation fields; spec/13_execution_scheduling.md, Semaphores and waits). -/
def Obligations.TokenAndSemaphoreWords : Prop :=
  (∀ (s : State) (n : BitVec 2), n ≠ 0 →
    let k := n.toNat - 1
    let j := 3 * n.toNat
    (tokens s.core k < 16 → exec (.toks n) s = .next (Safety.wentOn { s with core := setTokens s.core k (tokens s.core k + 1) })) ∧
    (16 ≤ tokens s.core k → exec (.toks n) s = .next (trapX s { cause := .tokenOvf })) ∧
    (0 < tokens s.core j → exec (.tokr n) s = .next (Safety.wentOn { s with core := setTokens s.core j (tokens s.core j - 1) })) ∧
    (tokens s.core j = 0 → exec (.tokr n) s = .next (trapX s { cause := .tokenUnf })) ∧
    exec (.toks 0) s = .next (trapX s { cause := .operand, info := BitVec.ofNat 64 (encode (.toks 0)) }) ∧
    exec (.tokr 0) s = .next (trapX s { cause := .operand, info := BitVec.ofNat 64 (encode (.tokr 0)) })) ∧
  (∀ (s : State) (d a : BitVec 5) (sem thr inc : BitVec 8) (mask : BitVec 6),
    let v := semVal s.core sem
    let x := xget s a
    let refused (i : Instr) : Prop := exec i s = .next (trapX s { cause := .operand, info := BitVec.ofNat 64 (encode i) })
    (thr ≠ 0 → thr.toNat ≤ v → exec (.swait sem thr) s = .next (Safety.wentOn { s with core := semSet s.core sem (v - thr.toNat) })) ∧
    (thr ≠ 0 → v < thr.toNat → exec (.swait sem thr) s = .next { s with core := { s.core with xwait := .swait } }) ∧
    refused (.swait sem 0) ∧
    exec (.srd d sem) s = .next (Safety.wroteX s d (BitVec.ofNat 64 v)) ∧
    (x.toNat ≤ 65535 → exec (.sset a sem) s = .next (Safety.wentOn { s with core := { semSet s.core sem x.toNat with
      ev := if v < x.toNat then s.core.ev ||| 1 else s.core.ev } })) ∧
    (65535 < x.toNat → refused (.sset a sem)) ∧
    (x.toNat < 2 ^ 7 → exec (.semcfg a sem) s = .next (Safety.wentOn { s with core := { s.core with
      semMask := s.core.semMask.set sem.toNat (x.setWidth 7) sem.isLt } })) ∧
    (2 ^ 7 ≤ x.toNat → refused (.semcfg a sem)) ∧
    (inc ≠ 0 → s.core.task.isSome = true → (s.core.semMask[sem.toNat]'sem.isLt).getLsbD 0 = true → v + inc.toNat ≤ 65535 →
      exec (.ssig 0 sem inc) s = .next (Safety.wentOn { s with core := { semSet s.core sem (v + inc.toNat) with ev := s.core.ev ||| 1 } })) ∧
    (∀ g, inc ≠ 0 → g = (if a = 0 then s.core.gcore else x.toNat) → a = 0 ∨ g < 288 → g = s.core.gcore ∨ checking s = false →
      let c := coreAt s g
      let w := semVal c sem
      let admits := c.task.isSome = true ∧ c.asid = s.core.asid ∧
        (c.semMask[sem.toNat]'sem.isLt).getLsbD (if g = s.core.gcore then 0 else 6) = true
      (admits → w + inc.toNat ≤ 65535 → exec (.ssig a sem inc) s =
        .next (Safety.wentOn (putCore s g { semSet c sem (w + inc.toNat) with ev := c.ev ||| 1 }))) ∧
      (admits → 65535 < w + inc.toNat → exec (.ssig a sem inc) s =
        .next (trapX s { cause := .semOvf, info := sem.setWidth 64 })) ∧
      (¬ admits → exec (.ssig a sem inc) s = .next (trapX s { cause := .perm }))) ∧
    (inc ≠ 0 → a ≠ 0 → 288 ≤ x.toNat → refused (.ssig a sem inc)) ∧
    refused (.ssig a sem 0) ∧
    (let e := (s.core.ev ||| (if s.core.wfeHit = true ∨ x = 0 then 0x20 else 0)) &&& mask
     (e ≠ 0 → exec (.wfe d a mask) s = .next (Safety.wroteX { s with core := { s.core with
       ev := s.core.ev &&& ~~~mask, wfeHit := false } } d (e.setWidth 64))) ∧
     (mask ≠ 0 → e = 0 → exec (.wfe d a mask) s =
       .next { s with core := { s.core with xwait := .wfe (mask.getLsbD 5) } })) ∧
    refused (.wfe d a 0))

/-- In a task of no checking run, SPAWN of a sound, aligned record, of a region in the task's subtree whose ready
ring has room, completes: with a join counter it adds 1 to the counter's COUNT, the record goes to the ring, and the
ready work grows by exactly the continuation while the launch counts one more live task. NDONE of a node of a live graph of its ASID with a count
above 0 completes and counts it down, and with a count of 0 raises SYNC.GRAPH_OVF; a table that no live graph has, and
a node beyond the launch's total, raise INSN.OPERAND (R288, R290). JOIN of a sound counter with no waiter goes on when
its COUNT is 0; otherwise, outside a C launch, the task is recorded as the waiter and X goes on with its context save
begun, and in a C launch X waits in place. YIELD begins a context save when the task is page-pending or other work
could take the core, and otherwise only goes on. TEXIT waits for commands and posted programs, writes its
L1 back, waits until the task's accesses are performed, and then ends the task: a task without a join counter leaves its core with no task (R288, R316)
(spec/13_execution_scheduling.md, Tasks; spec/13_execution_scheduling.md, Task graphs). -/
def Obligations.TaskWords : Prop :=
  ((∀ (s s1 r s2 : State) (a : BitVec 5) (t : Task) (l : Launch) (bs : List Byte) (path : List Eff) (e : Eff),
    let k := (contOf (ofBytesLE bs)).1
    let w : Work := { launch := l.id, region := k.region, prio := min k.prio e.prio, first := false, kind := .spawned k }
    s.core.task = some t → ownLaunch s = some l → checking s = false → (xget s a).toNat % 32 = 0 →
    xread s .b (xget s a).toNat 32 = .ok (s1, bs) → k.code.toNat % 4 = 0 → (contOf (ofBytesLE bs)).2 < 2 ^ 20 →
    (k.join = 0 → r = s1 ∧ s2 = s1) →
    (k.join ≠ 0 → ∃ x n v, readCounter s1 k.join.toNat = .ok (r, x, n, v) ∧ n ≠ 2 ^ 64 - 1 ∧
      ∃ r' x' n' v', readCounter r k.join.toNat = .ok (r', x', n', v') ∧ objPut r' x' k.join.toNat 0 8 (n' + 1) = .ok s2) →
    ownSubtree l t k.region = some path → headEff path = some e → ringCount r.dev e.rqbase < e.qslots →
    let s3 := ringPut s2 e (contBytes k.code k.frame k.join k.region k.prio false)
    exec (.spawn a) s =
      .next (advance { s3 with dev := putLaunch (addReady s3.dev w) { l with live := l.live + 1 } })) ∧
  (∀ (s : State) (a b : BitVec 5),
    let found := s.dev.launches.find? fun l => launchAsid l == s.core.asid && ((liveGraph l).map (·.table)) == some (xget s a)
    let n := (xget s b).toNat
    let refused (c : Cause) : Prop := exec (.ndone a b) s =
      .next (trapX s { cause := c, info := if c = .operand then BitVec.ofNat 64 (encode (.ndone a b)) else 0 })
    (found = none → refused .operand) ∧
    (∀ l g, found = some l → liveGraph l = some g →
      let ac := { accDev s.dev (launchAsid l) with unit := some (s.core.gcore, .x) }
      (l.total ≤ n → refused .operand) ∧
      (n < l.total → ∀ s1 v, nodeCounter s ac g n = .ok (s1, v) →
        (v = 0 → refused .graphOvf) ∧
        (1 < v → ∀ s2, putCounter s1 ac l g n (v - 1) = .ok s2 → exec (.ndone a b) s = .next (advance s2)) ∧
        (v = 1 → ∀ s2, putCounter s1 ac l g n 0 = .ok s2 → readWaits s2 ac ((xget s a).toNat + 64 * n) 32 = none →
          exec (.ndone a b) s = .next (advance (nodeReady s2 l ac (xget s a).toNat n))))))) ∧
  ((∀ (s s1 : State) (a : BitVec 5) (x : Xlat) (n w : Nat), readCounter s (xget s a).toNat = .ok (s1, x, n, w) →
    let inC := ((ownLaunch s).map fun l => l.cls == 2).getD false
    (w ≠ 0 → exec (.join a) s = .next (trapX s { cause := .operand, info := BitVec.ofNat 64 (encode (.join a)) })) ∧
    (w = 0 → n = 0 → exec (.join a) s = .next (Safety.wentOn s1)) ∧
    (w = 0 → n ≠ 0 → inC = true → exec (.join a) s = .next { s1 with core := { s1.core with xwait := .join } }) ∧
    (w = 0 → n ≠ 0 → inC = false → ∀ s2, objPut s1 x (xget s a).toNat 8 8 (frameId s) = .ok s2 →
      exec (.join a) s = .next (Safety.wentOn { s2 with core := { s2.core with saving := some (.join (xget s a)) } }))) ∧
  (∀ (s : State) (t : Task) (l : Launch), s.core.task = some t → ownLaunch s = some l →
    (l.cls ≠ 2 → t.pagePending = true ∨ otherWork s t = true →
      exec .yield s = .next (Safety.wentOn { s with core := { s.core with saving := some .yield } })) ∧
    (l.cls = 2 ∨ t.pagePending = false ∧ otherWork s t = false → exec .yield s = .next (Safety.wentOn s)) ∧
    (exitPending s = true → exec .texit s = .next { s with core := { s.core with xwait := .texit } }) ∧
    (exitPending s = false → accessesPending (flushL1 s) = true →
      exec .texit s = .next { flushL1 s with core := { (flushL1 s).core with xwait := .texit } }) ∧
    (exitPending s = false → accessesPending (flushL1 s) = false → t.join = 0 →
      ∃ t', exec .texit s = .next t' ∧ t'.core.task = none ∧ t'.core.gcore = s.core.gcore)))

/-- For a task of the Seam ASID outside a checking launch, TBEGIN with the node open, or idle and not held by a
scrubber, completes: the attempt is open, TXN_AID names it, x[xd] holds its AID, and a task that joins it anew has its
sequence numbers snapshot; otherwise it waits. A task of another ASID raises ACCESS.PERM; both checks are made before the
wait. TFLAG of a joined, open attempt adds its flags when x[xb] is not 0 or xb is 0; of another it raises TXN.NO_ATTEMPT, with
TXN_AID in TRAP_INFO (log 29, the model's choice). PFLUSH goes on when no posted program
or near-memory operation of the core is pending. TSTAT reads SEAMST (R350 to R353, R356)
(spec/16_step_transactions.md, Instructions). -/
def Obligations.AttemptWords : Prop :=
  ∀ (s : State) (r a b : BitVec 5),
    let m := s.dev.seam
    let own := seamEn s.dev = true ∧ s.core.asid = seamAsid s.dev
    let may := s.core.xwait = .tbegin ∨ own ∧ inCheck s = false
    let free := isOpen s = true ∨ m.state = .idle ∧ scrubHold s.dev = false
    (s.core.xwait ≠ .tbegin → ¬ own → exec (.tbegin r) s = .next (trapX s { cause := .perm })) ∧
    (s.core.xwait ≠ .tbegin → own → inCheck s = true → exec (.tbegin r) s =
      .next (trapX s { cause := .operand, info := BitVec.ofNat 64 (encode (.tbegin r)) })) ∧
    (may → free →
      ∃ t, exec (.tbegin r) s = .next (Safety.wroteX t r (m.aid.setWidth 64)) ∧ t.dev.seam.state = .opened ∧
        t.dev.seam.aid = m.aid ∧ t.core.txnAid = some m.aid ∧ t.core.x = s.core.x ∧ t.core.pc = s.core.pc ∧
        (isOpen s = true → t.dev = s.dev) ∧
        (isOpen s = false → t.dev = openAttempt s.dev) ∧
        t.core.snapshot = (if s.core.txnAid = some m.aid then s.core.snapshot else some s.core.seqno)) ∧
    (may → ¬ free → exec (.tbegin r) s = .next { s with core := { s.core with xwait := .tbegin } }) ∧
    ((xget s a).toNat < 64 → isOpen s = true → joinedA s = true →
      (b = 0 ∨ xget s b ≠ 0 → ∃ t, exec (.tflag a b) s = .next (Safety.wentOn t) ∧ t.core = s.core ∧
        t.dev = flagAttempt s.dev ((xget s a).setWidth 6)) ∧
      (b ≠ 0 → xget s b = 0 → exec (.tflag a b) s = .next (Safety.wentOn s))) ∧
    ((xget s a).toNat < 64 → isOpen s = false ∨ joinedA s = false → exec (.tflag a b) s =
      .next (trapX s { cause := .noAttempt, info := (s.core.txnAid.getD 0).setWidth 64 })) ∧
    (64 ≤ (xget s a).toNat → exec (.tflag a b) s =
      .next (trapX s { cause := .operand, info := BitVec.ofNat 64 (encode (.tflag a b)) })) ∧
    (flushPending s = false → exec .pflush s = .next (Safety.wentOn s)) ∧
    (flushPending s = true → exec .pflush s = .next { s with core := { s.core with xwait := .pflush } }) ∧
    exec (.tstat r) s = .next (Safety.wroteX s r (seamst m))

/-- SVOTE of the open attempt by a task that joined it, with nothing to flush and no checking run outstanding, casts
the device's vote with its flags, and X goes on; with something outstanding it waits; of another attempt it raises
TXN.NO_ATTEMPT, with TXN_AID in TRAP_INFO, as TWAIT does of an attempt that is neither (log 29, the model's choice). TWAIT of the last decided attempt returns the decision: the AID, the outcome, the flags and the rank;
and when it was aborted and is the attempt that the task joined, the sequence numbers return to their snapshot. TWAIT
of an undecided attempt waits, and the decision releases it in the step that applies it. An SVOTE that waits goes on once its attempt is
over, by a decision or by the local abort of R338, which the model takes for one (log 94) (R345, R354, R355)
(spec/16_step_transactions.md, Instructions). -/
def Obligations.VoteAndWait : Prop :=
  ∀ (s : State) (r a b : BitVec 5),
    let m := s.dev.seam
    let A := xget s a
    (inCheck s = false → A.toNat < 2 ^ 16 → (xget s b).toNat < 64 → isOpen s = true → A = m.aid.setWidth 64 → txnValid s = true →
      (flushPending s = false → checkOutstanding s.dev = false →
        exec (.svote a b) s = .next (Safety.wentOn (castVote s ((xget s b).setWidth 6)))) ∧
      (flushPending s = true ∨ checkOutstanding s.dev = true →
        exec (.svote a b) s = .next { s with core := { s.core with xwait := .svote } })) ∧
    (inCheck s = false → A.toNat < 2 ^ 16 → (xget s b).toNat < 64 → s.core.xwait = .svote →
      seamEn s.dev = false ∨ hasAid m = false ∨ A ≠ m.aid.setWidth 64 → exec (.svote a b) s = .next (Safety.wentOn s)) ∧
    (inCheck s = false → A.toNat < 2 ^ 16 → (xget s b).toNat < 64 → s.core.xwait ≠ .svote →
      isOpen s = false ∨ A ≠ m.aid.setWidth 64 ∨ txnValid s = false → exec (.svote a b) s =
        .next (trapX s { cause := .noAttempt, info := (s.core.txnAid.getD 0).setWidth 64 })) ∧
    (inCheck s = false → A = m.lAid.setWidth 64 →
      let v := BitVec.ofNat 64 (m.lAid.toNat + 2 ^ 16 * m.lOut.toNat + 2 ^ 18 * m.lFlags.toNat + 2 ^ 24 * m.frank)
      ∃ t, exec (.twait r a) s = .next (Safety.wroteX t r v) ∧ t.core.x = s.core.x ∧ t.dev = s.dev ∧
        (∀ q, s.core.snapshot = some q → m.lOut = 2 → s.core.txnAid = some m.lAid → t.core.seqno = q ∧ t.core.snapshot = none) ∧
        (s.core.snapshot = none ∨ m.lOut ≠ 2 → t.core.seqno = s.core.seqno)) ∧
    (inCheck s = false → A = m.aid.setWidth 64 → m.aid ≠ m.lAid → m.state = .opened ∨ m.state = .voted →
      exec (.twait r a) s = .next { s with core := { s.core with xwait := .twait r m.aid } }) ∧
    (A.toNat < 2 ^ 16 → inTwait s.core = false → A ≠ m.lAid.setWidth 64 → attemptLive s.dev = false ∨ A ≠ m.aid.setWidth 64 →
      exec (.twait r a) s = .next (trapX s { cause := .noAttempt, info := (s.core.txnAid.getD 0).setWidth 64 })) ∧
    (∀ n f g x, s.core.xwait = .twait r m.aid → s.core.saving = none → (applyDecision s n f g x).core.xwait = .none ∧
      (applyDecision s n f g x).core.pc = s.core.pc + 4)

/-- Where it may issue, each sequencing word completes with its own effect on top of the issue actions. ENOP and ESTOP
go on at PC + 8; EJMP goes to PC + 8 × its offset; EBR does so when its condition on two index registers holds; ELOOP
and LOOP count an index register down and branch while it is not 0, and LOOP takes 1 from VRB and PRB; ISET and IADD
write or add a sign-extended immediate; RBSET sets VRB and PRB; ILD loads an index register with 64 bits read at L2
from an aligned address. Nothing else changes (spec/02_instruction_words.md, Engine sequencing;
spec/02_instruction_words.md, Synchronisation fields). -/
def Obligations.EngineSequencingWords : Prop :=
  ∀ (y : Sync) (u : SeqId) (i ia ib : BitVec 4) (cc : ECond) (off18 : BitVec 18) (off21 : BitVec 21) (imm : BitVec 25)
    (off29 : BitVec 29) (vrb : BitVec 5) (prb : BitVec 3),
    let seqNext : State → Word → Word := fun _ pc => pc + 8
    let far (n : Int) : State → Word → Word := fun _ pc => pc + BitVec.ofInt 64 (8 * n)
    let same : State → Flight → Flight := fun _ f => f
    let reg (t : State) (r : BitVec 4) : Word := iget (seqOf t u) r
    let holds (t : State) : Prop :=
      match cc with
      | .eq => reg t ia = reg t ib
      | .ne => reg t ia ≠ reg t ib
      | .lt => (reg t ia).toInt < (reg t ib).toInt
      | .ge => (reg t ib).toInt ≤ (reg t ia).toInt
      | .ltu => (reg t ia).toNat < (reg t ib).toNat
      | .geu => (reg t ib).toNat ≤ (reg t ia).toNat
    let set (t : State) (r : BitVec 4) (v : Word) : State := setSeq t u (iset (seqOf t u) r v)
    let always : State → Prop := fun _ => True
    Safety.engineWord (.enop y) y u always id seqNext same ∧
    Safety.engineWord (.estop y) y u always id seqNext (fun _ f => { f with estop := true }) ∧
    Safety.engineWord (.ejmp y off29) y u always id (far off29.toInt) same ∧
    (∀ s, Safety.issues s u y →
      let t := issueTake s u y
      let pc := (seqOf s u).pc
      let i := Instr.ebr y cc ia ib off18
      (holds t → exec i s = .next (Safety.flown t u (pc + BitVec.ofInt 64 (8 * off18.toInt)) (Safety.flight u y i pc))) ∧
      (¬ holds t → exec i s = .next (Safety.flown t u (pc + 8) (Safety.flight u y i pc)))) ∧
    Safety.engineWord (.eloop y i imm) y u always (fun t => set t i (reg t i - 1))
      (fun t pc => if reg t i = 1 then pc + 8 else pc + BitVec.ofInt 64 (8 * imm.toInt)) same ∧
    (u = .c → Safety.engineWord (.loop y i imm) y u always
      (fun t =>
        let t := set t i (reg t i - 1)
        { t with core := { t.core with vrb := t.core.vrb - 1, prb := t.core.prb - 1 } })
      (fun t pc => if reg t i = 1 then pc + 8 else pc + BitVec.ofInt 64 (8 * imm.toInt)) same) ∧
    Safety.engineWord (.iset y i imm) y u always (fun t => set t i (BitVec.ofInt 64 imm.toInt)) seqNext same ∧
    Safety.engineWord (.iadd y i imm) y u always (fun t => set t i (reg t i + BitVec.ofInt 64 imm.toInt)) seqNext same ∧
    (u = .c → Safety.engineWord (.rbset y vrb prb) y u always
      (fun t => { t with core := { t.core with vrb := vrb, prb := prb } }) seqNext same) ∧
    (∀ s, Safety.issues s u y →
      let t := issueTake s u y
      let pc := (seqOf s u).pc
      let a := reg t ib + BitVec.ofInt 64 (8 * off21.toInt)
      ∀ s1 v, a.toNat % 8 = 0 → vread64 t (accOf t) a.toNat = .ok (s1, v) →
        exec (.ild y i ib off21) s =
          .next (Safety.flown (setSeq s1 u (iset (seqOf s1 u) i v)) u (pc + 8) (Safety.flight u y (.ild y i ib off21) pc)))

/-- A word waits first for its semaphore count, then for its incoming token, then for room for its outgoing token (16
at most), and last while its count is claimed by waiters that come first: X, L, C, S, then the copy engines of the task
in ascending number (R26; what a waiter that comes first claims of the count is the model's choice, log 89). Every engine word whose conditions are unmet either stops at decode with a cause of class INSN, or
changes nothing at all but the wait that its sequencer shows. Issue takes the threshold from the count and one token
from the incoming queue, and nothing else changes; a word with WTHR = 0 takes no count. An engine word at a sequencer
whose letter its opcode row does not give raises INSN.SEQ_MISMATCH there, and has no other effect: no count or token is
taken (spec/02_instruction_words.md, Synchronisation fields; spec/13_execution_scheduling.md, Semaphores and waits;
spec/02_instruction_words.md, Opcode maps; spec/17_faults_and_traps.md, Precision and the other sequencers). -/
def Obligations.IssueConditions : Prop :=
  (∀ (s : State) (u : SeqId) (y : Sync),
    let short := y.wthr ≠ 0 ∧ semVal s.core y.wsem < y.wthr.toNat
    let noToken (k : Nat) := tkiQueue u y.tki = some k ∧ tokens s.core k = 0
    let full (k : Nat) := tkoQueue u y.tko = some k ∧ 16 ≤ tokens s.core k
    let claimed := y.wthr ≠ 0 ∧ semVal s.core y.wsem < Safety.claimed s u y.wsem + y.wthr.toNat
    (short → issueWait s u y = some (.sem y.wsem y.wthr)) ∧
    (¬ short → ∀ k, noToken k → issueWait s u y = some (.pop (queueEnds k).1 (queueEnds k).2)) ∧
    (¬ short → (∀ k, ¬ noToken k) → ∀ k, full k → issueWait s u y = some (.push (queueEnds k).1 (queueEnds k).2)) ∧
    (¬ short → (∀ k, ¬ noToken k) → (∀ k, ¬ full k) → claimed → issueWait s u y = some (.sem y.wsem y.wthr)) ∧
    (¬ short → (∀ k, ¬ noToken k) → (∀ k, ¬ full k) → ¬ claimed → issueWait s u y = none) ∧
    (∀ i w, i.sync? = some y → s.unit = .seq u → noUnit u = false → (seqOf s u).flight = none → (seqOf s u).resume = none →
      issueWait s u y = some w →
      exec i s = .next (waitSeq s u w) ∨
        ∃ c, causeClass c.cause = 0 ∧ c.issued = false ∧ exec i s = .next (raiseWord s u i c)) ∧
    ((issueTake s u y).dev = s.dev ∧ (issueTake s u y).others = s.others ∧
      (issueTake s u y).core = { s.core with sem := (issueTake s u y).core.sem, tok := (issueTake s u y).core.tok } ∧
      (y.wthr = 0 → (issueTake s u y).core.sem = s.core.sem) ∧
      (y.wthr ≠ 0 → ¬ short → (issueTake s u y).core.sem =
        s.core.sem.set y.wsem.toNat (s.core.sem[y.wsem.toNat] - y.wthr.setWidth 16)) ∧
      ∀ k, tokens (issueTake s u y).core k =
        if tkiQueue u y.tki = some k then tokens s.core k - 1 else tokens s.core k)) ∧
  (∀ (s : State) (u : SeqId) (i : Instr) (y : Sync),
    i.sync? = some y → s.unit = .seq u → noUnit u = false → (seqOf s u).flight = none →
    ¬ Safety.runsIn u i → exec i s = .next (stopWord s u i { cause := .seqMismatch }) ∧
      ((seqOf s u).resume = none → stopWord s u i { cause := .seqMismatch } = raiseWord s u i { cause := .seqMismatch }))

/-- When the word in flight of a sequencer of the core in focus is complete and the sequencer is not flushed, WORD_RETIRE
joins its flags to VFSTAT, counts the queue vectors that it popped as held no more, sends its token and applies its signal
of 1, 2 or 4 to its semaphore, which the semaphore mask must admit and which must not pass 65,535; then the sequencer has no
word in flight but those that issued past it, of which the first is next to retire. The word that ends a command latches
the event, and the sequencer starts its next queued command or is idle; of a copy engine the program ends. A refused signal
stops the sequencer: SYNC.SEM_OVF with the semaphore in TRAP_INFO or ACCESS.PERM, at the next word, or at the ESTOP itself
(R25, R27, R49, R298) (spec/02_instruction_words.md, Synchronisation fields;
spec/02_instruction_words.md, Command hand-off; spec/13_execution_scheduling.md, Semaphores and waits). -/
def Obligations.WordRetirement : Prop :=
  ∀ (s : State) (u : SeqId) (f : Flight),
    let n := if f.sinc = 0 then 0 else 2 ^ (f.sinc.toNat - 1)
    let bitOf := s.core.semMask[f.ssem.toNat].getLsbD (sourceBit u)
    let old := s.core.sem[f.ssem.toNat].toNat
    let q := seqOf s u
    let signalled : BitVec 6 := if n = 0 then 0 else 1
    noUnit u = false → q.flight = some f → q.flushed = false → ownSeq s u = true → mayRetire s u f = true →
    ((n = 0 ∨ (bitOf = true ∧ old + n ≤ 65535)) → ∃ t, exec (.wordRetire u) s = .next t ∧
      t.core.vfstat = s.core.vfstat ||| f.flags.setWidth 64 ∧ t.core.q = (f.held.foldl dropHeld s.core).q ∧
      t.core.x = s.core.x ∧ t.core.pc = s.core.pc ∧ t.dev.hbm = s.dev.hbm ∧
      (∀ m : BitVec 8, t.core.sem[m.toNat] = if m = f.ssem ∧ n ≠ 0 then BitVec.ofNat 16 (old + n) else s.core.sem[m.toNat]) ∧
      (∀ k, k < 12 → tokens t.core k = if f.tko = some k then tokens s.core k + 1 else tokens s.core k) ∧
      (f.estop = false → t.core.ev = s.core.ev ||| signalled ∧
        seqOf t u = { q with flight := q.early.head?, early := q.early.tail, undo := (q.early.head?).bind (·.back) }) ∧
      (f.estop = true → isCopy u = false → t.core.ev = s.core.ev ||| signalled ||| 4 ∧
        seqOf t u = nextCommand { q with
          flight := none, early := [], undo := none, cause := none, delivered := false, resume := none, flushed := false
          wait := .none, drained := false }) ∧
      (f.estop = true → ∀ m (h : m < 48), u = .e m → t.core.ev = s.core.ev ||| signalled ||| 8 ∧
        (t.dev.ce[m]'h).prog = none ∧ (t.dev.ce[m]'h).posts = (s.dev.ce[m]'h).posts ∧ (seqOf t u).running = false)) ∧
    (n ≠ 0 → (bitOf = false ∨ 65535 < old + n) → ∃ t c, exec (.wordRetire u) s = .next t ∧
      (seqOf t u).flight = q.early.head? ∧ (seqOf t u).running = q.running ∧ (seqOf t u).cause = some c ∧
      c.pc = (if f.estop then f.pc else q.pc) ∧ c.estop = f.estop ∧ t.core.sem = s.core.sem ∧
      c.cause = (if bitOf then .semOvf else .perm) ∧ c.info = (if bitOf then f.ssem.setWidth 64 else 0))

/-- In L and S: GCFG reads the 64 bytes at i[ib] + 64 × off at L2, and where the address is a multiple of 64 and the
descriptor is static-valid, stores it in g[g] with POS = 0; a misaligned address is ACCESS.ALIGN, a descriptor that is
not static-valid INSN.OPERAND. GSET replaces one field of the descriptor of g[g] with the value of i[ia] and sets POS
to 0; a value outside the range of the field, or a result that is not static-valid, is INSN.OPERAND. The words of C in flight no longer restore the
position of that register when they stop. Nothing else
changes but the issue actions and the word in flight (spec/04_operand_streams.md, Transfer and stream instructions).
-/
def Obligations.StreamRegisterWords : Prop :=
  ∀ (s : State) (y : Sync) (u : SeqId) (g ia ib : BitVec 4) (off : BitVec 21) (fl : GField),
    Safety.issues s u y → (u = .l ∨ u = .s) →
    let t := issueTake s u y
    let pc := (seqOf s u).pc
    let a := (iget (seqOf s u) ib + BitVec.ofInt 64 (64 * off.toInt)).toNat
    let i := Instr.gcfg y g ib off
    let j := Instr.gset y g fl ia
    let put (t : State) (n : Nat) : State := setStream t g (BitVec.ofNat 512 n)
    (∀ s1 bs, a % 64 = 0 → vread t (accOf t) .l2 a 64 = .ok (s1, bs) →
      (staticValid (ofBytesLE bs) = true →
        exec i s = .next (Safety.flown (put s1 (ofBytesLE bs)) u (pc + 8) (Safety.flight u y i pc))) ∧
      (staticValid (ofBytesLE bs) = false → exec i s = .next (raiseWord t u i { cause := .operand, issued := true }))) ∧
    (a % 64 ≠ 0 → exec i s =
      .next (raiseWord t u i { cause := .align, addr := some (BitVec.ofNat 64 a), issued := true })) ∧
    (∀ n, gsetResult s u g fl ia = some n →
      exec j s = .next (Safety.flown (put t n) u (pc + 8) (Safety.flight u y j pc))) ∧
    (gsetResult s u g fl ia = none → exec j s = .next (raiseWord s u j { cause := .operand })) ∧
    (let v := iget (seqOf s u) ia
      let old := descOf (gget s.core g).desc.toNat
      ∀ n, gsetResult s u g fl ia = some n → staticValid n = true ∧
        (fl = .base → (descOf n).base = v.toNat ∧ v.toNat < 2 ^ 57) ∧
        (fl = .n0 → (descOf n).n0 = v.toNat ∧ 1 ≤ v.toNat ∧ v.toNat ≤ 65536) ∧
        (fl = .s3 → (descOf n).s3 = v.toInt) ∧
        (fl = .sstr → (descOf n).sstr = v.toInt) ∧
        (fl = .dir → (descOf n).push = decide (v.toNat = 1) ∧ v.toNat < 2) ∧
        (fl = .pos → descOf n = old)) ∧
    (∀ t n, let r := put t n
      gget r.core g = { desc := BitVec.ofNat 512 n, pos := 0 } ∧ (∀ k, k ≠ g → gget r.core k = gget t.core k) ∧
        r.core.l = t.core.l ∧ r.core.s = t.core.s ∧ r.core.x = t.core.x ∧ r.core.v = t.core.v ∧ r.dev = t.dev ∧ r.others = t.others)

/-- LDS and MCAST (L and the copy engines), STS (S and the copy engines) and BCOPY (all but C): where the word may
issue, its fields and its passes are legal, every group of the source can be read (or every vector of the source queue
popped), the word's turn is not cut short, and every write of the destination pass lands, the word completes: memory and
windows are as after the last write, in the window of the word (MCAST: every window of CMASK), a source queue has lost
the vectors of the pass, and nothing else changes but the issue actions and the word in flight
(spec/04_operand_streams.md, Transfer and stream instructions). -/
def Obligations.TransferWords : Prop :=
  ∀ (s : State) (y : Sync) (u : SeqId) (o : XOp),
    Safety.issues s u y → s.part = none →
    let t := issueTake s u y
    let pc := (seqOf s u).pc
    let move (i : Instr) (m : Move) : Prop :=
      moveDecode m o s u = .ok () → moveEarly m o s u = .ok () →
      ∀ s0 e, fetchEnds noOwn m o t u = .ok (s0, e) →
      let p := pull s0 u e none 0
      p.halt = .done →
      let plan := (p.grps.map (planGroup e.dd)).flatten
      let sides := if m.multi then castSides t u e.dd else [sideOf t u e.dd]
      ∀ s2, writePlan (.seq u) (accOf t) sides e.dd.ty plan plan (if e.dd.mem then markDest p.s (accOf t) e.dd else p.s) = (s2, none) →
        exec i s = .next (Safety.flown s2 u (pc + 8) (Safety.movedFlight e p (Safety.flight u y i pc)))
    (u = .l ∨ isCopy u = true → move (.lds y o) { srcMem := true }) ∧
    (u = .s ∨ isCopy u = true → move (.sts y o) { srcWin := true, dstMem := true, queue := true }) ∧
    (u = .l ∨ isCopy u = true → move (.mcast y o) { srcMem := true, multi := true }) ∧
    (u ≠ .c → move (.bcopy y o) { srcWin := true })

/-- Writing a plan of groups into windows leaves every window byte that no planned write covers, every byte of another
cluster and all of memory as before; a written byte whose mask is full holds the planned byte. Reading a pass from a
window or from memory changes no window byte and no swizzle tag (spec/04_operand_streams.md, Transfer and stream
instructions; spec/04_operand_streams.md, The cluster window). -/
def Obligations.TransferFrame : Prop :=
  ∀ (s : State) (u : UnitId) (a : Acc) (cl : Nat) (ty : Ty) (d : Desc) (n i : Nat),
    (∀ (plan : List Wr) t c, writePlan u a [.win cl] ty plan plan s = (t, c) →
      t.dev.hbm = s.dev.hbm ∧ t.dev.far = s.dev.far ∧ t.dev.l2 = s.dev.l2 ∧ t.core = s.core ∧ t.others = s.others ∧
      ∀ k w : Nat, w < 2 ^ 23 →
        (k ≠ cl ∨ ∀ x ∈ plan, (w : Int) < x.addr ∨ x.addr + x.bytes.length ≤ w) → winByte t.dev k w = winByte s.dev k w) ∧
    (∀ (x : Wr) t, writePlan u a [.win cl] ty [x] [x] s = (t, none) → x.bytes ≠ [] → (∀ b ∈ x.bytes, b.2 = 0xFF) →
      ∀ j (h : j < x.bytes.length), winByte t.dev cl (x.addr.toNat + j) = (x.bytes[j]'h).1 ∧
        tagOf t.dev cl ((x.addr.toNat + j) / 128) = x.mode % 8) ∧
    (∀ side : Side, (readPass u a side d n i s).1.dev.win = s.dev.win ∧ (readPass u a side d n i s).1.dev.tags = s.dev.tags)

/-- GATH (L and the copy engines) and SCAT (S and the copy engines) complete where their three passes are legal, every
row number and group can be read and every write lands. REDST, NMADD, NMMIN and NMMAX of S and the copy engines
complete where their ends are legal, the source can be read and every element is accepted; REDST then reports its key to
its window as accepted whole. The turn of the word is not cut short. NMADD on F32 with DET[1] = 1 raises INSN.PRIV
instead (spec/10_memory_instructions.md, Gather and scatter; spec/10_memory_instructions.md, Reduction windows;
spec/10_memory_instructions.md, Near-memory operations). -/
def Obligations.GatherScatterWords : Prop :=
  ∀ (s : State) (y : Sync) (u : SeqId) (g : GOp) (o : XOp) (ik : BitVec 4),
    Safety.issues s u y → s.part = none →
    let t := issueTake s u y
    let pc := (seqOf s u).pc
    let a := accOf t
    let rows (gath : Bool) (f : State → Rows → Prop) : Prop :=
      rowsDecode g s u = .ok () → rowsEarly gath g s u = .ok () → ∀ s0 l, fetchRows gath g t u = .ok (s0, l) → f s0 (rowsIn gath l)
    let put (i : Instr) (own : Ends → Res Unit) (m : Move) (f : Ends → State → Grp → Nat → Res (Option State))
        (fin : Ends → State → State) : Prop :=
      moveDecode m o s u = .ok () → moveEarly m o s u = .ok () →
      ∀ s0 e, fetchEnds own m o t u = .ok (s0, e) →
      let p := pull s0 u e none 0
      p.halt = .done →
      ∀ s2, putElems (f e) e.dd p.grps (markDest p.s a e.dd) = (s2, .done) →
        exec i s = .next (Safety.flown (fin e s2) u (pc + 8) (Safety.movedFlight e p (Safety.flight u y i pc)))
    let near (i : Instr) (op : Nat) : Prop := put i (nopPriv op t) nopMove (nopPut op u) fun _ v => v
    (u = .l ∨ isCopy u = true → rows true fun s0 r =>
      ∀ s1 gs, gatherGrps u r r.wd.groups 0 s0 = (s1, gs, none) →
      let plan := (gs.map (planGroup r.wd)).flatten
      ∀ s2, writePlan (.seq u) (accOf s0) [sideOf s0 u r.wd] r.wd.ty plan plan s1 = (s2, none) →
        exec (.gath y g) s = .next (Safety.flown s2 u (pc + 8) (Safety.flight u y (.gath y g) pc))) ∧
    (u = .s ∨ isCopy u = true →
      (rows false fun s0 r =>
        ∀ s1 gs, readPass (.seq u) (accOf s0) (sideOf s0 u r.wd) r.wd r.wd.groups 0 s0 = (s1, gs, none) →
        ∀ s2, scatterGrps u r gs s1 = (s2, none) →
          exec (.scat y g) s = .next (Safety.flown s2 u (pc + 8) (Safety.flight u y (.scat y g) pc))) ∧
      put (.redstEngine y o ik) noOwn redstMove (fun e => redstPut e.dd (iget (seqOf t u) ik).toNat)
        (fun e v => match firstWindow v e.dd with
          | some l => keyDone v l (iget (seqOf t u) ik).toNat
          | none => v) ∧
      near (.nmaddEngine y o) 0 ∧ near (.nmminEngine y o) 1 ∧ near (.nmmaxEngine y o) 2 ∧
      (moveDecode nopMove o s u = .ok () → moveEarly nopMove o s u = .ok () →
        ∀ s0 l, fetchDescs nopMove o t u = .ok (s0, l) → (endsOf o l).srcTy = .f32 → detStrict s = true →
          exec (.nmaddEngine y o) s = .next (raiseWord t u (.nmaddEngine y o) { cause := .priv, issued := true })))

/-- FENCEX in L, S and the copy engines and NMFEN in S and the copy engines complete where they may issue: FENCEX
takes its actions on the caches at once and marks what it covers, the writes of its path A at the far-tier port and, with A = P,
the accesses that a moving page holds; NMFEN changes nothing, and the word is in flight. It may retire, unless its sequencer is frozen, exactly when
what it covers is finished: with A = N and for NMFEN no accepted near-memory operation of the unit is unperformed, with A = P
no marked access is held, and
at scope SYSTEM no marked write is on its way to the far tier, nor with A the unit's path a transfer of the unit to a peer
(R217 to R219)
(spec/09_ordering_model.md, Fences; spec/10_memory_instructions.md, Fences). -/
def Obligations.EngineFences : Prop :=
  ∀ (s : State) (y : Sync) (u : SeqId) (a b : Path) (sc : Scope),
    let plain : State → Word → Word := fun _ pc => pc + 8
    (u ≠ .c → Safety.engineWord (.fencexEngine y a b sc) y u (fun _ => True) (fun t => markFence (fenceActions t a b sc) (.seq u) a) plain
      (fun _ f => { f with kind := .fence a sc })) ∧
    (u = .s ∨ isCopy u = true → Safety.engineWord (.nmfenEngine y) y u (fun _ => True) id plain
      (fun _ f => { f with kind := .nmfen })) ∧
    (∀ t : State, let k := fenceKey t (.seq u)
      let r := markFence t (.seq u) a
      r.core = t.core ∧ r.others = t.others ∧
      r.dev.farPort.map (fun w => (w.pa, w.b, w.path, decide (k ∈ w.fences))) =
        t.dev.farPort.map (fun w => (w.pa, w.b, w.path, decide (w.path = a))) ∧
      r.dev.moves.map (fun m => (m.pend, decide (k ∈ m.fences))) =
        t.dev.moves.map (fun m => (m.pend, decide (a = .p ∧ m.pend ≠ [])))) ∧
    (∀ f : Flight, frozenFence s u f = true → mayRetire s u f = false) ∧
    (∀ f : Flight, f.done = true → frozenFence s u f = false →
      let k := fenceKey s (.seq u)
      let here (g : Nat) : Prop := g = s.core.gcore ∨ isCopy u = true
      let performed : Prop := ∀ n ∈ s.dev.nops, ¬ (n.unit = .seq u ∧ here n.core)
      let arrived : Prop := ∀ p ∈ s.dev.peerOut, ¬ (p.unit = u ∧ here p.core)
      (f.kind = .nmfen → (mayRetire s u f = true ↔ performed)) ∧
      (f.kind = .fence a sc → (mayRetire s u f = true ↔
        (a = .n → performed) ∧ (a = .p → ∀ m ∈ s.dev.moves, k ∉ m.fences) ∧
        (sc = .system → (∀ w ∈ s.dev.farPort, k ∉ w.fences) ∧ (a = (if isCopy u then .e else .s) → arrived)))))

/-- Where the word may issue in C and its field and issue-cycle checks pass: MWLD loads the panel from the rows it
pops; MMA.F and MMA.B write the accumulator tile, and MMA.G the gradient plane, from the rows popped (MMA.F with CH
from a tile through the down-converter); MDRAIN pushes rounded rows to its result queue, with its flags, and with Z
zeroes them. Each is then in flight in the matrix pipeline. A trapping flag of VFCTL.TEN stops MMA with CH and MDRAIN
instead (spec/07_matrix_engine.md, Instructions; spec/07_matrix_engine.md, Accumulation; spec/07_matrix_engine.md,
Result queues). -/
def Obligations.MatrixWords : Prop :=
  ∀ (s : State) (y : Sync) (sw sm : BitVec 4) (sp d64 : Bool) (md : MmaMode) (o : MmaOp) (dr : DrainOp),
    Safety.issues s .c y →
    let t := issueTake s .c y
    let pc := s.core.c.pc
    let goes (i : Instr) (c : State) (fl : FFlags) : Prop :=
      exec i s = .next (Safety.flown c .c (pc + 8) { Safety.flight .c y i pc with kind := .matrix, done := false, flags := fl })
    let mma : Instr := match md with | .f => .mmaF y o | .b => .mmaB y o | .g => .mmaG y o
    let r := rowCtl (iget t.core.c o.im)
    let d := gdesc t.core sw
    (sp = true ∨ sm = 0 → ¬ (sp = true ∧ d64 = true) → mwldEarly sw sm sp d64 s = .ok () → ∀ kt s1 rows,
      mwldDepth t sw d64 = some kt → popRows (mwldPops sw sm sp d64 kt) t = .ok (s1, rows) →
      goes (.mwld y sw sm sp d64) { s1 with core := { s1.core with wp := some (panelOf d.ty d.mx d64 sp rows) } } 0) ∧
    (mmaDecode md o = .ok () → mmaEarly md o s = .ok () →
      (o.ch = false → ∀ s1 rows, popRows (mmaPops t.core md o r.m) t = .ok (s1, rows) →
        let vals (g : BitVec 4) (l : List Row) : List (List FVal) :=
          l.map (rowVals (gdesc t.core g).ty (gdesc t.core g).mx (decide (md ≠ .g) && (t.core.wp.map (·.f64)).getD false))
        let x := if md = .g then evens rows else rows
        let z := if md = .g then evens rows.tail else []
        goes mma { s1 with core := mmaApply s1.core md o r (vals o.sa x) (vals o.sb z) } 0) ∧
      (o.ch = true →
        let q := chainRows t (tileGet t.core (o.sa.extractLsb' 2 2)) (tyOf r.ct) r.m
        (q.2 &&& tenOf s.core.vfctl = 0 → goes mma { t with core := mmaApply t.core md o r q.1 [] } q.2) ∧
        (∀ c, arithCause q.2 (tenOf s.core.vfctl) = some c →
          exec mma s = .next (raiseWord { t with core := { t.core with vfstat := t.core.vfstat ||| q.2.setWidth 64 } } .c mma
            { cause := c, info := q.2.setWidth 64, issued := true })))) ∧
    ((if dr.d64 then dr.t = tyOf 0 else type24 dr.t = true) → drainEarly dr s = .ok () →
      let row := drainRows t dr.ir
      let tile := tileGet t.core dr.as
      let k := if dr.d64 then FKind.f64 else kindOf dr.t
      let out := (List.range row.2).map fun m => (List.range 128).map fun j =>
        drainEntry t tile k (effMode dr.rm t.core.vfctl) (row.1 + m) j
      let fl := unionFlags (out.flatten.map (·.2)) ||| (if tile.nv then fNV else 0) ||| (if tile.of then fOF else 0)
      fl &&& tenOf s.core.vfctl = 0 →
      let vecs := (out.map fun l =>
        if dr.d64 then [vecOf 64 ((l.map (·.1)).take 64), vecOf 64 ((l.map (·.1)).drop 64)] else [vecOf (laneBits dr.t) (l.map (·.1))]).flatten
      let c := pushQueue t.core dr.q vecs
      let rest := tile.ent.filter fun e => e.1 < 128 * row.1 || 128 * (row.1 + row.2) ≤ e.1
      let c := if dr.z then tileSet c dr.as { tile with ent := rest } else c
      goes (.mdrain y dr) { t with core := c } fl)

/-- Where the word may issue in C: MZERO makes each tile of a nonzero mask +0 in the named format with clear status
bits, and with bit 4 the gradient plane (F64 excludes it); MSAVE pushes the vectors of an image to a stream, and MREST
sets the target from the vectors it pops, each on an N8 window stream with room for the whole image.
MATRIX_WORD_COMPLETE marks the matrix word in flight complete, after which no word that issued past it can be cancelled,
and changes nothing else (spec/07_matrix_engine.md,
Instructions; spec/07_matrix_engine.md, Time, traps and spares). -/
def Obligations.MatrixStateWords : Prop :=
  ∀ (s : State) (y : Sync) (mask : BitVec 5) (d64 : Bool) (tg : MTgt) (g : BitVec 7),
    let pc := s.core.c.pc
    let t := issueTake s .c y
    let goes (i : Instr) (c : State) : Prop :=
      exec i s = .next (Safety.flown c .c (pc + 8) { Safety.flight .c y i pc with kind := .matrix, done := false })
    (Safety.issues s .c y → mask ≠ 0 → ¬ (d64 = true ∧ mask.getLsbD 4 = true) →
      ∃ a : Vector Tile 4, goes (.mzero y mask d64)
          { t with core := { t.core with a := a, gp := if mask.getLsbD 4 then Tile.init else t.core.gp } } ∧
        ∀ k (h : k < 4), a[k]'h = if mask.getLsbD k then { Tile.init with f64 := d64 } else t.core.a[k]'h) ∧
    (Safety.issues s .c y → imageDecode g = .ok () → imageEarly true tg g s = .ok () →
      let vecs := (List.range (imageVecs tg)).map fun v => imageVec t.core tg v
      let r := gget t.core (imageStream g)
      let whole := wordPlan (gdesc t.core (imageStream g)) [] r.pos (vecs.map fun v => (v, fun _ => true))
      ∀ s1, pushImage t.core tg (imageStream g) whole (imageVecs tg) 0 t = (s1, none) → goes (.msave y tg g) s1) ∧
    (Safety.issues s .c y → imageDecode g = .ok () → imageEarly false tg g s = .ok () →
      ∀ s1 vs, popImage (imageStream g) (imageVecs tg) t = .ok (s1, vs) →
        goes (.mrest y tg g) { s1 with core := putImage s1.core tg fun k => byteAt ((vs[k / 512]?).getD 0) (k % 512) }) ∧
    (∀ f, s.core.c.flight = some f → f.kind = .matrix → f.done = false →
      exec .matrixWordComplete s =
        .next { s with core := { s.core with c := { s.core.c with flight := some { f with done := true, late := none }, undo := none } } })

/-- On an integer type every arithmetic word of C completes where it may issue and its positions are legal and
readable. Each active lane is the exact result on the lane values, reduced modulo 2^w: a + b, a - b, a × b, vd + a ×
b, a × b - vd, vd - a × b, the smaller or greater, the sum or difference clamped to the range of the type, floor(a × b
/ 2^w), min(max(vd, a), b), |a| and -a. Inactive lanes keep their bits, no flag is set, and a destructive word needs a
register destination (spec/05_vector_scalar_arithmetic.md, Vector arithmetic; spec/05_vector_scalar_arithmetic.md,
Lanes, predicates and register groups). -/
def Obligations.IntegerLaneWords : Prop :=
  ∀ (y : Sync) (t : Ty) (o : VOp) (u : UOp),
    t.isInt = true → o.ty = t → u.ty = t →
    let w := elemBits t
    let lo : Int := if (Safety.laneInt t (2 ^ (w - 1)) : Int) < 0 then -(2 ^ (w - 1)) else 0
    let hi : Int := lo + 2 ^ w - 1
    let clip (n : Int) : Int := max lo (min hi n)
    let word (i : Instr) (own : Prop) (vd : BitVec 7) (srcs : List (BitVec 7)) (pg : BitVec 4) (f : Int → Int → Int → Int) : Prop :=
      Safety.vectorWord i y (fun _ => own) (srcs.map (Safety.one t)) (some (Safety.one t vd))
        (Safety.byLane t pg fun xs =>
          let v (k : Nat) : Int := Safety.laneInt t ((xs[k]?).getD 0)
          Safety.wrap t (f (v 0) (v 1) (v 2)))
    word (.vadd y o) (True) o.vd [o.va, o.vb] o.pg (fun a b _ => a + b) ∧
    word (.vsub y o) (True) o.vd [o.va, o.vb] o.pg (fun a b _ => a - b) ∧
    word (.vmul y o) (True) o.vd [o.va, o.vb] o.pg (fun a b _ => a * b) ∧
    word (.vfma y o) (o.vd.toNat < 64) o.vd [o.va, o.vb, o.vd] o.pg (fun a b c => a * b + c) ∧
    word (.vfms y o) (o.vd.toNat < 64) o.vd [o.va, o.vb, o.vd] o.pg (fun a b c => a * b - c) ∧
    word (.vfnma y o) (o.vd.toNat < 64) o.vd [o.va, o.vb, o.vd] o.pg (fun a b c => c - a * b) ∧
    word (.vmin y o) (True) o.vd [o.va, o.vb] o.pg (fun a b _ => if a ≤ b then a else b) ∧
    word (.vmax y o) (True) o.vd [o.va, o.vb] o.pg (fun a b _ => if a ≤ b then b else a) ∧
    word (.vsadd y o) (True) o.vd [o.va, o.vb] o.pg (fun a b _ => clip (a + b)) ∧
    word (.vssub y o) (True) o.vd [o.va, o.vb] o.pg (fun a b _ => clip (a - b)) ∧
    word (.vmulh y o) (True) o.vd [o.va, o.vb] o.pg (fun a b _ => a * b / 2 ^ w) ∧
    word (.vclamp y o) (o.vd.toNat < 64) o.vd [o.va, o.vb, o.vd] o.pg (fun a b c => min (max c a) b) ∧
    word (.vabs y u) (True) u.vd [u.va] u.pg (fun a _ _ => |a|) ∧
    word (.vneg y u) (True) u.vd [u.va] u.pg (fun a _ _ => -a)

/-- On a type of class FLT each arithmetic word of C completes where it may issue, its positions are legal and
readable and no enabled trap is met. VADD to VFNMA give the exact result of the lane values (subnormals read as zero
under FTZ), rounded once in the mode of VFCTL, which must not be SRD, with its flags for VFSTAT and the lane-flag
record; VMIN, VMAX and VCLAMP select with NaN first and set no flag; VABS, VNEG and VCPSGN act on the sign bit only.
Inactive lanes keep their bits and set no flag (spec/05_vector_scalar_arithmetic.md, Vector arithmetic;
spec/03_number_formats.md, Rounding). -/
def Obligations.FloatingLaneWords : Prop :=
  ∀ (y : Sync) (t : Ty) (k : FKind) (o : VOp) (u : UOp),
    t.isFlt = true → t.coded = true → numOf t = .flt k → o.ty = t → u.ty = t →
    let h := 2 ^ (elemBits t - 1)
    let mode (s : State) : RMode := rmodeOf (fld s.core.vfctl.toNat 0 3)
    let read (s : State) (xs : List Nat) (n : Nat) : FVal := k.read (vfctlFtz s.core.vfctl) ((xs[n]?).getD 0)
    let word (i : Instr) (own : State → Prop) (vd : BitVec 7) (srcs : List (BitVec 7)) (f : State → List Src → VRes) : Prop :=
      Safety.vectorWord i y own (srcs.map (Safety.one t)) (some (Safety.one t vd)) f
    let round (i : Instr) (own : Prop) (srcs : List (BitVec 7)) (f : RMode → (Nat → FVal) → FRes) : Prop :=
      word i (fun s => own ∧ Safety.rounds s) o.vd srcs fun s rs =>
        let on (n : Nat) : Bool := (pget s.core o.pg).getLsbD n
        let r := (List.range (lanes t)).map fun n =>
          if on n then deliverRes k (vctx s) (f (mode s) (read s (rs.map fun r => r.lane t n))) else (0, 0)
        { vecs := [packLanes t (r.map (·.1))], act := fun _ => on, flags := unionFlags (r.map (·.2)), lanes := some (r.map (·.2)) }
    let pick (i : Instr) (own : Prop) (vd : BitVec 7) (srcs : List (BitVec 7)) (pg : BitVec 4) (f : (Nat → FVal) → FVal) : Prop :=
      word i (fun _ => own) vd srcs fun s =>
        Safety.byLane t pg (fun xs => (deliver k { mode := .rne } (f (read s xs))).1) s
    let bits (i : Instr) (vd : BitVec 7) (srcs : List (BitVec 7)) (pg : BitVec 4) (f : (Nat → Nat) → Nat) : Prop :=
      word i (fun _ => True) vd srcs (Safety.byLane t pg fun xs => f fun n => (xs[n]?).getD 0)
    round (.vadd y o) (True) [o.va, o.vb] (fun m v => addVal m (v 0) (v 1)) ∧
    round (.vsub y o) (True) [o.va, o.vb] (fun m v => addVal m (v 0) (if (v 1).isNan then v 1 else (v 1).flip)) ∧
    round (.vmul y o) (True) [o.va, o.vb] (fun _ v => mulVal (v 0) (v 1)) ∧
    round (.vfma y o) (o.vd.toNat < 64) [o.va, o.vb, o.vd] (fun m v => fmaVal m false false (v 0) (v 1) (v 2)) ∧
    round (.vfms y o) (o.vd.toNat < 64) [o.va, o.vb, o.vd] (fun m v => fmaVal m false true (v 0) (v 1) (v 2)) ∧
    round (.vfnma y o) (o.vd.toNat < 64) [o.va, o.vb, o.vd] (fun m v => fmaVal m true false (v 0) (v 1) (v 2)) ∧
    pick (.vmin y o) True o.vd [o.va, o.vb] o.pg (fun v => minVal (v 0) (v 1)) ∧
    pick (.vmax y o) True o.vd [o.va, o.vb] o.pg (fun v => maxVal (v 0) (v 1)) ∧
    pick (.vclamp y o) (o.vd.toNat < 64) o.vd [o.va, o.vb, o.vd] o.pg
      (fun v => (firstNan [v 0, v 1, v 2]).getD (minVal (maxVal (v 2) (v 0)) (v 1))) ∧
    bits (.vabs y u) u.vd [u.va] u.pg (fun x => x 0 % h) ∧
    bits (.vneg y u) u.vd [u.va] u.pg (fun x => x 0 ^^^ h) ∧
    bits (.vcpsgn y o) o.vd [o.va, o.vb] o.pg (fun x => x 0 % h + x 1 / h % 2 * h)

/-- VAND, VOR, VXOR, VNOT and VMOV on every type, and VSLL, VSRL, VSRA and VPOPC on the integer types, complete where
they may issue and their positions are legal and readable: each active lane holds the result on the element bits of
the source lanes, a shift distance being taken modulo the width and VSRA filling with the highest bit; inactive lanes
keep their bits and no flag is set. VMOV copies the element (spec/05_vector_scalar_arithmetic.md, Logic, shifts and
population counts; spec/05_vector_scalar_arithmetic.md, Moves, permutes and broadcasts). -/
def Obligations.LogicShiftWords : Prop :=
  ∀ (y : Sync) (t : Ty) (o : VOp) (u : UOp),
    t.coded = true → o.ty = t → u.ty = t →
    let w := elemBits t
    let word (i : Instr) (own : Prop) (vd : BitVec 7) (srcs : List (BitVec 7)) (pg : BitVec 4) (f : Nat → Nat → Nat) : Prop :=
      Safety.vectorWord i y (fun _ => own) (srcs.map (Safety.one t)) (some (Safety.one t vd))
        (Safety.byLane t pg fun xs => f ((xs[0]?).getD 0) ((xs[1]?).getD 0))
    word (.vand y o) (True) o.vd [o.va, o.vb] o.pg (fun a b => (a &&& b) % 2 ^ w) ∧
    word (.vor y o) (True) o.vd [o.va, o.vb] o.pg (fun a b => (a ||| b) % 2 ^ w) ∧
    word (.vxor y o) (True) o.vd [o.va, o.vb] o.pg (fun a b => (a ^^^ b) % 2 ^ w) ∧
    word (.vnot y u) (True) u.vd [u.va] u.pg (fun a _ => (2 ^ w - 1 - a % 2 ^ w) % 2 ^ w) ∧
    word (.vsll y o) (t.isInt = true) o.vd [o.va, o.vb] o.pg (fun a b => (a * 2 ^ (b % w)) % 2 ^ w) ∧
    word (.vsrl y o) (t.isInt = true) o.vd [o.va, o.vb] o.pg (fun a b => (a / 2 ^ (b % w)) % 2 ^ w) ∧
    word (.vsra y o) (t.isInt = true) o.vd [o.va, o.vb] o.pg (fun a b => ((((if a < 2 ^ (w - 1) then (a : Int) else (a : Int) - 2 ^ w) / 2 ^ (b % w)) % 2 ^ w).toNat) % 2 ^ w) ∧
    word (.vpopc y u) (t.isInt = true) u.vd [u.va] u.pg (fun a _ => (((List.range w).filter fun k => a / 2 ^ k % 2 == 1).length) % 2 ^ w) ∧
    word (.vmov y u) True u.vd [u.va] u.pg (fun a _ => a)

/-- A compare with a destination other than p0 writes pd with its condition in the active lanes and 0 elsewhere; on
integers it compares the lane values, on floating lanes a NaN makes EQ, LT and LE false and NE and UN true, and
otherwise UN is false and LT compares the exact values. PAND, POR, PXOR, PNOT, PSET and VFLG write pd (not p0) with
the logic of predicates, the first min(i, E) bits, or the selected lane flags under pg; PCNT and PFIRST write the
number of bits set in both predicates or the place of the first. No flag is set and nothing else changes
(spec/05_vector_scalar_arithmetic.md, Compares and predicates; spec/05_vector_scalar_arithmetic.md, Flags per lane and
checks). -/
def Obligations.ComparePredicateWords : Prop :=
  ∀ (y : Sync) (t : Ty) (o : COp) (pd pa pb pg i id : BitVec 4) (sel : FlagSel),
    t.coded = true → o.ty = t →
    let word (x : Instr) (test : State → Nat → Nat → Bool) : Prop :=
      Safety.vectorWord x y (fun _ => o.pd ≠ 0) [Safety.one t o.va, Safety.one t o.vb] none fun s rs =>
        { pred := some (o.pd, predOf ((List.range (lanes t)).map fun k =>
            (pget s.core o.pg).getLsbD k && test s ((srcAt rs 0).lane t k) ((srcAt rs 1).lane t k))) }
    let pred (x : Instr) (f : State → Pred) : Prop :=
      Safety.vectorWord x y (fun _ => pd ≠ 0) [] none fun s _ => { pred := some (pd, f s) }
    let count (x : Instr) (f : List Bool → Nat) : Prop :=
      Safety.vectorWord x y (fun _ => True) [] none fun s _ =>
        { idx := some (id, BitVec.ofNat 64 (f ((List.range (lanes t)).map fun k =>
            (pget s.core pa).getLsbD k && (pget s.core pg).getLsbD k))) }
    (True → word (.vcmpeq y o) (cmpLane t .eq)) ∧
    (True → word (.vcmpne y o) (cmpLane t .ne)) ∧
    (True → word (.vcmplt y o) (cmpLane t .lt)) ∧
    (True → word (.vcmple y o) (cmpLane t .le)) ∧
    (t.isFloat = true → word (.vcmpun y o) (cmpLane t .un)) ∧
    pred (.pand y pd pa pb) (fun s => pget s.core pa &&& pget s.core pb) ∧
    pred (.por y pd pa pb) (fun s => pget s.core pa ||| pget s.core pb) ∧
    pred (.pxor y pd pa pb) (fun s => pget s.core pa ^^^ pget s.core pb) ∧
    pred (.pnot y pd pa) (fun s => ~~~pget s.core pa) ∧
    pred (.pset y t pd i) (fun s => BitVec.ofNat 1024 (2 ^ min (iget s.core.c i).toNat (lanes t) - 1)) ∧
    pred (.vflg y pd sel pg) (fun s =>
      predOf ((List.range 1024).map fun k => laneFlag s.core k &&& selMask sel != 0) &&& pget s.core pg) ∧
    count (.pcnt y t id pa pg) (fun l => l.count true) ∧
    count (.pfirst y t id pa pg) (fun l => l.findIdx fun b => b) ∧
    (t.isInt = true → ∀ s a b, a < 2 ^ elemBits t → b < 2 ^ elemBits t →
      (cmpLane t .eq s a b = true ↔ Safety.laneInt t a = Safety.laneInt t b) ∧
      (cmpLane t .ne s a b = true ↔ Safety.laneInt t a ≠ Safety.laneInt t b) ∧
      (cmpLane t .lt s a b = true ↔ Safety.laneInt t a < Safety.laneInt t b) ∧
      (cmpLane t .le s a b = true ↔ Safety.laneInt t a ≤ Safety.laneInt t b)) ∧
    (∀ k, numOf t = .flt k → ∀ s a b,
      let v := k.read (vfctlFtz s.core.vfctl) a
      let z := k.read (vfctlFtz s.core.vfctl) b
      ((v.isNan = true ∨ z.isNan = true) →
        cmpLane t .eq s a b = false ∧ cmpLane t .lt s a b = false ∧ cmpLane t .le s a b = false ∧
        cmpLane t .ne s a b = true ∧ cmpLane t .un s a b = true) ∧
      (v.isNan = false → z.isNan = false → cmpLane t .un s a b = false) ∧
      (∀ p q, Safety.ratOf v = some p → Safety.ratOf z = some q → (cmpLane t .lt s a b = true ↔ p < q)))

/-- VCVT between types whose lane widths differ by at most a factor of 4 completes where it may issue, its groups are
legal and readable and no enabled trap is met: element e of the source group, under its block scale if the source is
an MX stream, is rounded once into the destination type and becomes element e of the destination group, for each
active e. VQUANT from FP16, BF16 or FP32 into an MX type completes likewise, into a register group of codes and scales
or an MX push stream. Flags go to VFSTAT and the lane-flag record; inactive elements keep their bits
(spec/05_vector_scalar_arithmetic.md, Conversions; spec/03_number_formats.md, MX quantisation and dequantisation). -/
def Obligations.ConversionWords : Prop :=
  ∀ (y : Sync) (o : CvtOp) (m n : Nat),
    o.d.coded = true → o.s.coded = true → ratioOf o.d o.s = some (m, n) →
    (Safety.vectorWord (.vcvt y o) y (fun _ => True) [{ code := o.va, w := m, ty := o.s, mx := true }]
      (some { code := o.vd, w := n, ty := o.d }) (Safety.converted o.d o.s m n (max (lanes o.d) (lanes o.s)) o.rm o.pg)) ∧
    (n = 1 → quantType o.d = true → o.s.isFlt = true →
      Safety.vectorWord (.vquant y o) y (fun s => ∀ g, opdOf o.vd = .g g → (gdesc s.core g).mx = true) [{ code := o.va, w := m, ty := o.s }]
        (some { code := o.vd, w := 2, ty := o.d, mx := true }) (quantRes o m))

/-- Where the word may issue and its positions are legal and readable: VBCAST copies lane i[ib] mod E to every active
lane; VPERM takes lane j from lane idx[j] mod E of its source, for active j; VSLIDE gives the E lanes from lane i mod
E of the two sources one after the other; VSEL takes the first source where the predicate is set and the second
elsewhere; VCOMPACT packs the active lanes and fills with 0; VIOTA gives i[ib] + k to active lane k; VRAND gives the
Philox words of counter i[ic] and key i[ik], in F32 as units below 1. No flag is set
(spec/05_vector_scalar_arithmetic.md, Moves, permutes and broadcasts; spec/05_vector_scalar_arithmetic.md, Sorting,
selection and routing; spec/05_vector_scalar_arithmetic.md, Random numbers). -/
def Obligations.MoveShapeWords : Prop :=
  ∀ (y : Sync) (t : Ty) (o : VOp) (u : UOp) (ib ic pg : BitVec 4) (vd : BitVec 7),
    t.coded = true → o.ty = t → u.ty = t →
    let e := lanes t
    let word (i : Instr) (own : Prop) (vd : BitVec 7) (srcs : List Spec) (act : State → Nat → Bool)
        (f : State → (Nat → Nat → Nat) → List Src → List Nat) : Prop :=
      Safety.vectorWord i y (fun _ => own) srcs (some (Safety.one t vd)) fun s rs =>
        { vecs := [packLanes t (f s (fun n k => (srcAt rs n).lane t k) rs)], act := fun _ => act s }
    let under (pg : BitVec 4) (s : State) (k : Nat) : Bool := (pget s.core pg).getLsbD k
    let every : State → Nat → Bool := fun _ _ => true
    let num (s : State) (r : BitVec 4) : Nat := (iget s.core.c r).toNat
    word (.vbcast y u ib) True u.vd [Safety.one t u.va] (under u.pg)
      (fun s lane _ => List.replicate e (lane 0 (num s ib % e))) ∧
    word (.vperm y o) (o.vb.toNat < 64) o.vd [Safety.one t o.va, { code := o.vb, w := max 1 (e / 256), ty := .n16 }] (under o.pg)
      (fun _ lane rs => (List.range e).map fun j =>
        lane 0 (((((srcAt rs 1).vecs)[j / 256]?).getD 0) / 2 ^ (16 * (j % 256)) % 2 ^ 16 % e)) ∧
    word (.vslide y o) True o.vd [Safety.one t o.va, Safety.one t o.vb] every
      (fun s lane _ => (List.range e).map fun j =>
        let k := j + num s o.pg % e
        if k < e then lane 0 k else lane 1 (k - e)) ∧
    word (.vsel y o) True o.vd [Safety.one t o.va, Safety.one t o.vb] every
      (fun s lane _ => (List.range e).map fun j => if under o.pg s j then lane 0 j else lane 1 j) ∧
    word (.vcompact y u) True u.vd [Safety.one t u.va] every
      (fun s lane _ =>
        let l := ((List.range e).filter (under u.pg s)).map (lane 0)
        l ++ List.replicate (e - l.length) 0) ∧
    word (.viota y t vd ib pg) (t.isInt = true) vd [] (under pg) (fun s _ _ => (List.range e).map fun k => num s ib + k) ∧
    word (.vrand y t vd ib ic pg) (t = .n32 ∨ t = .f32) vd [] (under pg)
      (fun s _ _ => (((List.range 32).map fun j => philoxWords (num s ib) ((num s ic + j) % 2 ^ 64)).flatten).map
        fun w => if t = .f32 then unitF32 w else w)

/-- Where the word may issue and its positions are legal and readable and no enabled trap is met: VREDSUM, VREDMAX and
VREDMIN put one result over the active lanes into every lane; on integers the wrapped sum and the extreme value. VSCAN
gives the prefix sums. VSORT gives the active pairs by ascending key, keeping the order of equal keys, then zeros;
VTOPK the first i pairs of the descending order. VROUTE numbers the lanes of each expert up to the capacity i, with
all ones for a lane not routed or dropped, and pd marks the dropped ones. VCHK marks the active NaN and infinite lanes
in pd and counts them in i[id] (spec/05_vector_scalar_arithmetic.md, Reductions and scans;
spec/05_vector_scalar_arithmetic.md, Sorting, selection and routing; spec/05_vector_scalar_arithmetic.md, Flags per
lane and checks). -/
def Obligations.ReductionSortWords : Prop :=
  ∀ (y : Sync) (t : Ty) (o : VOp) (u : UOp) (vd va : BitVec 7) (ic pd id pg : BitVec 4),
    t.coded = true → o.ty = t → u.ty = t →
    let e := lanes t
    let red (i : Instr) (own : State → Prop) (rec : Bool) (f : State → List Nat → Nat × FFlags) : Prop :=
      Safety.vectorWord i y (fun s => t.arithOk = true ∧ own s) [Safety.one t u.va] (some (Safety.one t u.vd)) fun s rs =>
        let l := ((List.range e).filter (pget s.core u.pg).getLsbD).map ((srcAt rs 0).lane t)
        let r := f s l
        { vecs := [splat t r.1], flags := r.2, lanes := if rec then some [r.2] else none }
    let pairs (i : Instr) (f : State → List (Int × Nat × Nat) → List (Int × Nat × Nat)) : Prop :=
      Safety.vectorWord i y (fun _ => sortType t = true ∧ o.vd.toNat < 64) [Safety.one t o.va, Safety.one t o.vb]
        (some { code := o.vd, w := 2, ty := t }) fun s rs =>
          let ps := (List.range e).map fun k => (sortKey t ((srcAt rs 0).lane t k), (srcAt rs 0).lane t k, (srcAt rs 1).lane t k)
          let r := f s ps
          { vecs := [packLanes t (padTo e (r.map (·.2.1))), packLanes t (padTo e (r.map (·.2.2)))] }
    red (.vredsum y u) (fun s => t.isFlt = true → Safety.rounds s) true (sumOf t) ∧
    red (.vredmax y u) (fun _ => True) false (fun s l => (extremeOf true t s l, 0)) ∧
    red (.vredmin y u) (fun _ => True) false (fun s l => (extremeOf false t s l, 0)) ∧
    (t.isInt = true → ∀ s l,
      sumOf t s l = (Safety.wrap t (l.map (Safety.laneInt t)).sum, 0) ∧
      (l ≠ [] → (∀ x ∈ l, x < 2 ^ elemBits t) →
        extremeOf true t s l ∈ l ∧ (∀ x ∈ l, Safety.laneInt t x ≤ Safety.laneInt t (extremeOf true t s l)) ∧
        extremeOf false t s l ∈ l ∧ ∀ x ∈ l, Safety.laneInt t (extremeOf false t s l) ≤ Safety.laneInt t x)) ∧
    Safety.vectorWord (.vscan y u) y (fun s => t.arithOk = true ∧ (t.isFlt = true → Safety.rounds s)) [Safety.one t u.va]
      (some (Safety.one t u.vd)) (fun s rs =>
        let l : List (Bool × Nat) := (List.range e).map fun k => ((pget s.core u.pg).getLsbD k, (srcAt rs 0).lane t k)
        let r : List (Nat × FFlags) := match numOf t with
          | .flt k => scanFlt k (vctx s) {} (l.map fun (x : Bool × Nat) => (x.1, k.read (vfctlFtz s.core.vfctl) x.2))
          | .int sg w => scanInt w 0 (l.map fun (x : Bool × Nat) => (x.1, intOf sg w x.2))
        { vecs := [packLanes t (r.map (·.1))], flags := unionFlags (r.map Prod.snd), lanes := some (r.map Prod.snd) }) ∧
    pairs (.vsort y o) (fun s ps => sortPairs (fun a b => decide (a ≤ b))
      (((List.range e).zip ps).filterMap fun x => if (pget s.core o.pg).getLsbD x.1 then some x.2 else none)) ∧
    pairs (.vtopk y o) (fun s ps => (sortPairs (fun a b => decide (a ≥ b)) ps).take (min (iget s.core.c o.pg).toNat e)) ∧
    (∀ l : List (Int × Nat × Nat), (sortPairs (fun a b => decide (a ≤ b)) l).Perm l ∧
      (sortPairs (fun a b => decide (a ≤ b)) l).Pairwise (fun a b => a.1 ≤ b.1) ∧
      (sortPairs (fun a b => decide (a ≥ b)) l).Pairwise (fun a b => b.1 ≤ a.1) ∧
      ∀ k, (sortPairs (fun a b => decide (a ≤ b)) l).filter (·.1 == k) = l.filter (·.1 == k)) ∧
    Safety.vectorWord (.vroute y t vd va ic pd) y (fun _ => (t = .n16 ∨ t = .n32) ∧ pd ≠ 0) [Safety.one t va]
      (some (Safety.one t vd)) (fun s rs =>
        let r : List (Nat × Bool) := routeLanes (2 ^ laneBits t - 1) (iget s.core.c ic).toNat [] ((List.range e).map ((srcAt rs 0).lane t))
        { vecs := [packLanes t (r.map (·.1))], pred := some (pd, predOf (r.map (·.2))) }) ∧
    (∀ k, numOf t = .flt k → Safety.vectorWord (.vchk y t pd va id pg) y
      (fun _ => (t.isFlt = true ∨ t.isF8 = true) ∧ pd ≠ 0) [Safety.one t va] none fun s rs =>
        let bad := (List.range e).map fun n => (pget s.core pg).getLsbD n &&
          ((k.fmt.value ((srcAt rs 0).lane t n)).isNan || (k.fmt.value ((srcAt rs 0).lane t n)).isInf)
        { pred := some (pd, predOf bad), idx := some (id, BitVec.ofNat 64 (bad.count true)) })

/-- On a floating type each elementary word of C completes where it may issue, its positions are legal and readable and
the mode of VFCTL is not SRD: it is in flight in its hem phase with the function of its operands in every active lane,
rounded once in the mode of VFCTL, and its flags. HEM_PHASE_END writes its destination, its lane-flag record and VFSTAT
together and marks the word complete; where one of its flags traps, it writes no register, the flags and the record
stand, and C stops at the word. An approximate word on a type of class FLT does the same with the value of the approximate
family. That every word, also one that needs no hem unit, is in flight until HEM_PHASE_END is the model's choice (log 40), and the values are
those of the model's arithmetic (log 30). Inactive lanes keep their bits and set no flag
(spec/06_elementary_functions.md, The functions; spec/06_elementary_functions.md, The approximate family;
spec/06_elementary_functions.md, Time; spec/06_elementary_functions.md, Flags and traps). -/
def Obligations.ElementaryWords : Prop :=
  ∀ (y : Sync) (t : Ty) (o : VOp) (u : UOp),
    t.coded = true → t.isFloat = true → o.ty = t → u.ty = t →
    let res (pg : BitVec 4) (op : State → List Nat → Nat × FFlags) (s : State) (rs : List Src) : VRes :=
      let on (n : Nat) : Bool := (pget s.core pg).getLsbD n
      let r := (List.range (lanes t)).map fun n => if on n then op s (rs.map fun r => r.lane t n) else (0, 0)
      { vecs := [packLanes t (r.map (·.1))], act := fun _ => on, flags := unionFlags (r.map (·.2)), lanes := some (r.map (·.2)) }
    let exact (i : Instr) (fn : Fn) (vd : BitVec 7) (srcs : List (BitVec 7)) (pg : BitVec 4) : Prop :=
      Safety.hemWord i y Safety.rounds (srcs.map (Safety.one t)) (Safety.one t vd) (res pg (elemLane fn t))
    let near (i : Instr) (fn : Fn) (vd : BitVec 7) (srcs : List (BitVec 7)) (pg : BitVec 4) : Prop :=
      Safety.hemWord i y Safety.rounds (srcs.map (Safety.one t)) (Safety.one t vd) (res pg (approxLane fn t))
    exact (.vexp y u) .exp u.vd [u.va] u.pg ∧
    exact (.vexp2 y u) .exp2 u.vd [u.va] u.pg ∧
    exact (.vexpm1 y u) .expm1 u.vd [u.va] u.pg ∧
    exact (.vlog y u) .log u.vd [u.va] u.pg ∧
    exact (.vlog2 y u) .log2 u.vd [u.va] u.pg ∧
    exact (.vlog1p y u) .log1p u.vd [u.va] u.pg ∧
    exact (.vrcp y u) .rcp u.vd [u.va] u.pg ∧
    exact (.vrsqrt y u) .rsqrt u.vd [u.va] u.pg ∧
    exact (.vsqrt y u) .sqrt u.vd [u.va] u.pg ∧
    exact (.vsin y u) .sin u.vd [u.va] u.pg ∧
    exact (.vcos y u) .cos u.vd [u.va] u.pg ∧
    exact (.vtanh y u) .tanh u.vd [u.va] u.pg ∧
    exact (.verf y u) .erf u.vd [u.va] u.pg ∧
    exact (.vsigm y u) .sigm u.vd [u.va] u.pg ∧
    exact (.vdiv y o) .div o.vd [o.va, o.vb] o.pg ∧
    (t.isFlt = true → near (.vexpa y u) .exp u.vd [u.va] u.pg) ∧
    (t.isFlt = true → near (.vexp2a y u) .exp2 u.vd [u.va] u.pg) ∧
    (t.isFlt = true → near (.vexpm1a y u) .expm1 u.vd [u.va] u.pg) ∧
    (t.isFlt = true → near (.vloga y u) .log u.vd [u.va] u.pg) ∧
    (t.isFlt = true → near (.vlog2a y u) .log2 u.vd [u.va] u.pg) ∧
    (t.isFlt = true → near (.vlog1pa y u) .log1p u.vd [u.va] u.pg) ∧
    (t.isFlt = true → near (.vrcpa y u) .rcp u.vd [u.va] u.pg) ∧
    (t.isFlt = true → near (.vrsqrta y u) .rsqrt u.vd [u.va] u.pg) ∧
    (t.isFlt = true → near (.vsqrta y u) .sqrt u.vd [u.va] u.pg) ∧
    (t.isFlt = true → near (.vsina y u) .sin u.vd [u.va] u.pg) ∧
    (t.isFlt = true → near (.vcosa y u) .cos u.vd [u.va] u.pg) ∧
    (t.isFlt = true → near (.vtanha y u) .tanh u.vd [u.va] u.pg) ∧
    (t.isFlt = true → near (.verfa y u) .erf u.vd [u.va] u.pg) ∧
    (t.isFlt = true → near (.vsigma y u) .sigm u.vd [u.va] u.pg) ∧
    (t.isFlt = true → near (.vdiva y o) .div o.vd [o.va, o.vb] o.pg) ∧
    (∀ (s : State) f l, s.core.c.flight = some f → f.kind = .hem → f.done = false → f.late = some l → s.core.c.undo = none →
      (∀ m ∈ s.core.residues, onPath (.seq .c) m.place = false) →
      let s0 := { s with core := { putRegs s.core l.regs with lflags := l.lflags } }
      (l.cause = none → ∀ s1, (match l.push with | some p => hemPush s0 p | none => (s0, none)) = (s1, none) →
        exec .hemPhaseEnd s = .next { s1 with core := { s1.core with
          vfstat := s1.core.vfstat ||| l.flags.setWidth 64
          c := { s1.core.c with flight := some { f with done := true, late := none }, undo := none } } }) ∧
      (s.core.c.flushed = false → ∀ k, l.cause = some k → ∃ v c, exec .hemPhaseEnd s = .next v ∧
        v.core.v = s.core.v ∧ v.core.p = s.core.p ∧ v.core.lflags = l.lflags ∧
        v.core.vfstat = s.core.vfstat ||| l.flags.setWidth 64 ∧
        v.core.c.flight = none ∧ v.core.c.pc = f.pc ∧ v.core.c.cause = some c ∧ c.cause = k ∧ c.pc = f.pc ∧ c.info = l.info))

/-- The exact values before rounding (R163). A NaN operand gives a NaN of its sign and no flag; a result marked NaN has sign
0 and flag NV. At -∞: e^x and 2^x are +0, e^x - 1 is -1, 1/x is -0, tanh and erf are -1, the sigmoid is +0, and the logarithms,
1/√x, √x, sin and cos are NaN. At +∞: e^x, 2^x, e^x - 1, the logarithms and √x are +∞, 1/x and 1/√x are +0, tanh, erf and
the sigmoid are 1, and sin and cos are NaN. At ±0: e^x, 2^x and cos are 1, e^x - 1, ln(1+x), √x, sin, tanh and erf are the operand,
ln and log2 are -∞ with DZ, 1/x and 1/√x are ∞ of its sign with DZ, and the sigmoid is 1/2. ln 1 and log2 1 are +0; ln, log2, √x and
1/√x of a negative number are NaN; ln(1+x) is -∞ with DZ at -1 and NaN below it. A quotient has the xor of the signs: x/0 is ∞ with
DZ for finite x other than 0, ∞/x is ∞, x/∞ is 0 and 0/x is 0 for x other than 0; 0/0 and ∞/∞ are NaN
(spec/06_elementary_functions.md, How each lane reaches its result;
spec/03_number_formats.md, Special values, overflow and underflow). -/
def Obligations.ElementaryValues : Prop :=
  let num (n : Bool) (m : Nat) (x : Int) : FVal := .num n m x
  let nan : FRes := ⟨.nan false, fNV⟩
  let big (n : Bool) : FRes := ⟨.inf n, 0⟩
  let zero (n : Bool) (r : FRes) : Prop := ∃ x, r = ⟨.num n 0 x, 0⟩
  let is (q : Rat) (r : FRes) : Prop := Safety.ratOf r.val = some q ∧ r.fl = 0
  (∀ (f : Fn) (n : Bool), f ≠ .div → elemVal f (.nan n) = ⟨.nan n, 0⟩) ∧
  (let v := FVal.inf true
   (∀ f ∈ [Fn.exp, .exp2, .sigm], zero false (elemVal f v)) ∧ (∀ f ∈ [Fn.expm1, .tanh, .erf], is (-1) (elemVal f v)) ∧
   zero true (elemVal .rcp v) ∧ (∀ f ∈ [Fn.log, .log2, .log1p, .rsqrt, .sqrt, .sin, .cos], elemVal f v = nan)) ∧
  (let v := FVal.inf false
   (∀ f ∈ [Fn.exp, .exp2, .expm1, .log, .log2, .log1p, .sqrt], elemVal f v = big false) ∧
   (∀ f ∈ [Fn.rcp, .rsqrt], zero false (elemVal f v)) ∧ (∀ f ∈ [Fn.tanh, .erf, .sigm], is 1 (elemVal f v)) ∧
   (∀ f ∈ [Fn.sin, .cos], elemVal f v = nan)) ∧
  (∀ (n : Bool) (x : Int), let v := num n 0 x
   (∀ f ∈ [Fn.exp, .exp2, .cos], is 1 (elemVal f v)) ∧ is (1 / 2) (elemVal .sigm v) ∧
   (∀ f ∈ [Fn.expm1, .log1p, .sqrt, .sin, .tanh, .erf], zero n (elemVal f v)) ∧
   (∀ f ∈ [Fn.log, .log2], elemVal f v = ⟨.inf true, fDZ⟩) ∧ (∀ f ∈ [Fn.rcp, .rsqrt], elemVal f v = ⟨.inf n, fDZ⟩)) ∧
  (∀ (n : Bool) (m : Nat) (x : Int), let q := Safety.rat n m x
   (q = 1 → ∀ f ∈ [Fn.log, .log2], zero false (elemVal f (num n m x))) ∧
   (q < 0 → ∀ f ∈ [Fn.log, .log2, .sqrt, .rsqrt], elemVal f (num n m x) = nan) ∧
   (q = -1 → elemVal .log1p (num n m x) = ⟨.inf true, fDZ⟩) ∧ (q < -1 → elemVal .log1p (num n m x) = nan)) ∧
  (∀ (a b : Bool) (m : Nat) (x z : Int),
   (m ≠ 0 → divVal (num a m x) (num b 0 z) = ⟨.inf (a != b), fDZ⟩ ∧ zero (a != b) (divVal (num a 0 x) (num b m z))) ∧
   divVal (num a 0 x) (num b 0 z) = nan ∧ divVal (.inf a) (.inf b) = nan ∧
   divVal (.inf a) (num b m z) = big (a != b) ∧ zero (a != b) (divVal (num a m x) (.inf b)))

/-- The F64 and 64-bit integer forms complete where they may issue and their positions are legal and readable (and no
enabled trap is met): F64 sums, differences, products and fused multiply-adds are exact results rounded once in the
mode of VFCTL, which must not be SRD; F64 min and max select, abs and neg act on the sign bit; the reductions and the
scan act on the active lanes; the conversions have 64 lanes and convert elements 0 to 63, also of a group of two registers (log 11, the model's choice), never with an MX stream; the elementary functions are in flight with their results until
HEM_PHASE_END (log 40, the model's choice); the integer forms wrap modulo 2^64, compare signed or unsigned, and shift
by the distance modulo 64. Compares need a destination other than p0 (spec/05_vector_scalar_arithmetic.md, 64-bit
vector forms; spec/06_elementary_functions.md, The functions). -/
def Obligations.WideVectorWords : Prop :=
  ∀ (y : Sync) (o : WOp) (fn : Fn) (op : Cvt64) (vd va : BitVec 7) (rm : RmSel) (pg : BitVec 4),
    let f64 := Safety.one .f64
    let mode (s : State) : RMode := rmodeOf (fld s.core.vfctl.toNat 0 3)
    let read (s : State) (xs : List Nat) (n : Nat) : FVal := FKind.f64.read (vfctlFtz s.core.vfctl) ((xs[n]?).getD 0)
    let round (i : Instr) (own : Prop) (srcs : List (BitVec 7)) (f : RMode → (Nat → FVal) → FRes) : Prop :=
      Safety.vectorWord i y (fun s => own ∧ Safety.rounds s) (srcs.map f64) (some (f64 o.vd))
        (laneBody .f64 true o.pg fun s xs => deliverRes .f64 (vctx s) (f (mode s) (read s xs)))
    let other (f : F64Op) (srcs : List (BitVec 7)) (g : State → List Nat → Nat) : Prop :=
      Safety.vectorWord (.f64OtherArithmetic y f o) y (fun _ => True) (srcs.map f64) (some (f64 o.vd))
        (fun s => Safety.byLane .f64 o.pg (g s) s)
    let red (f : F64Op) (own : State → Prop) (g : State → List Nat → Nat × FFlags) : Prop :=
      Safety.vectorWord (.f64OtherArithmetic y f o) y own [f64 o.va] (some (f64 o.vd)) (redBody .f64 true o.pg g)
    let comp (i : Instr) (t : Ty) (cc : VCond) : Prop :=
      Safety.vectorWord i y (fun _ => o.vd.setWidth 4 ≠ 0#4) [Safety.one t o.va, Safety.one t o.vb] none fun s rs =>
        { pred := some (o.vd.setWidth 4, predOf ((List.range 64).map fun k =>
            (pget s.core o.pg).getLsbD k && cmpLane t cc s ((srcAt rs 0).lane t k) ((srcAt rs 1).lane t k))) }
    let v (a : Nat) : Int := Safety.laneInt .i64 a
    let ints (f : I64Op) (t : Ty) (g : Nat → Nat → Nat) : Prop :=
      Safety.vectorWord (.i64Arithmetic y f o) y (fun _ => True) [Safety.one t o.va, Safety.one t o.vb] (some (Safety.one t o.vd))
        (Safety.byLane t o.pg fun xs => g ((xs[0]?).getD 0) ((xs[1]?).getD 0))
    round (.vaddF64 y o) True [o.va, o.vb] (fun m x => addVal m (x 0) (x 1)) ∧
    round (.vsubF64 y o) True [o.va, o.vb] (fun m x => addVal m (x 0) (if (x 1).isNan then x 1 else (x 1).flip)) ∧
    round (.vmulF64 y o) True [o.va, o.vb] (fun _ x => mulVal (x 0) (x 1)) ∧
    round (.vfmaF64 y o) (o.vd.toNat < 64) [o.va, o.vb, o.vd] (fun m x => fmaVal m false false (x 0) (x 1) (x 2)) ∧
    other .min [o.va, o.vb] (fun s xs => (deliver .f64 { mode := .rne } (minVal (read s xs 0) (read s xs 1))).1) ∧
    other .max [o.va, o.vb] (fun s xs => (deliver .f64 { mode := .rne } (maxVal (read s xs 0) (read s xs 1))).1) ∧
    other .abs [o.va] (fun _ xs => (xs[0]?).getD 0 % 2 ^ 63) ∧
    other .neg [o.va] (fun _ xs => (xs[0]?).getD 0 ^^^ 2 ^ 63) ∧
    red .redsum Safety.rounds (sumOf .f64) ∧
    red .redmax (fun _ => True) (fun s l => (extremeOf true .f64 s l, 0)) ∧
    red .redmin (fun _ => True) (fun s l => (extremeOf false .f64 s l, 0)) ∧
    Safety.vectorWord (.f64OtherArithmetic y .scan o) y Safety.rounds [f64 o.va] (some (f64 o.vd)) (fun s rs =>
      let l : List (Bool × FVal) := (List.range 64).map fun k =>
        ((pget s.core o.pg).getLsbD k, read s [(srcAt rs 0).lane .f64 k] 0)
      let r := scanFlt .f64 (vctx s) {} l
      { vecs := [packLanes .f64 (r.map (·.1))], flags := unionFlags (r.map (·.2)), lanes := some (r.map (·.2)) }) ∧
    (∀ m n, ratioOf (cvt64Types op).1 (cvt64Types op).2 = some (m, n) →
      Safety.vectorWord (.vcvtF64 y op vd va rm pg) y (fun _ => True) [{ code := va, w := m, ty := (cvt64Types op).2 }]
        (some { code := vd, w := n, ty := (cvt64Types op).1 })
        (Safety.converted (cvt64Types op).1 (cvt64Types op).2 m n 64 rm pg)) ∧
    Safety.hemWord (.f64Elementary y fn o) y Safety.rounds ((if fn = .div then [o.va, o.vb] else [o.va]).map f64)
      (f64 o.vd) (laneBody .f64 true o.pg (elemLane fn .f64)) ∧
    ints .add .i64 (fun a b => a + b) ∧
    ints .sub .i64 (fun a b => a + 2 ^ 64 - b) ∧
    ints .mul .i64 (fun a b => a * b) ∧
    ints .min .i64 (fun a b => if v a ≤ v b then a else b) ∧
    ints .max .i64 (fun a b => if v a ≤ v b then b else a) ∧
    ints .minu .n64 (fun a b => min a b) ∧
    ints .maxu .n64 (fun a b => max a b) ∧
    ints .and .i64 (fun a b => a &&& b) ∧
    ints .or .i64 (fun a b => a ||| b) ∧
    ints .xor .i64 (fun a b => a ^^^ b) ∧
    ints .sll .i64 (fun a b => a * 2 ^ (b % 64)) ∧
    ints .srl .i64 (fun a b => a / 2 ^ (b % 64)) ∧
    ints .sra .i64 (fun a b => ((v a / 2 ^ (b % 64)) % 2 ^ 64).toNat) ∧
    comp (.i64Arithmetic y .cmplt o) .i64 .lt ∧
    comp (.i64Arithmetic y .cmpltu o) .n64 .lt ∧
    comp (.i64Arithmetic y .cmpeq o) .i64 .eq ∧
    comp (.f64OtherArithmetic y .cmpeq o) .f64 .eq ∧
    comp (.f64OtherArithmetic y .cmpne o) .f64 .ne ∧
    comp (.f64OtherArithmetic y .cmplt o) .f64 .lt ∧
    comp (.f64OtherArithmetic y .cmple o) .f64 .le ∧
    comp (.f64OtherArithmetic y .cmpun o) .f64 .un

/-- VSMRG completes where it may issue in C, its destination is a register group (one of three registers lying in one
half of the file) and its triples can be read: it is in flight in its hem phase with the merged triple, its flags and
its lane flags. A fused group of VREDMAX, VSUB, VEXP or VEXP2 and VREDSUM that meets its conditions issues as one word
with the waits of word 1 and the signals of word 4, and the stream goes on 32 bytes further: where no word raises a
cause it is in flight with the registers, the lane-flag record and the flags that the four words leave when they run one
after another, and its registers still hold what they held. That each stands in a hem phase is the model's choice (log 40), and so is which NaN
a merged triple takes (log 39) (spec/05_vector_scalar_arithmetic.md, Merging attention
triples; spec/06_elementary_functions.md, The fused softmax sequence). -/
def Obligations.MergeAndFusedWords : Prop :=
  ∀ (y : Sync) (vd va : BitVec 7) (hd : HeadDim) (o : FusedOp),
    Safety.hemWord (.vsmrg y vd va hd) y
      (fun _ => vd.toNat < 64 ∧ (hd = .d256 → thirdsOk vd = true ∧ thirdsOk va = true))
      [tripleSpec va hd, tripleSpec vd hd] (tripleSpec vd hd) (mergeRes hd) ∧
    (∀ s : State,
      let z : Sync := { wthr := o.wthr, wsem := o.wsem, sinc := o.sinc, ssem := o.ssem, tki := o.tki, tko := o.tko }
      Safety.issues s .c z → fusedOk o s = true →
      let t := issueTake s .c z
      let run (ws : List (List Spec × Spec × (State → List Src → VRes))) (v : State) : State × Option CauseRec × FFlags :=
        ws.foldl (fun a w => match a.2.1 with
          | some _ => a
          | none => ((vecBody w.1 (some w.2.1) w.2.2 a.1).s, (vecBody w.1 (some w.2.1) w.2.2 a.1).err,
              a.2.2 ||| (vecBody w.1 (some w.2.1) w.2.2 a.1).flags)) (v, none, 0)
      let r := run (fusedWords o) t
      r.2.1 = none → ∃ l : Late,
        exec (.fusedSoftmaxGroup o) s = .next (Safety.flown t .c (s.core.c.pc + 32)
          { Safety.flight .c z (.fusedSoftmaxGroup o) s.core.c.pc with kind := .hem, done := false, late := some l }) ∧
        (putRegs t.core l.regs).v = r.1.core.v ∧ l.lflags = r.1.core.lflags ∧ l.flags = r.2.2 ∧ l.cause = none ∧ l.push = none)

/-- Where it may issue and its operands are legal: QPOST, which has read its descriptor, pages and query, reserves the
vectors of a triple and is accepted as a query of its group, at once or after waiting for room; KAPP is accepted with a
pending append and writes its entry; XFER sends every element to its rank and RSIG its signal, and both are in flight
until the peer answers, while an RSIG to the own rank signals at once when the earlier writes of its unit are performed
and waits until then. KAPP_WRITE_THROUGH clears an append whose entry is
written whole or whose KAPP writes no more of it, BANK_SCAN_COMPLETE makes the triple of a bank ready in its
query, and TRIPLE_PUSH appends the next ready triple to its result queue. That one triple stays reserved until the last bank (log 42), that an
append is recorded at its first write (log 43) and that a waiting QPOST goes on with what it has read (log 87) are the
model's choices (spec/11_cuff_attention.md, Posting a query;
spec/11_cuff_attention.md, Appending and the snapshot; spec/10_memory_instructions.md, Transfers to peers). -/
def Obligations.AttentionAndPeerWords : Prop :=
  ∀ (s : State) (y : Sync) (u : SeqId) (o : XOp) (ik il ij ip : BitVec 4) (qa : BitVec 7) (q : BitVec 3) (sem : BitVec 8)
    (inc : BitVec 2),
    let t := issueTake s u y
    let pc := (seqOf s u).pc
    let goes (i : Instr) (v : State) (f : Flight → Flight) : Prop :=
      exec i s = .next (Safety.flown v u (pc + 8) (f (Safety.flight u y i pc)))
    let accepted (v : State) (p : QPost) (pos : Nat) : State :=
      let holds := (v.dev.appends.filter fun a =>
        a.stack == p.stack && (match entryAt p.entry p.pages a.pa with | some j => decide (j < p.len) | none => false)).map (·.pa)
      let c := match opdOf qa with
        | .g g => gsetReg v.core g { gget v.core g with pos }
        | _ => v.core
      let r := qget c q
      { v with
        core := qsetReg c q { r with rsvd := r.rsvd + tripleVecs p.dim }
        dev := { v.dev with
          qposts := v.dev.qposts ++ [{ p with id := v.dev.nextQid, holds }], nextQid := v.dev.nextQid + 1 } }
    (Safety.issues s u y → u = .c → qa.toNat < 0x50 → postReady qa ik il q s = none → specEarly s false (querySpec qa) = .ok () →
      (∀ p pos, s.core.c.wait = .post p pos → goes (.qpost y qa ik il q) (accepted t p pos) id) ∧
      ((∀ p pos, s.core.c.wait ≠ .post p pos) → ∀ s1 k pages b s2 vec sc, readCache t ik il = .ok (s1, k, pages, b) →
        readOne s1 (querySpec qa) 0 = .ok (s2, vec, sc) →
        let pos := match opdOf qa with | .g g => (gget s2.core g).pos | _ => 0
        goes (.qpost y qa ik il q) (accepted s1 (postOf s1 k pages b il q vec) pos) id)) ∧
    (Safety.issues s u y → u = .s → s.part = none → moveDecode kappMove o s u = .ok () → kappReady o ij s u = none →
      sourceEarly true false false o s u = .ok () → checking t = false → ∀ s0 e ap, kappEnds o ij t u = .ok (s0, e, ap) →
      let p := pull (s0.onDev fun d => { d with appends := d.appends ++ [ap] }) u e none 0
      p.halt = .done →
      let plan := (p.grps.map (planGroup e.dd)).flatten
      ∀ s2, writePlan (.seq u) (accOf t) [.mem] e.dd.ty plan plan (markDest p.s (accOf t) e.dd) = (s2, none) →
        goes (.kapp y o ij) (s2.onDev fun d =>
          { d with appends := d.appends.map fun p => if p == ap then { p with whole := true } else p }) (Safety.movedFlight e p)) ∧
    (Safety.issues s u y → u = .s ∨ isCopy u = true → moveDecode xferMove o s u = .ok () →
      ∀ rank, xferRank ip s u = .ok rank → sourceEarly true true true o s u = .ok () → checking t = false →
      ∀ s0 e, fetchEnds noOwn xferMove o t u = .ok (s0, e) → hasRoute t.dev rank = true →
      let p := pullXfer s0 u e none 0
      p.halt = .done → (∀ g ∈ p.grps, alignCheck e.dd.ty (e.dd.addr (g.e / groupElems e.dd.ty)) true = .ok ()) →
        goes (.xfer y o ip) (sendElems rank u e.dd p.grps p.s) fun f =>
          { Safety.movedFlight e p f with kind := .peer, done := false, rank, descs := e.descs }) ∧
    (Safety.issues s u y → u = .s ∨ isCopy u = true → checking t = false →
      ∀ rank core, rsigTarget inc ip s u = .ok (rank, core) →
      (rank = ownRank s.dev → writesPending t u = true →
        exec (.rsig y sem inc ip) s = .next (stallWord t u 0 { s := t, wait := some 0, counted := false })) ∧
      (rank = ownRank s.dev → writesPending t u = false → ∀ s1,
        signalCore t core (if core = s.core.gcore then sourceBit u else 6) sem (incOf inc) = .ok s1 →
        goes (.rsig y sem inc ip) s1 id) ∧
      (rank ≠ ownRank s.dev → hasRoute t.dev rank = true →
        goes (.rsig y sem inc ip) (t.onDev (·.send (.rsig rank s.core.gcore u s.core.asid core sem (incOf inc))))
          fun f => { f with kind := .peer, done := false, rank })) ∧
    (∀ k a, s.dev.appends[k]? = some a → appendOpen s a = false → ∃ v, exec (.kappWriteThrough k) s = .next v ∧
      v.dev.appends = s.dev.appends.eraseIdx k ∧ v.core = s.core ∧ v.others = s.others ∧
      (∀ pa, a.pa ≤ pa → pa < a.pa + a.len → slook v.dev.l2 pa = none) ∧
      (Safety.rising s.dev.l2 → ∀ pa, l2Byte v.dev pa = l2Byte s.dev pa)) ∧
    (∀ qid bank ecc p, s.dev.qposts.find? (fun x => x.id == qid) = some p → p.next ≤ bank → bank < p.banks →
      slook p.ready bank = none → scanBefore s.dev p bank = false → bankHeld p bank = false →
      let r := scanReads s p bank
      let bad := decide (ecc = .uncorrectable) || r.2.1
      let tr := if bad then tripleOf p bank 2 0 0x7FC00000 0x7FC00000 (List.replicate p.dim 0x7FC00000)
        else scanBank s.dev p bank (decide (ecc = .corrected) || r.2.2)
      exec (.bankScanComplete qid bank ecc) s =
        .next (r.1.onDev fun d => putPost d { p with ready := sput (tr, bad) p.ready bank })) ∧
    (∀ qid p tr, s.dev.qposts.find? (fun x => x.id == qid) = some p → p.core < 288 →
      s.dev.qposts.any (fun x => x.id < p.id && x.core == p.core && x.q == p.q) = false → slook p.ready p.next = some tr →
      let n := BitVec.ofNat 3 p.q
      let r := qget (coreAt s p.core) n
      let kept := if p.next + 1 = p.banks then r.rsvd - tripleVecs p.dim else r.rsvd
      let r' : RQueue := { r with vecs := r.vecs ++ queued tr, rsvd := kept }
      r.vecs.length + r.held + r.rsvd ≤ 128 → ∃ v, exec (.triplePush qid) s = .next v ∧
        coreAt v p.core = { qsetReg (coreAt s p.core) n r' with ev := (coreAt s p.core).ev ||| 16 })

/-- A counted wait of X under a nonzero LIMIT ends in SYNC.WAIT_TIMEOUT; one of a sequencer leaves that cause at its
word, with the counts untouched and the words that issued past it cancelled; neither does while the task of the core is being saved, but
for an issued word that waits at an element. WFE_TIMER latches the end of a timed WFE. TRAP_DELIVERY hands the pending cause of a
unit of the core to X when X may take it, which enters its handler once x1 to x7 stand in the frame. INSN_ILLEGAL raises INSN.ILLEGAL for a word that no encoding assigns, with
the word in TRAP_INFO. COPY_ENGINE_START begins the first post of an idle engine at its entry, with its parameter in
i0, or asks the home of its record for it. N_OPERATION_PERFORM performs an accepted operation that no earlier one of its unit at its bytes precedes, and
takes it off the list (spec/13_execution_scheduling.md, Semaphores and waits; spec/17_faults_and_traps.md, Precision
and the other sequencers; spec/17_faults_and_traps.md, Trap registers and handler mode;
spec/10_memory_instructions.md, Copy-engine transfer programs). -/
def Obligations.UnitEvents : Prop :=
  ∀ (s : State) (u : SeqId) (w : Word),
    let limit := s.core.wdogLimit &&& 0xFFFFFFFF
    (limit ≠ 0 → s.core.saving = none → s.core.xwait ∈ [.swait, .cacq, .join, .ecmd, .redst, .wfe false] →
      exec (.waitTimeout .x) s = .next (trapX s { cause := .waitTimeout })) ∧
    (limit ≠ 0 → noUnit u = false → ownSeq s u = true → countedSeq (seqOf s u).wait = true → (seqOf s u).cause = none →
      (seqOf s u).flushed = false → isCopy u = true ∨ s.core.saving = none ∨ stalledWord (seqOf s u) = true →
      ∃ t c, exec (.waitTimeout (.seq u)) s = .next t ∧ (seqOf t u).cause = some c ∧ c.cause = .waitTimeout ∧
        c.pc = (((seqOf s u).undo.map (·.pc)).getD (seqOf s u).pc) ∧ (seqOf t u).delivered = false ∧ (seqOf t u).wait = (match (seqOf s u).wait with | .post _ _ => .counted | v => v) ∧
        t.core.sem = s.core.sem ∧ t.core.tok = s.core.tok ∧ t.core.x = s.core.x ∧ t.dev.hbm = s.dev.hbm) ∧
    (s.core.xwait = .wfe true → s.core.saving = none → exec .wfeTimer s = .next { s with core := { s.core with wfeHit := true } }) ∧
    (∀ c, noUnit u = false → (seqOf s u).delivered = false → (seqOf s u).cause = some c → takesCause s.core = true →
      ownSeq s u = true →
      exec (.trapDelivery u) s = .next (deliverCause s (.seq u) c) ∧
      (s.core.trapVec ≠ 0 → ∀ s1, vwrite s (trapAcc s) .x .l2 true (frameBase s.core.taskFrame + 0x40) (x17Bytes s.core) = .ok s1 →
        let v := setSeq s1 u { seqOf s1 u with delivered := true }
        let t := deliverCause s (.seq u) c
        t = enterHandler v (.seq u) c ∧ (seqOf t u).delivered = true ∧ t.core.handler = true ∧ t.core.pc = v.core.trapVec ∧
          t.core.trapCause = trapCauseWord (.seq u) c ∧ (t.core.trapPc, t.core.trapAddr) = trapPcAddr (.seq u) c v.core.pc ∧
          t.core.trapInfo = c.info ∧ t.core.x = v.core.x)) ∧
    (decodes .x w = false →
      exec (.insnIllegal .x w) s = .next (trapX s { cause := .illegal, info := BitVec.ofNat 64 (w.toNat % 2 ^ 32) })) ∧
    (decodes (.seq u) w = false → noUnit u = false → (seqOf s u).flushed = false → ∃ t c, exec (.insnIllegal (.seq u) w) s = .next t ∧
      (seqOf t u).cause = some c ∧ c.cause = .illegal ∧ c.info = w ∧ c.pc = (seqOf s u).pc ∧ (seqOf t u).pc = (seqOf s u).pc) ∧
    (∀ m (h : m < 48) p ps, s.dev.ce[m].posts = p :: ps → s.dev.ce[m].prog = none →
      recordBusy (focus s p.core) m p = false →
      (recordAwait (focus s p.core) m p = none →
        exec (.copyEngineStart m) s = .next (onCoreNo s p.core fun v => startPost v m p)) ∧
      (∀ w, recordAwait (focus s p.core) m p = some w →
        exec (.copyEngineStart m) s = .next (onCoreNo s p.core fun v => awaitAsk v (.seq (.e m)) w)) ∧
      ∀ v v1 entry par, readRecordOf v m p = .ok (v1, entry, par) → entry.toNat % 8 = 0 →
        let e := (startPost v m p).dev.ce[m]
        e.prog = some p.core ∧ e.posts = v1.dev.ce[m].posts.tail ∧ e.seq.pc = entry ∧ e.seq.running = true ∧
          e.seq.idx[0] = par ∧ e.seq.cause = none) ∧
    (∀ k n, s.dev.nops[k]? = some n → (∀ o ∈ s.dev.nops.take k, nopClash n o = false) →
      regionBusy s.dev n.pa = false →
      exec (.nOperationPerform k) s = .next ((performNop s n).onDev fun d => { d with nops := d.nops.eraseIdx k }))

/-- LAUNCH_RECORD_READ takes the record at QHEAD of the next queue of the round: one that cannot be read sets the
error bit of QCTL, one that breaks a rule gets its status code, and an accepted one becomes a launch with STATUS 0x01
and ready work; QHEAD goes on in the last two cases. TASK_DISPATCH starts or resumes the work that an idle core takes
from a region; C_LAUNCH_START starts every task of a class C launch; CHECK_START_DELAY ends a start delay;
PRIORITY_PREEMPTION begins the save of the resident WP task of lowest priority; CONTEXT_SAVE saves a task whose units
are at rest. A frame that cannot be accessed stops the launch, and one whose page is elsewhere is asked for (R274, R319) (spec/13_execution_scheduling.md, Work queues and launch records; spec/13_execution_scheduling.md, Tasks;
spec/13_execution_scheduling.md, Progress classes; spec/17_faults_and_traps.md, Context save and restore). -/
def Obligations.SchedulerEvents : Prop :=
  ∀ (s : State),
    let starts (i : Instr) (s0 : State) (launch : Nat) (r : Res State) : Prop :=
      (∀ t, r = .ok t → exec i s = .next (dropDevAsks t)) ∧
      (∀ c, r = .error c → c.await = none → exec i s = .next (dropDevAsks (stopLaunch s0 launch))) ∧
      ∀ c rank p, r = .error c → c.await = some (.ask rank p) → exec i s = .next (s.onDev fun d => askOf d 288 .x rank p)
    (∀ q, nextQueue s.dev = some q → recordWaits s (queueAt s.dev q) = none →
      let r := queueAt s.dev q
      let s0 := regionNotes s (fld r.qctl.toNat 16 16)
      (readRecord s0 r = none → ∃ t, exec (.launchRecordRead q) s = .next t ∧ t.core = s.core ∧ t.others = s.others ∧
        t.dev.launches = s.dev.launches ∧ t.dev.ready = s.dev.ready ∧
        queueAt t.dev q = { r with qctl := r.qctl ||| 8 } ∧ t.dev.lastQ = q) ∧
      (∀ s1 va qasid n, readRecord s0 r = some (s1, va, qasid, n) →
        let s2 := regionNotes (dropDevAsks { s1 with dev := { putQueue s1.dev q { r with qhead := r.qhead + 1 } with lastQ := q } }) (fld n 160 16)
        let code := recordStatus s2 n (fld r.qctl.toNat 16 16) qasid
        (code ≠ 1 → exec (.launchRecordRead q) s = .next (writeStatus s2 q va qasid code)) ∧
        (code = 1 → ∃ l s3, exec (.launchRecordRead q) s = .next (readyLaunch (setStatus s3 l 1) { l with status := 1 }) ∧
          s3.dev.launches = s2.dev.launches ++ [l] ∧ s3.core = s2.core ∧ l.id = s2.dev.nextLaunch ∧ l.queue = q ∧
          l.entry = BitVec.ofNat 64 (n % 2 ^ 64) ∧ l.total = n / 2 ^ 184 % 2 ^ 17 + 1 ∧ l.live = l.total ∧ l.started = false))) ∧
    (∀ core region w, idleCore s core = true → dispatchable s core region = some w →
      (∀ g, g < core → takesWork s g = false) →
      let s0 := s.onDev fun _ => notePass s region w.prio
      starts (.taskDispatch core region) s0 w.launch (takeWork s0 core w)) ∧
    (∀ id w c, cStart s id = some (w, c) →
      let s0 := s.onDev fun _ => notePass s w.region w.prio
      let r := beginRun (dropReady s0.dev w) c.l
      starts (.cLaunchStart id) s0 id (startAll r.2 w c.eff 0 c.cores c.slots { s0 with dev := r.1 })) ∧
    (∀ t, s.core.task = some t → t.hold = true →
      exec .checkStartDelay s = .next { s with core := { s.core with task := some { t with hold := false } } }) ∧
    (∀ p c, stuckPrio s = some p → victim s p = some c → c.handler = false → c.saving = none →
      (∀ k ∈ allCores s, k.saving ≠ some .preempt) →
      ∃ t, exec .priorityPreemption s = .next t ∧ coreAt t c.gcore = { c with saving := some .preempt } ∧
        c.task.any (fun x => x.cls = 0 && x.prio < p) = true) ∧
    (∀ t r, s.core.task = some t → s.core.saving = some r → saveReady s = true →
      starts .contextSave (flushL1 { s with core := frozenCore s.core }) t.launch (saveTask s t r))

/-- QTAIL_WRITE posts records, or sets OVF and changes nothing else where they would pass the queue; ELOGTAIL_WRITE
moves the tail and clears OVF; a write of a register while the interface is locked and the request is not trusted is
discarded and logged where the manual guards it. SEAL sets the bits of the named frames and no other; UNSEAL drops their
L1 lines, zeroes every byte of them and clears their bits; both set BUSY, which SEALCMD_DONE clears; TLB_INVALIDATE sets BUSY
and drops the named translations, and its end, which waits for what uses them, drops them again, reads the named entries of the
ASID table with ALLVA, and clears BUSY; SWAP_PAIR begins a legal pair, each of its 64 line
exchanges brings 64 far bytes near as the pair's ASID reads them, and its end clears the pair and BUSY; a PGDONE
that is not barred makes a parked task ready again, clears the pending page of a resident one and adds 1 to the semaphore of a class C
task, and logs a frame that waits for nothing with code 3; GO takes the firmware state to 1, verification gives its result, and
firmware that is ready raises the rollback counter where its header asks for it. That GO does nothing while verification or
firmware runs is the model's choice (log 63), and so is that the writes of 0x20000 and 0x20008 stay guarded in a
teardown (log 85) (spec/15_isolation.md, Host-visible
registers; spec/15_isolation.md, Sealing; spec/15_isolation.md, Swap pairs; spec/15_isolation.md, Firmware and
attestation; spec/15_isolation.md, Page faults and the pager; spec/13_execution_scheduling.md, Work queues and launch
records). -/
def Obligations.HostRegisterEvents : Prop :=
  ∀ (s : State) (v : Word) (tr : Bool),
    (∀ q, q < 1024 →
      let r := queueAt s.dev q
      let tail := v.setWidth 32
      let fits := (tail - r.qhead).toNat ≤ 2 ^ qlog r
      ∃ t, exec (.qtailWrite q v) s = .next t ∧ t.core = s.core ∧ t.others = s.others ∧
        queueAt t.dev q = (if fits then { r with qtail := tail } else { r with qctl := r.qctl ||| 4 }) ∧
        ∀ p, p ≠ q → queueAt t.dev p = queueAt s.dev p) ∧
    (exec (.elogtailWrite v) s = .next (s.onDev fun d =>
      { d with elogtail := v, eloghead := d.eloghead &&& 0x7FFFFFFFFFFFFFFF })) ∧
    (∀ off, ownStep off = false →
      let held := guarded off = true ∧
        (barred s.dev tr = true ∨ (s.dev.teardown = true ∧ (off = 0x20000 ∨ off = 0x20008)))
      (held → exec (.registerWrite off v tr) s = .next (s.onDev (herr · 4 off))) ∧
      (¬ held → exec (.registerWrite off v tr) s = .next (s.onDev (regWrite · off v)))) ∧
    (isTrusted s.dev tr = true → s.dev.sealcmd.getLsbD 63 = false →
      let lo := (cmdFrames v).1
      let hi := (cmdFrames v).2
      let sound := s.dev.softWords = [] ∧ s.dev.badWords = [] ∧ s.dev.badL2 = [] ∧ Safety.rising s.dev.l2
      let bitAt (t : State) (f : Nat) : Bool := (l2Byte t.dev (s.dev.sealbase.toNat + f / 8)).getLsbD (f % 8)
      let busy (t : State) : Prop := t.dev.sealcmd = (v &&& sealMask) ||| 0x8000000000000000
      (v.getLsbD 62 = false → ∃ t, exec (.sealFrames v tr) s = .next t ∧ busy t ∧ t.core = s.core ∧ t.others = s.others ∧
        (sound → ∀ f, bitAt t f = (bitAt s f || (decide (lo ≤ f) && decide (f < hi))))) ∧
      (v.getLsbD 62 = true → ∃ t, exec (.unsealFrames v tr) s = .next t ∧ busy t ∧ t.core.x = s.core.x ∧
        (∀ e ∈ t.core.l1, 64 * e.1 < hbmEnd → e.1 / 64 < lo ∨ hi ≤ e.1 / 64) ∧
        (sound → (∀ f, lo ≤ f → f < hi → bitAt t f = false) ∧
          ∀ pa, lo ≤ pa / 4096 → pa / 4096 < hi → ¬ Safety.within s.dev.sealbase.toNat (2 ^ 25) pa → l2Byte t.dev pa = 0))) ∧
    (s.dev.sealcmd.getLsbD 63 = true →
      exec .sealcmdDone s = .next (s.onDev fun d => { d with sealcmd := d.sealcmd &&& sealMask })) ∧
    (let lo := if v.getLsbD 40 then 0 else s.dev.tlbinva.toNat / 4096
      let hi := if v.getLsbD 40 then 2 ^ 52 else lo + v.toNat % 2 ^ 20 + 1
      s.dev.tlbinvc.getLsbD 63 = false → ∃ t, exec (.tlbInvalidate v) s = .next t ∧ t.core = s.core ∧ t.others = s.others ∧
        t.dev.asidTab = s.dev.asidTab ∧ t.dev.tlbinvc = (v &&& 0x00FFF300000FFFFF) ||| 0x8000000000000000 ∧
        ∀ e, e ∈ t.dev.tlb ↔ e ∈ s.dev.tlb ∧ tlbHits e (v.getLsbD 41) (v.extractLsb' 44 12) lo hi = false) ∧
    (s.dev.tlbinvc.getLsbD 63 = true → usesDropped s = false → ∃ t, exec .tlbInvalidateDone s = .next t ∧ t.core = s.core ∧
      t.others = s.others ∧ t.dev.tlb = (tlbNamed s.dev).tlb ∧ t.dev.tlbinvc = s.dev.tlbinvc &&& 0x7FFFFFFFFFFFFFFF ∧
      (s.dev.tlbinvc.getLsbD 40 = false → t.dev.asidTab = s.dev.asidTab) ∧
      (s.dev.tlbinvc.getLsbD 40 = true → ∀ a : BitVec 12,
        s.dev.tlbinvc.getLsbD 41 = true ∨ a = s.dev.tlbinvc.extractLsb' 44 12 → sget 0 t.dev.asidTab a.toNat = asidWord s.dev a)) ∧
    (∀ w, barred s.dev tr = false → s.dev.migc.getLsbD 63 = false → swapOf s.dev (v.setWidth 12) = .ok w →
      exec (.swapPair v tr) s = .next (swapBegin s w)) ∧
    (∀ w, s.dev.swap = some w → w.done < 64 → ∃ t, exec .swapLineExchange s = .next t ∧
      t.dev.swap = some { w with done := w.done + 1 } ∧ t.core = s.core ∧
      (s.dev.softWords = [] → (l2Read s.dev (w.near + 64 * w.done) 64).isSome = true →
        let key := if sealedAsid s.dev w.asid then xtsKey s.dev w.asid else 0
        ∀ i, i < 64 → hbmByte t.dev (w.near + 64 * w.done + i) = farByteAs s.dev key (w.far + 64 * w.done + i))) ∧
    (∀ w, s.dev.swap = some w → 64 ≤ w.done → ∃ t, exec .swapPairDone s = .next t ∧ t.dev.swap = none ∧
      t.dev.migc = BitVec.ofNat 64 w.asid.toNat ∧ t.core = s.core) ∧
    (barred s.dev tr = true → ∃ t, exec (.pgdone v tr) s = .next t) ∧
    (barred s.dev tr = false →
      (∀ a, savedOf s.dev v = some a → a.task.pagePending = true → a.parked = true → a.joined = false →
        ∃ t, exec (.pgdone v tr) s = .next t ∧ t.core = s.core ∧ t.others = s.others ∧
          savedOf t.dev v = some { a with parked := false, task := { a.task with pagePending := false } } ∧
          ∃ w ∈ t.dev.ready, w.kind = .resume v ∧ w.launch = a.task.launch ∧ w.region = a.task.region ∧ w.prio = a.task.prio) ∧
      (∀ c t, savedOf s.dev v = none → residentAt s v = some c → c.task = some t → t.pagePending = true →
        exec (.pgdone v tr) s = .next (putCore s c.gcore
          { (if inClassC s.dev t then bumpSem c t.pgSem else c) with task := some { t with pagePending := false } })) ∧
      ((∀ a, savedOf s.dev v = some a → (a.task.pagePending && a.parked && !a.joined) = false) →
        (savedOf s.dev v = none → ∀ c t, residentAt s v = some c → c.task = some t → t.pagePending = false) →
        exec (.pgdone v tr) s = .next (s.onDev (herr · 3 0x20040)))) ∧
    (barred s.dev tr = false → ∃ t, exec (.firmwareLoad v tr) s = .next t ∧
      t.dev.fwstat = (if v.getLsbD 0 && s.dev.fwstat != 1 && s.dev.fwstat != 2 then 1 else s.dev.fwstat)) ∧
    (∀ r, s.dev.fwstat = 1 → verifyMay s.dev r = true → ∃ t, exec (.firmwareVerifyDone r) s = .next t ∧
      t.dev.fwstat = BitVec.ofNat 64 r) ∧
    (s.dev.fwstat = 2 → ∃ t, exec .firmwareReady s = .next t ∧
      t.dev.rollback = if s.dev.fwAdvance then max s.dev.rollback s.dev.fwSvn else s.dev.rollback)

/-- LOCK_INTERFACE locks an unlocked interface outside a teardown, START_INTERFACE runs a locked one, STOP_INTERFACE
unlocks it and starts the teardown, whose end destroys the XTS keys; the report and state messages are answered. An SPDM
request is answered with the capabilities, with a certificate chain, or with a measurement, of which the second is the
hash of the firmware and the third its version and the boot counter; a signed answer, which a challenge and a key exchange have too, uses a leaf while one is left. An
IDE request enables or disables a stream. A host access of BAR0 reaches a register only as 8 aligned bytes: else a read
gives all ones and a write is discarded. A host read within BAR2 that need not wait is answered with the bytes of an
ordinary frame, and with all ones for a sealed frame in an untrusted request; a host write stores its bytes in an
ordinary frame while no window is open, and discards them, untrusted, for a sealed frame; neither changes a core. The
host reads and writes its own memory where the far tier lies. That LOCK has no effect in a teardown and the codes of the interface
states (log 64), the layout of measurement 3 (log 84) and what the host finds in its memory (log 88) are the
model's choices; where a seal bit cannot be read, log 90 says what a request meets (spec/15_isolation.md, Sealing; spec/15_isolation.md,
Host-visible registers). -/
def Obligations.HostMessagesAndMemory : Prop :=
  ∀ (s : State),
    (∃ t, exec .lockInterface s = .next t ∧ t.core = s.core ∧
      t.dev = { s.dev with iface := if s.dev.iface = .unlocked ∧ s.dev.teardown = false then .locked else s.dev.iface }) ∧
    (∃ t, exec .startInterface s = .next t ∧ t.core = s.core ∧
      t.dev = { s.dev with iface := if s.dev.iface = .locked then .run else s.dev.iface }) ∧
    (∃ t, exec .stopInterface s = .next t ∧ t.core = s.core ∧
      t.dev.iface = (if s.dev.iface = .locked ∨ s.dev.iface = .run then .unlocked else s.dev.iface) ∧
      t.dev.teardown = (decide (s.dev.iface = .locked ∨ s.dev.iface = .run) || s.dev.teardown)) ∧
    exec .getDeviceInterfaceReport s = .next (s.onDev (·.send (.report [0, 2]))) ∧
    exec .getDeviceInterfaceState s = .next (s.onDev fun d => d.send (.ifaceState (ifaceCode d.iface))) ∧
    (s.dev.teardown = true → ∃ t, exec .sealedTeardownDone s = .next t ∧ t.dev.teardown = false ∧ t.dev.xts = [] ∧ t.dev.xtsDue = []) ∧
    exec (.spdmRequest .capabilities) s = .next (s.onDev (·.send (.spdm (.capabilities spdmCaps)))) ∧
    (∀ k, k < 8 → exec (.spdmRequest (.certificate k)) s = .next (s.onDev (·.send (.spdm (.certificate (certChain k)))))) ∧
    exec (.spdmRequest (.measurement 2 false)) s = .next (s.onDev (·.send (.spdm (.measurement 2 s.dev.fwHash)))) ∧
    exec (.spdmRequest (.measurement 3 false)) s = .next (s.onDev (·.send (.spdm (.measurement 3
      (toBytesLE 4 s.dev.fwSvn ++ toBytesLE 4 s.dev.bootCount))))) ∧
    (∀ r, (r = .challenge ∨ r = .keyExchange ∨ ∃ k, 1 ≤ k ∧ k ≤ 5 ∧ r = .measurement k true) →
      ∃ t, exec (.spdmRequest r) s = .next t ∧ t.core = s.core ∧
        t.dev.spdmLeaf = if canSign s.dev then s.dev.spdmLeaf + 1 else s.dev.spdmLeaf) ∧
    (∀ k on, ∃ t, exec (.ideKmRequest k on) s = .next t ∧ t.core = s.core ∧
      ∀ n, n ∈ t.dev.ide ↔ if n = k ∧ k < 5 then on = true else n ∈ s.dev.ide) ∧
    (∀ off n tr, off + n ≤ 2 ^ 26 → exec (.hostMemoryRead (.bar0 off) n tr) s = .next (s.onDev (·.send (.hostRead
      (if off % 8 = 0 ∧ n = 8 then toBytesLE 8 (regRead s.dev off).toNat else List.replicate n 0xFF))))) ∧
    (∀ off bs tr, off + bs.length ≤ 2 ^ 26 →
      (¬ (off % 8 = 0 ∧ bs.length = 8) → exec (.hostMemoryWrite (.bar0 off) bs tr) s = .next s) ∧
      (off % 8 = 0 → bs.length = 8 → ownStep off = false →
        exec (.hostMemoryWrite (.bar0 off) bs tr) s = exec (.registerWrite off (BitVec.ofNat 64 (ofBytesLE bs)) tr) s)) ∧
    (∀ addr n tr, addr + n ≤ 2 ^ 40 → hostWaits s.dev addr n = false →
      ∃ t, exec (.hostMemoryRead (.bar2 addr) n tr) s = .next t ∧ t.core = s.core ∧ t.others = s.others ∧
        (s.dev.softWords = [] → t.dev.hbm = s.dev.hbm ∧ t.dev.l2 = s.dev.l2) ∧
        (0 < n → addr % 4096 + n ≤ 4096 → frameSealed s.dev (addr / 4096) = true → isTrusted s.dev tr = false →
          sealUnread s.dev (addr / 4096) = false → ∃ d : Dev, t.dev = d.send (.hostRead (List.replicate n 0xFF))) ∧
        (0 < n → addr % 4096 + n ≤ 4096 → frameSealed s.dev (addr / 4096) = false → isSecondary s.dev addr = false →
          isPrimary s.dev addr = false → l2Bad s.dev addr n = false → s.dev.softWords = [] → s.dev.badWords = [] →
          isTrusted s.dev tr = true ∨ sealUnread s.dev (addr / 4096) = false →
          ∀ bs, l2Read s.dev addr n = some bs → t.dev = s.dev.send (.hostRead bs))) ∧
    (∀ addr bs tr, addr + bs.length ≤ 2 ^ 40 → hostWaits s.dev addr bs.length = false →
      ∃ t, exec (.hostMemoryWrite (.bar2 addr) bs tr) s = .next t ∧ t.core = s.core ∧ t.others = s.others ∧
        (bs ≠ [] → addr % 4096 + bs.length ≤ 4096 → frameSealed s.dev (addr / 4096) = true → isTrusted s.dev tr = false →
          t.dev.hbm = s.dev.hbm ∧ t.dev.l2 = s.dev.l2) ∧
        (addr % 4096 + bs.length ≤ 4096 → frameSealed s.dev (addr / 4096) = false → isSecondary s.dev addr = false →
          isPrimary s.dev addr = false → s.dev.rwins = [] → Safety.rising s.dev.l2 →
          isTrusted s.dev tr = true ∨ sealUnread s.dev (addr / 4096) = false →
          ∀ i b, bs[i]? = some b → l2Byte t.dev (addr + i) = b)) ∧
    (∀ addr n tr, addr + n ≤ 2 ^ 48 → exec (.hostMemoryRead (.far addr) n tr) s = .next (s.onDev (·.send (.hostRead
      ((List.range n).map fun i => hostFarByte s.dev (farBase + addr + i)))))) ∧
    (∀ addr bs tr, addr + bs.length ≤ 2 ^ 48 → ∃ t, exec (.hostMemoryWrite (.far addr) bs tr) s = .next t ∧
      t.core = s.core ∧ t.others = s.others ∧ t.dev.hbm = s.dev.hbm ∧
      (s.dev.farKey = [] → ∀ i b, bs[i]? = some b → hostFarByte t.dev (farBase + addr + i) = b))

/-- OPEN starts a rank that waits for it at the next attempt. A vote of a child that has not voted joins the running
vote; a timer that finds a vote missing sends the running vote up, or decides at rank 0. A decision for A from the
parent or a child is applied: A becomes LAID with its outcome, the rank is idle at the next attempt, a TWAIT for A
goes on past its word, and every pleat controller holds the outcome of A and aborted for its companion, so that a block which A wrote reads
the tentative slot inside A, and from the decision on the slot that the outcome chooses; a decision for another attempt changes nothing. DECISION_TIMEOUT counts four queries, then the
rank is in doubt and every TWAIT for A raises TXN.VOTE_TIMEOUT. SEAMRES resolves an attempt in doubt. A legal SEAMCFG write that is not barred opens rank 0 with
A = LAID + 2, and a legal PLEATCFG write enables its controller; the passes of the controllers end. A scrub
pass rewrites the metadata of every block of no live attempt to its committed slot and changes no byte that any access reads. A TWAIT in doubt
and a TBEGIN held past its time raise TXN.VOTE_TIMEOUT and TXN.WINDOW_WRAP. That TRAP_INFO of these causes is the AID is the
model's choice (log 29) (spec/16_step_transactions.md, The Seam;
spec/16_step_transactions.md, Registers; spec/16_step_transactions.md, Pleat blocks; spec/16_step_transactions.md,
Attempts on one device). -/
def Obligations.SeamEvents : Prop :=
  ∀ (s : State) (v : SeamMsg),
    let m := s.dev.seam
    let resumes (t : State) : Prop := ∀ r a, s.core.xwait = .twait r a → a = m.aid → s.core.saving = none →
      t.core.pc = s.core.pc + 4 ∧ t.core.xwait = .none
    (∃ t, exec (.opening v) s = .next t ∧ t.core = s.core ∧
      (m.state = .waitnext → seamNear m v.rank = true → t.dev.seam.state = .idle ∧ t.dev.seam.aid = v.next) ∧
      (m.state ≠ .waitnext → t = s)) ∧
    (∃ t, exec (.vote v) s = .next t ∧
      (v.aid ≠ m.aid ∨ v.rank ∉ seamKids m → t = s) ∧
      (seamRuns s.dev = true → v.aid = m.aid → v.rank ∈ seamKids m → m.sent = false →
        (∀ c, m.collect = some c → v.rank ∉ c.kids) → v.flags = 0 → (collectOf m).flags = 0 → (collectOf m).own = false →
        t.core = s.core ∧
        ∃ c, t.dev.seam.collect = some c ∧ c.count = (collectOf m).count + v.count ∧ v.rank ∈ c.kids)) ∧
    (∃ t, exec (.decision v) s = .next t ∧
      (seamRuns s.dev = true → v.aid = m.aid → seamNear m v.rank = true →
        t.dev.seam.state = .idle ∧ t.dev.seam.lAid = m.aid ∧ t.dev.seam.lOut = BitVec.ofNat 2 v.outcome ∧
        t.dev.seam.lFlags = v.flags ∧ t.dev.seam.aid = v.next ∧ t.dev.seam.flags = 0 ∧ resumes t ∧
        t.dev.hbm = s.dev.hbm ∧ (∀ k, (pleatAt t.dev k).blocks = (pleatAt s.dev k).blocks) ∧
        (∀ k, outcomeOf (pleatAt t.dev k) (m.aid + 1) = .aborted) ∧
        ((v.next - m.aid).toNat % 4096 ≠ 0 → (v.next - m.aid).toNat % 4096 ≠ 4095 →
          (∀ k, outcomeOf (pleatAt t.dev k) m.aid = if v.outcome = 1 then .committed else .aborted) ∧
          ∀ pa sel, blockMeta s.dev pa = (sel, m.aid) →
            let p := pleatAt s.dev (stackOf pa)
            let slot (b : Bool) : Byte := hbmByte s.dev (slotPa p b pa)
            pleatByte s.dev [m.aid] pa = slot (!sel) ∧ (outcomeOf p m.aid ≠ .committed → pleatByte s.dev [] pa = slot sel) ∧
              pleatByte t.dev [] pa = slot (if v.outcome = 1 then !sel else sel))) ∧
      (v.aid ≠ m.aid → t = s)) ∧
    (∃ t, exec (.query v) s = .next t ∧ t.core = s.core ∧ t.dev.seam = m) ∧
    (∀ c, m.collect = some c → m.sent = false → seamRuns s.dev = true → ∃ t, exec .seamVoteTimer s = .next t ∧
      (t.dev.seam.sent = true ∧ t.core = s.core ∨ t.dev.seam.lAid = m.aid ∧ resumes t)) ∧
    (m.state = .voted → m.sent = true →
      (m.queries < 4 → ∃ t, exec .decisionTimeout s = .next t ∧ t.dev.seam = { m with queries := m.queries + 1 }) ∧
      (4 ≤ m.queries →
        let s1 := s.onDev (putSeam · { m with state := .indoubt })
        exec .decisionTimeout s = .next (raiseTwaits s1) ∧
        ((∀ c ∈ allCores s, ∀ r, c.xwait ≠ .twait r m.aid) → raiseTwaits s1 = s1) ∧
        (∀ r, s.others = [] → s.core.xwait = .twait r m.aid → s.core.saving = none →
          raiseTwaits s1 = trapX s1 { cause := .voteTimeout, info := m.aid.setWidth 64 }))) ∧
    (∀ r a, s.core.xwait = .twait r a → s.core.twaitLate = true → s.core.saving = none →
      exec .twaitDeadline s = .next (trapX s { cause := .voteTimeout, info := a.setWidth 64 })) ∧
    (s.core.xwait = .tbegin → s.core.saving = none → m.state = .idle → scrubHold s.dev = true →
      exec .windowWrapTimer s = .next (trapX s { cause := .windowWrap, info := m.aid.setWidth 64 })) ∧
    (∀ w tr, ∃ t, exec (.seamcfgWrite w tr) s = .next t ∧ t.core = s.core ∧
      (barred s.dev tr = false → fld w.toNat 0 12 ≤ fld w.toNat 28 12 → w.getLsbD 63 = true → seamEn s.dev = false →
        fld w.toNat 0 12 = 0 → t.dev.seam.state = .idle ∧ t.dev.seam.aid = m.lAid + 2)) ∧
    (s.dev.pleats.toList.any (·.passDue) = true → ∃ t, exec .localAbortPassEnd s = .next t ∧
      t.dev.seam.state = .disabled ∧ t.dev.pleats.toList.any (·.passDue) = false) ∧
    (∀ w tr, ∃ t, exec (.seamres w tr) s = .next t ∧
      (barred s.dev tr = false → m.state = .indoubt → seamEn s.dev = true → ∀ out, (out = 1 ∨ out = 2) →
        w = BitVec.ofNat 64 (2 ^ 63 + out * 2 ^ 61 + m.aid.toNat) →
        t.dev.seam.state = .idle ∧ t.dev.seam.lAid = m.aid ∧ t.dev.seam.lOut = BitVec.ofNat 2 out ∧ resumes t) ∧
      (barred s.dev tr = true ∨ m.state ≠ .indoubt → t.core = s.core ∧ t.dev.seam = m)) ∧
    (∀ k w tr, ∃ t, exec (.pleatcfgWrite k w tr) s = .next t ∧ t.core = s.core ∧
      (k < 16 → barred s.dev tr = false → (pleatAt s.dev k).en = false → w.getLsbD 63 = true → 0 < fld w.toNat 24 24 →
        fld w.toNat 0 24 + 2 * fld w.toNat 24 24 ≤ 2 ^ 24 →
        (pleatAt t.dev k).en = true ∧ (pleatAt t.dev k).busy = true ∧ (pleatAt t.dev k).nframes = fld w.toNat 24 24)) ∧
    (∀ k, k < 16 → (pleatAt s.dev k).busy = true → ∃ t, exec (.pleatInitDone k) s = .next t ∧
      (pleatAt t.dev k).busy = false ∧ (pleatAt t.dev k).blocks = [] ∧ (pleatAt t.dev k).badMeta = []) ∧
    (∀ k, k < 16 → (pleatAt s.dev k).en = true → (pleatAt s.dev k).busy = false →
      ∃ t, exec (.pleatScrubPass k) s = .next t ∧ (pleatAt t.dev k).began = m.aid ∧ t.core = s.core ∧ t.dev.hbm = s.dev.hbm ∧
        (let p := pleatAt s.dev k
        let live (y : BitVec 16) : Prop := attemptLive s.dev = true ∧ (y = m.aid ∨ y = m.aid + 1)
        Safety.rising p.blocks → p.badMeta = [] → outcomeOf p (m.lAid + 1) ≠ .committed → ∀ pa, isPrimary s.dev pa = true →
          (stackOf pa = k → let b := blockMeta s.dev pa
            (live b.2 → blockMeta t.dev pa = b) ∧ (¬ live b.2 → blockMeta t.dev pa = (committedSlot p b, m.lAid + 1))) ∧
          ∀ mset, m.lAid + 1 ∉ mset → (∀ y ∈ mset, live y) → pleatByte t.dev mset pa = pleatByte s.dev mset pa))

/-- An access of a peer is performed under the local ASID that accepts its sender's and answered: a read with the bytes, a write, an
atomic and a near-memory operation at its place, a signal at the core; after a partner's write the page moves, or is pinned where
four installs lie within the last 1 ms. An access of an ASID that none accepts is refused with ACCESS.PERM; one whose translation
fails is refused with its cause; one to a page homed elsewhere goes there, and one to a page that moves waits for the move. A page that its partner
sends is installed whole in the frame, whose device is its home from now on and says so to the partner, with the install times in the
descriptor; the end of a pin clears PINEND. A flit in sequence
is counted and, with keys, delivered; any other is answered by a negative acknowledgement; replay sends again from the
number named; retraining restores a port or takes it down; a port of more than four retired lanes is down; a link that
trains carries traffic; keys advance after 2^32 flits of a direction. X waiting for a silent peer, in a fence or for an access of its
own, and a sequencer whose word waits for one stop with LINK.PEER_TIMEOUT, which names rank and element, and a move of a page to that
peer is undone; a lost rank is recorded, what waits for it stops with LINK.PEER_LOST, and nothing is awaited from it. That X waits for an access of its own and stops so is
the model's choice (log 51), and so is what a link that trains again keeps (log 69) and that a message is one flit (log
93) (spec/17_faults_and_traps.md, Links; spec/15_isolation.md, Pages shared with
one peer; spec/15_isolation.md, Tenants and address spaces). -/
def Obligations.LinkEvents : Prop :=
  ∀ (s : State) (k : Nat) (p : Port),
    (∀ a, accessBusy s.dev a = false →
      exec (.pAccessReceive a) s = .next (receiveAccess s a) ∧
      (localAsid s.dev a = none →
        receiveAccess s a = s.onDev (·.send (match numberOf a with
          | some id => .answer (senderOf a).1 id (.refused (causeCode .perm 0) 0)
          | none => .reply (senderOf a).1 (some (causeCode .perm 0)) [0, 0]))) ∧
      ∀ l, localAsid s.dev a = some l →
        let acc := peerAcc s.dev l
        let at_ (va : Word) (kd : Kind) (moves : Bool) (f : Xlat → State → Res (State × List Byte)) : Prop :=
          (∀ c, translate s.dev acc kd va.toNat = .error c → receiveAccess s a = refuse s a c) ∧
          ∀ x, translate s.dev acc kd va.toNat = .ok x →
            (∀ r, x.remote = some r → receiveAccess s a = s.onDev (·.send (.access r a))) ∧
            (∀ d, x.remote = none → movingDesc s.dev l x = some d → receiveAccess s a = holdAccess s d a) ∧
            (x.remote = none → movingDesc s.dev l x = none →
              (∀ c, asDevice s (f x) = .error c → receiveAccess s a = refuse s a c) ∧
              ∀ s1 bs, asDevice s (f x) = .ok (s1, bs) → receiveAccess s a =
                if moves && bit x.leaf 59 then afterPartnerWrite (answer s1 a bs) (senderOf a).1 l (senderOf a).2 va x else answer s1 a bs)
        (∀ r b id va n, a = .read r b id va n → at_ va .read false fun _ v => vread v acc .l2 va.toNat n) ∧
        (∀ r b id va bs, a = .write r b id va bs →
          at_ va .write true fun _ v => (vwriteMasked v acc .x .l2 true va.toNat bs).map fun v => (v, [])) ∧
        (∀ r b id va n op, a = .atomic r b id va n op →
          at_ va .both true fun x v => (placeAtomic v acc x va.toNat n op).map fun q => (q.1, toBytesLE n q.2)) ∧
        (∀ r b id va op f32 v, a = .nop r b id va op f32 v → at_ va .write true fun x => peerNop va op f32 v acc x) ∧
        (∀ r b core sem inc c, a = .signal r b core sem inc → core < 288 → (coreAt s core).task.isSome = true →
          (coreAt s core).asid = l → semAdd (coreAt s core) 5 sem inc = .ok c →
          receiveAccess s a = (putCore s core c).onDev (·.send (.reply r none []))) ∧
        (∀ r b va x pa n, a = .pin r b va → translate s.dev acc .read va.toNat = .ok x → sharedDesc s.dev l x = some (pa, n) →
          receiveAccess s a = pinPage s pa n)) ∧
    (∀ a r id bs, numberOf a = some id → (senderOf a).1 = r → r ≠ ownRank s.dev → answer s a bs = s.onDev (·.send (.answer r id (.data bs)))) ∧
    (∀ r l b va x pa n, sharedDesc s.dev l x = some (pa, n) → partnerOf n = r → pinEndOf n = 0 → moveOf s.dev pa = none →
      afterPartnerWrite s r l b va x =
        if recentInstalls s n < 4 then movePage s r l b va pa n else (pinPage s pa n).onDev (·.send (.pin r b (pageOf va)))) ∧
    (∀ asid va bytes ages x pa n, translate s.dev (accDev s.dev asid) .read va.toNat = .ok x →
      sharedDesc s.dev asid x = some (pa, n) → homeOf n ≠ ownRank s.dev → sharedFrame n < 2 ^ 40 → bytes.length = 4096 →
      (∀ w ∈ s.dev.rwins, ∀ q ∈ w.lines, q / 32 ≠ sharedFrame n / 4096) →
      ∃ t, exec (.peerPageInstall asid va bytes ages) s = .next t ∧ t.core = s.core ∧ t.others = s.others ∧
        (∃ d : Dev, t.dev = d.send (.installed (homeOf n) asid (pageOf va))) ∧
        (Safety.rising s.dev.l2 → isPrimary s.dev pa = false → pa + 64 ≤ sharedFrame n ∨ sharedFrame n + 4096 ≤ pa →
          (∀ i b, bytes[i]? = some b → l2Byte t.dev (sharedFrame n + i) = b) ∧
          let n' := ofBytesLE ((List.range 64).map fun i => l2Byte t.dev (pa + i))
          homeOf n' = ownRank s.dev ∧ partnerOf n' = homeOf n ∧ sharedFrame n' = sharedFrame n ∧
            installs n' = ((s.timeNs :: ages.map (s.timeNs - ·)).take 4).filter (· ≠ 0))) ∧
    (∀ asid va x pa n, translate s.dev (accDev s.dev asid) .read va.toNat = .ok x →
      sharedDesc s.dev asid x = some (pa, n) → pinEndOf n ≠ 0 → pinEndOf n ≤ s.timeNs →
      exec (.pinEnd asid va) s = .next (s.onDev (sysWrite · (pa + 16) (toBytesLE 8 0)))) ∧
    (portAt s.dev k = some p →
      (p.up = true → ∀ n m, (∀ a, m = .access a → accessBusy s.dev a = false) →
        (n ≠ p.expect → exec (.flitReceive k n true m) s = .next (s.onDev (·.send (.nack k p.expect)))) ∧
        (exec (.flitReceive k n false m) s = .next (s.onDev (·.send (.nack k p.expect)))) ∧
        (n = p.expect →
          let s1 := s.onDev (setPort · k { p with expect := p.expect + 1, rxFlits := p.rxFlits + 1 })
          exec (.flitReceive k n true m) s = .next (if p.keyed then deliverMsg s1 (Fin.ofNat 24 k) m else s1) ∧
          (∀ a, m = .access a → deliverMsg s1 (Fin.ofNat 24 k) m = receiveAccess s1 a))) ∧
      (p.up = true → p.replays < 8 → ∀ n j, p.unacked.findIdx? (fun f => f.1 == n) = some j →
        exec (.flitReplay k n) s = .next (s.onDev fun d =>
          { setPort d k { p with unacked := p.unacked.drop j, replays := if j = 0 then p.replays + 1 else 1 } with
            outbox := d.outbox ++ (p.unacked.drop j).map (·.2) })) ∧
      (p.up = true → 8 ≤ p.replays →
        (exec (.portRetrain k true) s = .next (s.onDev (setPort · k { p with replays := 0 }))) ∧
        ∃ t, exec (.portRetrain k false) s = .next t ∧ t.core = s.core ∧
          portAt t.dev k = some { p with replays := 0, up := false }) ∧
      (∀ lane, lane < 8 → lane ∉ p.lanes → ∃ t q, exec (.laneRetired k lane) s = .next t ∧ t.core = s.core ∧
        portAt t.dev k = some q ∧ q.lanes = p.lanes ++ [lane] ∧ q.up = (p.up && decide (p.lanes.length < 4))) ∧
      (p.lanes.length ≤ 4 → ¬ (p.up = true ∧ p.keyed = true) → ∃ t q, exec (.portLinkUp k) s = .next t ∧ t.core = s.core ∧
        portAt t.dev k = some q ∧ q.up = true ∧ q.keyed = true ∧ q.lanes = p.lanes ∧
        ∀ r, r ∈ t.dev.lostRanks ↔ r ∈ s.dev.lostRanks ∧ (s.dev.routeOf r).val ≠ k) ∧
      (p.keyed = true →
        (2 ^ 32 ≤ p.txFlits → exec (.keyUpdate k true) s = .next (s.onDev fun d =>
          (setPort d k { p with txFlits := p.txFlits - 2 ^ 32, txKeys := p.txKeys + 1 }).send (.keyUpdate k))) ∧
        (2 ^ 32 ≤ p.rxFlits → exec (.keyUpdate k false) s =
          .next (s.onDev (setPort · k { p with rxFlits := p.rxFlits - 2 ^ 32, rxKeys := p.rxKeys + 1 }))))) ∧
    (∀ r, xPeer s = some r →
      exec (.peerTimeout .x) s = .next (cancelMoves (trapX s { cause := .peerTimeout, info := linkInfo r 0 }) r)) ∧
    (∀ u r, noUnit u = false → ownSeq s u = true → (seqOf s u).cause = none → seqPeer s u = some r →
      let v := linkStop s u .peerTimeout r
      exec (.peerTimeout (.seq u)) s = .next (cancelMoves v r.1) ∧
      (∀ f, (seqOf s u).flight = some f → (seqOf s u).flushed = false → f.kind = .peer →
        r = (f.rank, f.e) ∧ ∃ c, (seqOf v u).cause = some c ∧ c.cause = .peerTimeout ∧ c.info = linkInfo f.rank f.e ∧
          (seqOf v u).flight = none ∧ (seqOf v u).pc = f.pc) ∧
      ((seqOf s u).flight = none → (seqOf s u).flushed = false →
        ∃ c, (seqOf v u).cause = some c ∧ c.cause = .peerTimeout ∧ c.info = linkInfo r.1 r.2 ∧ (seqOf v u).resume = none)) ∧
    (∀ r, (∀ w ∈ s.dev.moves, w.rank ≠ r) → cancelMoves s r = s) ∧
    (∀ r, (∃ t, exec (.peerLost r) s = .next t ∧ r ∈ t.dev.lostRanks ∧ ∀ w ∈ t.dev.peerOut, w.rank ≠ r) ∧
      (xPeer s = some r →
        (∀ u ∈ [SeqId.l, .c, .s] ++ (enginesOf s.dev s.core.gcore).map SeqId.e, seqPeer s u = none) →
        lostCore r s s.core.gcore = trapX s { cause := .peerLost, info := linkInfo r 0 }))

/-- REFRESH and a clean scrub change nothing; a scrub corrects an error within one symbol, and demotes the row of that and of
an uncorrectable error, which stays recorded; neither changes a byte outside the event log. A self-test with
no lasting error takes no spare row; a spared row takes its corrected contents, and it and, between matrix words, a spared column take one
spare; a cuff unit, an L2 way or a queue without a spare is recorded as out, a lane without one retires, and a core retires with a lasting fault of
another array or unit, which raises and logs INTEGRITY.RESIDUE_PERSIST. Temperatures up to 105 °C change nothing, up to 115 °C the clock is throttled by a further step, and above
every launch is stopped too. Loss of power stops every launch and holds the compute dies in reset, and
a firmware fault stops every launch and clears FWSTAT. RESET brings every register of the core to its reset value, destroys
the keys and, where nothing is sealed, keeps DRAM, fuses and retired units. An eviction of an L1 line leaves each of its dirty bytes
at its home, but for a line of an open window (log 16), and every other byte as X sees it; an eviction of an L2 line changes no byte; the
far-tier port passes on its oldest write. What a reset keeps (log 58) and what a self-test's results mean (log 68) are the model's
choices (spec/17_faults_and_traps.md, Memory errors; spec/17_faults_and_traps.md,
Self-test; spec/17_faults_and_traps.md, Event log and machine events; spec/15_isolation.md, Firmware and attestation;
spec/09_ordering_model.md, Levels). -/
def Obligations.MachineEvents : Prop :=
  ∀ (s : State),
    (∀ stack bank row, stack < 16 → bank < 4096 → exec (.refresh stack bank row) s = .next s) ∧
    (∀ w e, w < 2 ^ 35 →
      let bad := e = .uncorrectable ∨ w ∈ s.dev.badWords
      let soft := e = .corrected ∨ w ∈ s.dev.softWords
      let demoted (t : State) : Prop := t.core = s.core ∧ t.others = s.others ∧ w ∉ t.dev.softWords ∧
        sget 0 t.dev.retention (rowKey w) = min 2 (sget 0 s.dev.retention (rowKey w) + 1) ∧
        (Safety.rising s.dev.l2 → ∀ pa, ¬ Safety.logged s.dev pa → l2Byte t.dev pa = l2Byte s.dev pa)
      (¬ bad → ¬ soft → exec (.patrolScrub w e) s = .next s) ∧
      (¬ bad → soft → s.dev.softWords.Nodup → ∃ t, exec (.patrolScrub w e) s = .next t ∧ demoted t ∧ w ∉ t.dev.badWords) ∧
      (bad → ∃ t, exec (.patrolScrub w e) s = .next t ∧ demoted t ∧
        (slook s.dev.l2 (32 * w) = none → ¬ Safety.logged s.dev (32 * w) → w ∈ t.dev.badWords))) ∧
    (∀ stack bank row, stack < 16 → bank < 4096 →
      let used := sget 0 s.dev.spareRows (4096 * stack + bank)
      (∃ t, exec (.selfTest (.dramRow stack bank row) .transient) s = .next t ∧ t.core = s.core ∧ t.dev.spareRows = s.dev.spareRows) ∧
      (used < 32 → ∃ t, exec (.selfTest (.dramRow stack bank row) .spared) s = .next t ∧ t.core = s.core ∧
        sget 0 t.dev.spareRows (4096 * stack + bank) = used + 1 ∧
        ∀ w ∈ t.dev.softWords, rowKey w ≠ stack + 2 ^ 4 * bank + 2 ^ 16 * row) ∧
      (32 ≤ used → ∃ t, exec (.selfTest (.dramRow stack bank row) .noSpare) s = .next t ∧ t.core = s.core ∧
        t.dev.spareRows = s.dev.spareRows) ∧
      (∃ t, exec (.selfTest (.cuffUnit stack bank) .transient) s = .next t ∧ t.core = s.core ∧ t.dev.cuffOut = s.dev.cuffOut) ∧
      ∃ t, exec (.selfTest (.cuffUnit stack bank) .noSpare) s = .next t ∧ t.core = s.core ∧ 4096 * stack + bank ∈ t.dev.cuffOut) ∧
    (∀ core col, core < 288 →
      (2 ≤ sget 0 s.dev.columns core → retiresFirst s core (.seq .c) = false →
        exec (.selfTest (.matrixColumn core col) .noSpare) s = .next (persist s core (.seq .c))) ∧
      (sget 0 s.dev.columns core < 2 → inMatrixWord (coreAt s core) = false →
        ∃ t, exec (.selfTest (.matrixColumn core col) .spared) s = .next t ∧ t.core = s.core ∧
          sget 0 t.dev.columns core = sget 0 s.dev.columns core + 1)) ∧
    (∀ core u, core < 288 →
      (∃ t, exec (.selfTest (.residue core u) .transient) s = .next t ∧ t.core = s.core ∧ t.others = s.others) ∧
      (retiresFirst s core u = false → exec (.selfTest (.residue core u) .noSpare) s = .next (persist s core u))) ∧
    (∀ g u, Safety.rising s.others → (coreAt (retireCore s g) g).retired = true ∧
      persist s g u = retireCore (elog (onCoreNo s g (raisePersist u)) (causeCode .residuePersist (unitCode u)) 3 (corePlace g) 0) g) ∧
    (s.core.task.isSome = true → s.core.saving = none → raisePersist .x s = trapX s { cause := .residuePersist }) ∧
    (∀ die kind core, die < 4 → core < 288 →
      (∃ t, exec (.selfTest (.sram die kind core) .spared) s = .next t ∧ t.core = s.core) ∧
      (kind < 9 → ∃ t, exec (.selfTest (.sram die kind core) .noSpare) s = .next t ∧ t.core = s.core ∧ (kind, die, core) ∈ t.dev.sramOut) ∧
      (9 ≤ kind → Safety.rising s.others →
        ∃ t, exec (.selfTest (.sram die kind core) .noSpare) s = .next t ∧ (coreAt t core).retired = true)) ∧
    (∀ port lane p, portAt s.dev port = some p → lane < 8 →
      (∃ t, exec (.selfTest (.lane port lane) .transient) s = .next t ∧ t.core = s.core ∧ portAt t.dev port = some p) ∧
      (lane ∉ p.lanes → ∃ t q, exec (.selfTest (.lane port lane) .noSpare) s = .next t ∧ t.core = s.core ∧
        portAt t.dev port = some q ∧ q.lanes = p.lanes ++ [lane])) ∧
    (∀ c, (c ≤ 105 → exec (.thermal c) s = .next s) ∧
      (105 < c → c ≤ 115 → ∃ t, exec (.thermal c) s = .next t ∧ t.core = s.core ∧ t.others = s.others ∧
        t.dev.throttle = min 7 (s.dev.throttle + 1)) ∧
      (115 < c → ∃ t, exec (.thermal c) s = .next t ∧ t.dev.launches = [] ∧ t.dev.throttle = min 7 (s.dev.throttle + 1))) ∧
    (∃ t, exec .power s = .next t ∧ released t.dev = false ∧ t.dev.powerLost = true ∧ t.dev.launches = [] ∧ t.dev.l2 = [] ∧
      t.dev.tlb = [] ∧ t.core = { Machine.Core.init t.core.gcore with retired := t.core.retired }) ∧
    (∃ t, exec .firmware s = .next t ∧ released t.dev = false ∧ t.dev.fwstat = 0 ∧ t.dev.launches = []) ∧
    (∃ t, exec .reset s = .next t ∧ t.dev.l2 = [] ∧ t.dev.fwstat = 0 ∧ t.dev.xts = [] ∧
      t.core = { Machine.Core.init t.core.gcore with retired := t.core.retired } ∧
      (sealsHeld s.dev = false → t.dev.hbm = s.dev.hbm ∧ t.dev.badWords = s.dev.badWords ∧ t.dev.rollback = s.dev.rollback ∧
        t.dev.bootCount = s.dev.bootCount + 1 ∧ t.core.gcore = s.core.gcore ∧ t.core.retired = s.core.retired)) ∧
    (∀ k l, slook s.core.l1 k = some l → ∃ t, exec (.eviction true k) s = .next t ∧ slook t.core.l1 k = none ∧
      t.core = { s.core with l1 := t.core.l1 } ∧ t.others = s.others ∧
      (Safety.rising s.dev.l2 → Safety.rising s.core.l1 →
        (∀ pa, pa / 64 = k → Safety.gaveUp s t l pa) ∧ ∀ pa, pa / 64 ≠ k → Safety.seen t pa = Safety.seen s pa)) ∧
    (∀ k, windowOf s.dev (128 * k) = none → (∃ e ∈ s.dev.l2, e.1 / 128 = k) → ∃ t, exec (.eviction false k) s = .next t ∧
      t.core = s.core ∧ (Safety.rising s.dev.l2 → ∀ pa, l2Byte t.dev pa = l2Byte s.dev pa) ∧ ∀ e ∈ t.dev.l2, e.1 / 128 ≠ k) ∧
    (∀ w rest, s.dev.farPort = w :: rest → ∃ t, exec .farTierWriteForward s = .next t ∧ t.dev.farPort = rest ∧ t.core = s.core ∧
      ∀ pa, farByte t.dev pa = farByte s.dev pa) ∧
    (∀ stack (h : stack < 16) on, exec (.stackTemperatureChange stack on) s =
      .next (s.onDev fun d => { d with hot := d.hot.set stack on h }))

/-- After reset every register of the BAR0 table is 0 except SEAMTO, which is 0x07D0_01F4; the attempt state is
DISABLED and every outcome of every pleat controller reads aborted. On the running core the stream registers, the
swizzle tags, TASK_FRAME, TRAP_CAUSE, TRAP_PC, TRAP_ADDR, TRAP_INFO and CYCLE are 0, WDOG_LIMIT is 0x0100_0000, every
semaphore mask is 0x7F, the panel is empty and every tile is an ACC48 tile of +0. No task is resident. The invariants
of the model hold: x0 is 0 on every core, and the memories and caches are in canonical form (spec/15_isolation.md,
Host-visible registers; spec/16_step_transactions.md, Registers; spec/13_execution_scheduling.md, Semaphores and
waits; spec/04_operand_streams.md, Stream registers; spec/04_operand_streams.md, Swizzle modes and tags;
spec/17_faults_and_traps.md, Trap registers and handler mode; spec/17_faults_and_traps.md, Event log and machine
events; spec/00_scope.md, Numbers, bits and units). -/
def Obligations.ResetState : Prop :=
  let s := State.reset
  s.dev.rtbase = 0 ∧ s.dev.asidbase = 0 ∧ s.dev.sealbase = 0 ∧ s.dev.sealcmd = 0 ∧ s.dev.tlbinva = 0 ∧ s.dev.tlbinvc = 0 ∧
  s.dev.miga = 0 ∧ s.dev.migb = 0 ∧ s.dev.migc = 0 ∧ s.dev.herrlog = 0 ∧ s.dev.fwaddr = 0 ∧ s.dev.fwlen = 0 ∧ s.dev.fwstat = 0 ∧
  s.dev.seam.cfg = 0 ∧ s.dev.seam.tmo = 0x07D001F4 ∧ seamst s.dev.seam = 0 ∧ s.dev.seam.state = .disabled ∧
  s.dev.elogbase = 0 ∧ s.dev.eloghead = 0 ∧ s.dev.elogtail = 0 ∧ (∀ q, q < 1024 → queueAt s.dev q = ⟨0, 0, 0, 0⟩) ∧
  (∀ p ∈ s.dev.pleats.toList, p.en = false ∧ p.busy = false ∧ p.nframes = 0 ∧ p.first = 0 ∧ ∀ y, outcomeOf p y = .aborted) ∧
  (∀ k, sget 0 s.dev.tags k = 0) ∧ s.cycle = 0 ∧ s.core.task = none ∧ s.others = [] ∧
  (∀ g ∈ s.core.g.toList, g.desc = 0 ∧ g.pos = 0) ∧ s.core.taskFrame = 0 ∧ s.core.trapCause = 0 ∧ s.core.trapPc = 0 ∧
  s.core.trapAddr = 0 ∧ s.core.trapInfo = 0 ∧ s.core.wdogLimit = 0x01000000 ∧ (∀ m ∈ s.core.semMask.toList, m = 0x7F) ∧
  s.core.wp = none ∧ (∀ t ∈ s.core.gp :: s.core.a.toList, t.f64 = false ∧ t.nv = false ∧ t.of = false ∧ ∀ k, sget 0 t.ent k = 0) ∧
  Safety.zeroRegs s = true ∧ Safety.memoryOk s = true ∧ Safety.cachesOk s

/-- When the schedule names X of the core in focus, its task runs, no cause of another unit waits to be delivered, and
the bytes at PC decode to an instruction, the step is the execution of that instruction on the state after the fetch,
under its residue checks; where no residue of the core fails, it is that execution. The same holds of L, C and S when
the sequencer runs a command, no word is in flight or has been passed, no cause or flush holds it, and, in C, the word begins no fused
group; a group that it begins runs as one. A named event is executed. An empty schedule gives the turn to the unit after the last one in the round, and at its
end to a step of the device that is ready. A step first lets time pass. That a schedule names the turns (log 21), the round of an empty
one (log 8), the time of a step (log 3), how the model keeps residues that do not match (log 81) and how a
program comes to run (log 20) are the model's choices (spec/02_instruction_words.md, Scalar words; spec/02_instruction_words.md, Engine words; spec/02_instruction_words.md,
Opcode maps; spec/03_number_formats.md, Residue checking; spec/09_ordering_model.md, Order inside one issuing unit). -/
def Obligations.StepRunsDecoded : Prop :=
  ∀ (s : State),
    let t (r : List Turn) (u : UnitId) : State := { tick s with sched := r, unit := u }
    let runs (i : Instr) (s1 : State) : Prop :=
      step s = runWord i s1 (exec i) ∧ (s1.core.residues = [] → step s = exec i s1)
    (∀ r k s1 bs i rest, s.sched = .unit s.core.gcore .x :: r → s.core.gcore < 288 → released s.dev = true →
      s.core.task = some k → k.hold = false → s.core.saving = none → pendingUnit (t r .x) = none →
      fetchX (t r .x) = .ok (s1, bs) → decodeScalarBytes bs = .ok (i, rest) → runs i s1) ∧
    (∀ r u s1 bs i rest, u ∈ [SeqId.l, .c, .s] → s.sched = .unit s.core.gcore (.seq u) :: r → s.core.gcore < 288 →
      released s.dev = true → s.core.saving = none → (seqOf s u).running = true → (seqOf s u).cause = none →
      (seqOf s u).flushed = false → (seqOf s u).flight = none → (seqOf s u).undo = none → holdOf (t r (.seq u)) u = .run →
      fetchSeq (t r (.seq u)) u = .ok (s1, bs) → decodeEngineBytes bs = .ok (i, rest) →
      (u ≠ .c ∨ fusedAt s1 i = .ok none → runs i s1) ∧
      ∀ o, u = .c → fusedAt s1 i = .ok (some o) → runs (.fusedSoftmaxGroup o) s1) ∧
    (∀ r i, s.sched = .event i :: r → isWord i = false → step s = exec i { tick s with sched := r }) ∧
    (s.sched = [] → nextUnit s.unit ≠ .seq (.e 48) →
      let u := nextUnit s.unit
      step s = step { s with unit := u, sched := [.unit (if u = .x then nextCore s else s.core.gcore) u] }) ∧
    (s.sched = [] → nextUnit s.unit = .seq (.e 48) →
      let t : State := { tick s with unit := .seq (.e 48) }
      (readyEvent t = none → step s = .next t) ∧
      ∀ r, readyEvent t = some r → (∀ v, runReady t r = .next v → step s = .next v) ∧
        ∀ e, runReady t r = .refused e → step s = .next t)

/-- A branch, an immediate load, a fused multiply-add, a scalar load, an atomic, a CSR write and TRET among the scalar
words, and a lane addition, a conversion, a conversion of 64-bit lanes, a matrix word, a transfer, a store with a wait and a signal, and a jump
among the engine words, decode as their encodings say; a reserved bit, an unassigned opcode and an unlisted fn value
are refused by name (spec/02_instruction_words.md, Scalar words; spec/02_instruction_words.md, Engine words;
spec/02_instruction_words.md, Opcode maps; spec/02_instruction_words.md, Type codes). -/
def Obligations.DecodeWords : Prop :=
  decodeScalar 0x44A0FFFD = .ok (.bne 5 0 (-3)) ∧
  decodeScalar 0x60A66802 = .ok (.ld 5 6 .b64 .b 2) ∧
  decodeScalar 0x292FFFFF = .ok (.lih 9 0xFFFFF) ∧
  decodeScalar 0x24A63A0E = .ok (.fma 5 6 7 8 .f32 .dyn) ∧
  decodeScalar 0x80A730C0 = .ok (.amo .add 5 7 6 true) ∧
  decodeScalar 0xF4050801 = .ok (.csrw 0x801 5) ∧
  decodeScalar 0xF8000100 = .ok .tret ∧
  (let quiet : Sync := { wthr := 0, wsem := 0, sinc := 0, ssem := 0, tki := 0, tko := 0 }
   decodeEngine 0x800000000C040820 = .ok (.vadd quiet { ty := .i32, vd := 1, va := 1, vb := 2, pg := 0 }) ∧
   decodeEngine 0xA400000010104753 =
     .ok (.vcvt quiet { d := .e2m1, vd := 4, va := 8, s := .bf16, rm := (.stat .srd), pg := 3 }) ∧
   decodeEngine 0xDD000000020C2036 = .ok (.vcvtF64 quiet .f32f64 3 4 (.stat .rdn) 6) ∧
   decodeEngine 0x610000000456789A =
     .ok (.mmaF quiet { ad := 2, ch := false, sa := 5, sb := 6, im := 7, pr := 8, pd := 9, pc := 10 }) ∧
   decodeEngine 0xE200000011112000 = .ok (.xfer quiet { f := true, ac := 1, d := 1, src := 2 } 4) ∧
   decodeEngine 0x23100A0410208000 = .ok (.sts { quiet with wthr := 2, wsem := 1, sinc := 1, ssem := 2 } { f := true, ac := 0, d := 2, src := 1 }) ∧
   decodeEngine 0x0400000007FFFFFD = .ok (.eloop quiet 3 (-3)) ∧
   decodeEngine 0x5C00000000000000 = .error .opcode ∧ decodeEngine 0xDD0000001E0C2036 = .error .code) ∧
  decodeScalar 0x00221815 = .error .code ∧ decodeScalar 0x00221800 = .ok (.add 1 2 3) ∧
  decodeScalar 0xF8000101 = .error .reserved ∧ decodeScalar 0x2C000000 = .error .opcode

/-- For every well-formed instruction of the scalar map, at every value of its operands, the word that encodes it is
32 bits and decodes to that instruction; for every well-formed engine instruction, at every value of its operands and
synchronisation fields, the word is 64 bits and decodes to that instruction (spec/02_instruction_words.md, Scalar
words; spec/02_instruction_words.md, Engine words; spec/02_instruction_words.md, Synchronisation fields;
spec/02_instruction_words.md, Operand codes; spec/02_instruction_words.md, Type codes; spec/02_instruction_words.md,
Opcode maps). -/
def Obligations.RoundTrip : Prop :=
  ∀ i : Instr, i.wellFormed = true →
    (i.isScalar = true → encode i < 2 ^ 32 ∧ decodeScalar (encode i) = .ok i) ∧
    (i.sync?.isSome = true → encode i < 2 ^ 64 ∧ decodeEngine (encode i) = .ok i)

/-- A 32-bit word that decodes as a scalar word gives a well-formed scalar instruction whose encoding is that word,
and a 64-bit word that decodes as an engine word gives a well-formed engine instruction whose encoding is that word:
the decoder ignores no bit (spec/02_instruction_words.md, Scalar words; spec/02_instruction_words.md, Engine words;
spec/02_instruction_words.md, Opcode maps). -/
def Obligations.DecodedWordsAreEncoded : Prop :=
  (∀ (w : Nat) (i : Instr), w < 2 ^ 32 → decodeScalar w = .ok i → i.wellFormed = true ∧ i.isScalar = true ∧ encode i = w) ∧
  (∀ (w : Nat) (i : Instr), w < 2 ^ 64 → decodeEngine w = .ok i → i.wellFormed = true ∧ i.sync?.isSome = true ∧ encode i = w)

/-- From every state in which x0 holds 0 on every core, whatever unit or event the step runs, x0 holds 0 on every core
in the next state (spec/01_machine.md, Inside a core; spec/02_instruction_words.md, Scalar words). -/
def Obligations.StepKeepsZeroRegister : Prop :=
  ∀ s t : State, Safety.zeroRegs s = true → step s = .next t → Safety.zeroRegs t = true

/-- From every state in which home and far memory list strictly rising addresses and no entry that an unlisted address
reads as, and the dirty bytes of L2, the lines of every L1 and the cores out of focus are listed in rising order,
whatever unit or event the step runs, the same holds of the next state. The canonical form is the model's own (log
entry 1) (spec/09_ordering_model.md, Levels; spec/15_isolation.md, Physical addresses and page tables;
spec/16_step_transactions.md, Pleat blocks). -/
def Obligations.StepKeepsMemory : Prop :=
  ∀ s t : State, Safety.memoryOk s = true → Safety.cachesOk s → step s = .next t →
    Safety.memoryOk t = true ∧ Safety.cachesOk t
end

