-- ==== Sys2Proof/Laws/Maps.lean ====
section
/-! SUPPORT. Sparse maps: what a read gives after a write or a removal, and the canonical form that every operation keeps. -/

namespace Sys2Proof.Machine

variable {α : Type}

/-! ### A read after a change -/

@[simp] theorem sget_sput_same (d v : α) (m : SMap α) (i : Nat) : sget d (sput v m i) i = v := by
  induction m with
  | nil => simp [sput, sget]
  | cons e m ih =>
    obtain ⟨k, w⟩ := e
    simp only [sput]
    split
    · simp [sget]
    · split
      · simp [sget]
      · rename_i h; simp [sget, Ne.symm h, ih]

theorem sget_sput_ne (d v : α) (m : SMap α) {i j : Nat} (h : j ≠ i) : sget d (sput v m i) j = sget d m j := by
  induction m with
  | nil => simp [sput, sget, Ne.symm h]
  | cons e m ih =>
    obtain ⟨k, w⟩ := e
    simp only [sput]
    split
    · simp [sget, Ne.symm h]
    · split
      · rename_i hk; subst hk; simp [sget, Ne.symm h]
      · simp only [sget, ih]

@[simp] theorem sget_sdel_same (d : α) (m : SMap α) (i : Nat) : sget d (sdel m i) i = d := by
  induction m with
  | nil => rfl
  | cons e m ih =>
    obtain ⟨k, w⟩ := e
    simp only [sdel]
    split
    · exact ih
    · rename_i h; simp [sget, h, ih]

theorem sget_sdel_ne (d : α) (m : SMap α) {i j : Nat} (h : j ≠ i) : sget d (sdel m i) j = sget d m j := by
  induction m with
  | nil => rfl
  | cons e m ih =>
    obtain ⟨k, w⟩ := e
    simp only [sdel]
    split
    · rename_i hk; subst hk; simp [sget, Ne.symm h, ih]
    · simp only [sget, ih]

@[simp] theorem sget_sset_same [DecidableEq α] (d v : α) (m : SMap α) (i : Nat) : sget d (sset d m i v) i = v := by
  unfold sset; split
  · rename_i h; simp [h]
  · simp

theorem sget_sset_ne [DecidableEq α] (d v : α) (m : SMap α) {i j : Nat} (h : j ≠ i) :
    sget d (sset d m i v) j = sget d m j := by
  unfold sset; split
  · exact sget_sdel_ne d m h
  · exact sget_sput_ne d v m h

@[simp] theorem slook_sput_same (v : α) (m : SMap α) (i : Nat) : slook (sput v m i) i = some v := by
  induction m with
  | nil => simp [sput, slook]
  | cons e m ih =>
    obtain ⟨k, w⟩ := e
    simp only [sput]
    split
    · simp [slook]
    · split
      · simp [slook]
      · rename_i h; simp [slook, Ne.symm h, ih]

theorem slook_sput_ne (v : α) (m : SMap α) {i j : Nat} (h : j ≠ i) : slook (sput v m i) j = slook m j := by
  induction m with
  | nil => simp [sput, slook, Ne.symm h]
  | cons e m ih =>
    obtain ⟨k, w⟩ := e
    simp only [sput]
    split
    · simp [slook, Ne.symm h]
    · split
      · rename_i hk; subst hk; simp [slook, Ne.symm h]
      · simp only [slook, ih]

@[simp] theorem slook_sdel_same (m : SMap α) (i : Nat) : slook (sdel m i) i = none := by
  induction m with
  | nil => rfl
  | cons e m ih =>
    obtain ⟨k, w⟩ := e
    simp only [sdel]
    split
    · exact ih
    · rename_i h; simp [slook, h, ih]

theorem slook_sdel_ne (m : SMap α) {i j : Nat} (h : j ≠ i) : slook (sdel m i) j = slook m j := by
  induction m with
  | nil => rfl
  | cons e m ih =>
    obtain ⟨k, w⟩ := e
    simp only [sdel]
    split
    · rename_i hk; subst hk; simp [slook, Ne.symm h, ih]
    · simp only [slook, ih]

theorem sget_eq_slook (d : α) (m : SMap α) (i : Nat) : sget d m i = (slook m i).getD d := by
  induction m with
  | nil => rfl
  | cons e m ih =>
    obtain ⟨k, w⟩ := e
    simp only [sget, slook]; split <;> simp [*]

theorem slook_filter (f : Nat → Bool) (m : SMap α) (i : Nat) :
    slook (m.filter fun e => f e.1) i = if f i then slook m i else none := by
  induction m with
  | nil => simp [slook]
  | cons e m ih =>
    obtain ⟨k, w⟩ := e
    by_cases hf : f k
    · simp only [List.filter_cons, hf, if_true, slook, ih]
      by_cases hk : k = i
      · subst hk; simp [hf]
      · simp [hk]
    · rw [List.filter_cons_of_neg (by simpa using hf), ih]
      by_cases hk : k = i
      · subst hk; simp [hf]
      · simp [slook, hk]

theorem slook_isSome (m : SMap α) (i : Nat) : (slook m i).isSome = true ↔ ∃ v, (i, v) ∈ m := by
  induction m with
  | nil => simp [slook]
  | cons e m ih =>
    obtain ⟨k, w⟩ := e
    by_cases hk : k = i
    · subst hk; simp [slook]
    · simp [slook, hk, ih, Ne.symm hk]

/-! ### Membership -/

theorem mem_sput {v : α} {m : SMap α} {i : Nat} {e : Nat × α} (h : e ∈ sput v m i) : e = (i, v) ∨ e ∈ m := by
  induction m with
  | nil => simpa [sput] using h
  | cons x m ih =>
    obtain ⟨k, w⟩ := x
    simp only [sput] at h
    split at h
    · simpa using h
    · split at h
      · simp only [List.mem_cons] at h; rcases h with h | h
        · exact .inl h
        · exact .inr (by simp [h])
      · simp only [List.mem_cons] at h; rcases h with h | h
        · exact .inr (by simp [h])
        · exact (ih h).imp id (by simp +contextual)

theorem mem_sdel {m : SMap α} {i : Nat} {e : Nat × α} (h : e ∈ sdel m i) : e ∈ m ∧ e.1 ≠ i := by
  induction m with
  | nil => simp [sdel] at h
  | cons x m ih =>
    obtain ⟨k, w⟩ := x
    simp only [sdel] at h
    split at h
    · exact ⟨by simp [(ih h).1], (ih h).2⟩
    · simp only [List.mem_cons] at h; rcases h with h | h
      · subst h; exact ⟨by simp, ‹_›⟩
      · exact ⟨by simp [(ih h).1], (ih h).2⟩

/-! ### Rising keys -/

theorem rising_sput {v : α} {m : SMap α} {i : Nat} (h : Safety.rising m) : Safety.rising (sput v m i) := by
  induction m with
  | nil => simp [Safety.rising, sput]
  | cons e m ih =>
    obtain ⟨k, w⟩ := e
    simp only [Safety.rising, List.pairwise_cons] at h
    simp only [Safety.rising, sput]
    split
    · rename_i hi
      refine List.pairwise_cons.2 ⟨?_, List.pairwise_cons.2 h⟩
      intro x hx
      rcases List.mem_cons.1 hx with hx | hx
      · subst hx; exact hi
      · exact Nat.lt_trans hi (h.1 x hx)
    · split
      · rename_i hk; subst hk; exact List.pairwise_cons.2 h
      · refine List.pairwise_cons.2 ⟨?_, ih h.2⟩
        intro x hx
        rcases mem_sput hx with hx | hx
        · subst hx; simp only; omega
        · exact h.1 x hx

theorem sdel_eq_filter (m : SMap α) (i : Nat) : sdel m i = m.filter fun e => decide (e.1 ≠ i) := by
  induction m with
  | nil => rfl
  | cons e m ih =>
    obtain ⟨k, w⟩ := e
    simp only [sdel, List.filter_cons]
    by_cases hk : k = i <;> simp [hk, ih]

theorem rising_filter {m : SMap α} (f : Nat × α → Bool) (h : Safety.rising m) : Safety.rising (m.filter f) :=
  List.Pairwise.filter f h

theorem rising_sdel {m : SMap α} {i : Nat} (h : Safety.rising m) : Safety.rising (sdel m i) := by
  rw [sdel_eq_filter]; exact rising_filter _ h

theorem rising_map {β : Type} {m : SMap α} (f : Nat × α → β) (h : Safety.rising m) :
    Safety.rising (m.map fun e => (e.1, f e)) := by
  simpa [Safety.rising, List.pairwise_map] using h

/-! ### The canonical form -/

section
variable [DecidableEq α]

/-- The canonical form is rising keys and no entry with the default value. -/
theorem swf_iff (d : α) (m : SMap α) : swf d m = true ↔ Safety.rising m ∧ ∀ e ∈ m, e.2 ≠ d := by
  have gen : ∀ (m : SMap α) (lo : Nat), swfFrom d lo m = true ↔
      (∀ e ∈ m, lo ≤ e.1) ∧ Safety.rising m ∧ ∀ e ∈ m, e.2 ≠ d := by
    intro m
    induction m with
    | nil => intro lo; simp [swfFrom, Safety.rising]
    | cons e m ih =>
      intro lo
      obtain ⟨k, v⟩ := e
      simp only [swfFrom, Bool.and_eq_true, decide_eq_true_eq, ih, Safety.rising, List.pairwise_cons, List.forall_mem_cons]
      constructor
      · rintro ⟨⟨h1, h2⟩, h3, h4, h5⟩
        exact ⟨⟨h1, fun e he => Nat.le_trans h1 (Nat.le_of_lt (h3 e he))⟩, ⟨fun e he => h3 e he, h4⟩, h2, h5⟩
      · rintro ⟨⟨h1, -⟩, ⟨h3, h4⟩, h2, h5⟩
        exact ⟨⟨h1, h2⟩, fun e he => h3 e he, h4, h5⟩
  simp [swf, gen]

theorem swf_sset {d v : α} {m : SMap α} {i : Nat} (h : swf d m = true) : swf d (sset d m i v) = true := by
  rw [swf_iff] at *
  unfold sset; split
  · exact ⟨rising_sdel h.1, fun e he => h.2 e (mem_sdel he).1⟩
  · refine ⟨rising_sput h.1, fun e he => ?_⟩
    rcases mem_sput he with he | he
    · subst he; assumption
    · exact h.2 e he

theorem swf_filter {d : α} {m : SMap α} (f : Nat × α → Bool) (h : swf d m = true) : swf d (m.filter f) = true := by
  rw [swf_iff] at *
  exact ⟨rising_filter f h.1, fun e he => h.2 e (List.mem_of_mem_filter he)⟩

theorem swf_ssetAll {d : α} (vs : List α) : ∀ {m : SMap α} {k : Nat}, swf d m = true → swf d (ssetAll d m k vs) = true := by
  induction vs with
  | nil => intro m k h; exact h
  | cons v vs ih => intro m k h; exact ih (swf_sset h)

theorem swf_foldl {d : α} (l : List (Nat × α)) : ∀ {m : SMap α}, swf d m = true →
    swf d (l.foldl (fun m c => sset d m c.1 c.2) m) = true := by
  induction l with
  | nil => intro m h; exact h
  | cons c l ih => intro m h; exact ih (swf_sset h)

/-- A canonical map is determined by what its keys read as. -/
theorem swf_ext {d : α} {m n : SMap α} (hm : swf d m = true) (hn : swf d n = true)
    (h : ∀ i, sget d m i = sget d n i) : m = n := by
  rw [swf_iff] at hm hn
  have mem : ∀ {m : SMap α}, Safety.rising m → (∀ e ∈ m, e.2 ≠ d) → ∀ i v, (i, v) ∈ m ↔ sget d m i = v ∧ v ≠ d := by
    intro m hm hd i v
    induction m with
    | nil => simpa [sget] using fun h1 : d = v => h1.symm
    | cons e m ih =>
      obtain ⟨k, w⟩ := e
      simp only [Safety.rising, List.pairwise_cons] at hm
      simp only [List.forall_mem_cons] at hd
      have ih' := ih hm.2 hd.2
      by_cases hk : k = i
      · subst hk
        simp only [sget, if_true, List.mem_cons, Prod.mk.injEq, true_and]
        constructor
        · rintro (h | h)
          · subst h; exact ⟨rfl, hd.1⟩
          · exact absurd (hm.1 _ h) (Nat.lt_irrefl _)
        · rintro ⟨h, -⟩; exact .inl h.symm
      · simp [sget, hk, Ne.symm hk, ih']
  apply List.Perm.eq_of_pairwise (le := fun a b : Nat × α => a.1 < b.1) ?_ hm.1 hn.1
  · rw [List.perm_ext_iff_of_nodup]
    · rintro ⟨i, v⟩; rw [mem hm.1 hm.2, mem hn.1 hn.2, h]
    · exact hm.1.imp fun h => by rintro rfl; exact Nat.lt_irrefl _ h
    · exact hn.1.imp fun h => by rintro rfl; exact Nat.lt_irrefl _ h
  · intro a b _ _ h1 h2; omega

end

end Sys2Proof.Machine
end

