-- ==== Sys2Proof/Laws/Memory.lean ====
section
/-! SUPPORT. Memory: a read after a write at home memory and at L2, and that every memory operation of the device keeps the
canonical form. -/

namespace Sys2Proof.Machine

/-! ### A read after a write -/

theorem homeWrite_frame (d : Dev) (pa : Nat) (bs : List Byte) :
    homeWrite d pa bs = { d with hbm := (homeWrite d pa bs).hbm, l2 := (homeWrite d pa bs).l2 } := by
  induction bs generalizing d pa with
  | nil => rfl
  | cons b bs ih => simp only [homeWrite]; rw [ih]

theorem l2Write_frame (d : Dev) (pa : Nat) (bs : List Byte) : l2Write d pa bs = { d with l2 := (l2Write d pa bs).l2 } := by
  induction bs generalizing d pa with
  | nil => rfl
  | cons b bs ih => simp only [l2Write]; rw [ih]

theorem farWrite_frame (d : Dev) (ph : Path) (pa : Nat) (bs : List Byte) :
    farWrite d ph pa bs = { d with farPort := (farWrite d ph pa bs).farPort } := by
  induction bs generalizing d pa with
  | nil => rfl
  | cons b bs ih => simp only [farWrite]; rw [ih]

/-- A byte of home memory after a write there: the byte written, or what it was. -/
theorem hbmByte_homeWrite (d : Dev) (pa : Nat) (bs : List Byte) (a : Nat) :
    hbmByte (homeWrite d pa bs) a = if pa ≤ a then bs.getD (a - pa) (hbmByte d a) else hbmByte d a := by
  induction bs generalizing d pa with
  | nil => simp [homeWrite]
  | cons b bs ih =>
    simp only [homeWrite, ih]
    by_cases h1 : pa + 1 ≤ a
    · have h2 : pa ≤ a := by omega
      have h3 : a - pa = (a - (pa + 1)) + 1 := by omega
      simp only [h1, h2, if_true, h3, List.getD_cons_succ, hbmByte]
      rw [sget_sset_ne _ _ _ (by omega)]
    · by_cases h2 : pa ≤ a
      · have : a = pa := by omega
        subst this; simp [hbmByte]
      · simp only [h1, h2, if_false, hbmByte]
        exact sget_sset_ne _ _ _ (by omega)

/-- A byte as L2 holds it after a write there. -/
theorem l2Byte_l2Write (d : Dev) (pa : Nat) (bs : List Byte) (a : Nat) :
    l2Byte (l2Write d pa bs) a = if pa ≤ a then bs.getD (a - pa) (l2Byte d a) else l2Byte d a := by
  induction bs generalizing d pa with
  | nil => simp [l2Write]
  | cons b bs ih =>
    simp only [l2Write, ih]
    by_cases h1 : pa + 1 ≤ a
    · have h2 : pa ≤ a := by omega
      have h3 : a - pa = (a - (pa + 1)) + 1 := by omega
      simp only [h1, h2, if_true, h3, List.getD_cons_succ, l2Byte]
      rw [slook_sput_ne _ _ (by omega)]; rfl
    · by_cases h2 : pa ≤ a
      · have : a = pa := by omega
        subst this; simp [l2Byte]
      · simp only [h1, h2, if_false, l2Byte]
        rw [slook_sput_ne _ _ (by omega)]; rfl

/-- A write of home memory drops the L2 copies, so that L2 answers what was written. -/
theorem l2Byte_homeWrite (d : Dev) (pa : Nat) (bs : List Byte) (a : Nat) :
    l2Byte (homeWrite d pa bs) a = if pa ≤ a then bs.getD (a - pa) (l2Byte d a) else l2Byte d a := by
  induction bs generalizing d pa with
  | nil => simp [homeWrite]
  | cons b bs ih =>
    simp only [homeWrite, ih]
    by_cases h1 : pa + 1 ≤ a
    · have h2 : pa ≤ a := by omega
      have h3 : a - pa = (a - (pa + 1)) + 1 := by omega
      simp only [h1, h2, if_true, h3, List.getD_cons_succ, l2Byte, hbmByte]
      rw [slook_sdel_ne _ (by omega), sget_sset_ne _ _ _ (by omega)]
    · by_cases h2 : pa ≤ a
      · have : a = pa := by omega
        subst this; simp [l2Byte, hbmByte]
      · simp only [h1, h2, if_false, l2Byte, hbmByte]
        rw [slook_sdel_ne _ (by omega), sget_sset_ne _ _ _ (by omega)]

/-! ### The canonical form -/

/-- The memories and the L2 of a device are in canonical form. -/
def Dev.memOk (d : Dev) : Prop := Memory.wf d.hbm = true ∧ Memory.wf d.far = true ∧ Safety.rising d.l2

theorem memOk_congr {d e : Dev} (h : d.memOk) (h1 : e.hbm = d.hbm) (h2 : e.far = d.far) (h3 : e.l2 = d.l2) : e.memOk := by
  obtain ⟨a, b, c⟩ := h
  exact ⟨h1 ▸ a, h2 ▸ b, h3 ▸ c⟩

theorem memOk_homeWrite {d : Dev} (bs : List Byte) {pa : Nat} (h : d.memOk) : (homeWrite d pa bs).memOk := by
  induction bs generalizing d pa with
  | nil => exact h
  | cons b bs ih => exact ih ⟨swf_sset h.1, h.2.1, rising_sdel h.2.2⟩

theorem memOk_l2Write {d : Dev} (bs : List Byte) {pa : Nat} (h : d.memOk) : (l2Write d pa bs).memOk := by
  induction bs generalizing d pa with
  | nil => exact h
  | cons b bs ih => exact ih ⟨h.1, h.2.1, rising_sput h.2.2⟩

theorem memOk_wbWhere {d : Dev} (f : Nat → Bool) (h : d.memOk) : (wbWhere d f).memOk :=
  ⟨swf_foldl _ h.1, h.2.1, rising_filter _ h.2.2⟩

theorem memOk_farForward {d : Dev} (h : d.memOk) : (farForward d).memOk := by
  refine ⟨h.1, ?_, h.2.2⟩
  have go : ∀ (l : List FarW) {m : List Host.Cell}, Memory.wf m = true →
      Memory.wf (l.foldl (fun m c => sset Config.powerOnByte m c.pa c.b) m) = true := by
    intro l
    induction l with
    | nil => intro m h; exact h
    | cons c l ih => intro m h; exact ih (swf_sset h)
  exact go _ h.2.1

theorem memOk_farWrite {d : Dev} (ph : Path) (bs : List Byte) {pa : Nat} (h : d.memOk) : (farWrite d ph pa bs).memOk := by
  rw [farWrite_frame]; exact h

theorem memOk_far {d : Dev} (bs : List Byte) {pa : Nat} (h : d.memOk) :
    ({ d with far := ssetAll Config.powerOnByte d.far pa bs } : Dev).memOk := ⟨h.1, swf_ssetAll _ h.2.1, h.2.2⟩

theorem memOk_send {d : Dev} (m : OutMsg) (h : d.memOk) : (d.send m).memOk := by
  unfold Dev.send; split
  · exact h
  · simp only; split <;> exact h

theorem memOk_foldl {α : Type} (f : Dev → α → Dev) (hf : ∀ d a, d.memOk → (f d a).memOk) (l : List α) {d : Dev}
    (h : d.memOk) : (l.foldl f d).memOk := by
  induction l generalizing d with
  | nil => exact h
  | cons a l ih => exact ih (hf d a h)

theorem memOk_lineRoom {d : Dev} (line : Nat) (h : d.memOk) : (lineRoom d line).memOk := by
  unfold lineRoom; simp only; split
  · exact h
  · split
    · exact memOk_wbWhere _ h
    · exact h

theorem memOk_l2Room {d : Dev} (pa n : Nat) (h : d.memOk) : (l2Room d pa n).memOk := by
  unfold l2Room; split
  · exact h
  · refine memOk_foldl _ ?_ _ h
    intro d l h; split
    · exact memOk_lineRoom _ h
    · exact h

theorem memOk_clearCounts {d : Dev} (pa n : Nat) (h : d.memOk) : (clearCounts d pa n).memOk := by
  unfold clearCounts; split <;> exact h

theorem memOk_l2Store {d : Dev} (bs : List Byte) {pa : Nat} (h : d.memOk) : (l2Store d pa bs).memOk :=
  memOk_l2Room _ _ (memOk_congr (memOk_l2Write bs (memOk_clearCounts _ _ h)) rfl rfl rfl)

theorem memOk_homeStore {d : Dev} (bs : List Byte) {pa : Nat} (h : d.memOk) : (homeStore d pa bs).memOk :=
  memOk_congr (memOk_homeWrite (pa := pa) bs (memOk_clearCounts _ _ h)) rfl rfl rfl

theorem memOk_sysWrite {d : Dev} (bs : List Byte) {pa : Nat} (h : d.memOk) : (sysWrite d pa bs).memOk := by
  unfold sysWrite; split
  · exact memOk_l2Store bs h
  · split
    · exact memOk_far bs h
    · exact h

theorem memOk_rekeyLine {d : Dev} (ph : Path) (key pa : Nat) (h : d.memOk) : (rekeyLine d ph key pa).memOk := by
  unfold rekeyLine; split
  · exact h
  · simp only
    generalize (List.range 64).map _ = bs
    have := memOk_farForward (memOk_farWrite ph (pa := pa / 64 * 64) bs h)
    exact ⟨this.1, this.2.1, this.2.2⟩

theorem memOk_farStore {d : Dev} (ph : Path) (key : Nat) (bs : List Byte) {pa : Nat} (h : d.memOk) :
    (farStore d ph key pa bs).memOk := by
  refine memOk_farWrite ph bs (memOk_foldl _ ?_ _ h)
  intro d i h; split
  · exact memOk_rekeyLine _ _ _ h
  · exact h

theorem memOk_pleatFold {d : Dev} (aid : BitVec 16) (pa : Nat) (h : d.memOk) : (pleatFold d aid pa).memOk := by
  unfold pleatFold
  dsimp only [pleatSet]
  generalize List.map _ (List.range 256) = bs
  have := memOk_homeStore bs (pa := slotPa (pleatAt d (stackOf pa)) (!committedSlot (pleatAt d (stackOf pa)) (blockMeta d pa)) (pa / 256 * 256)) h
  exact ⟨this.1, this.2.1, this.2.2⟩

theorem memOk_pleatPut {d : Dev} (m : List (BitVec 16)) (aid : BitVec 16) (pa : Nat) (b : Byte) (h : d.memOk) :
    (pleatPut d m aid pa b).memOk := by
  unfold pleatPut; simp only; apply memOk_homeWrite; split
  · exact h
  · exact memOk_pleatFold aid pa h

theorem memOk_pleatPuts {d : Dev} (a : Acc) (bs : List Byte) {pa : Nat} (h : d.memOk) : (pleatPuts d a pa bs).memOk := by
  induction bs generalizing d pa with
  | nil => exact h
  | cons b bs ih => exact ih (memOk_pleatPut _ _ _ _ h)

theorem memOk_tlbPut {d : Dev} (t : TlbEnt) (h : d.memOk) : (tlbPut d t).memOk := memOk_congr h rfl rfl rfl

theorem memOk_leafPut {d : Dev} (m : List (BitVec 16)) (pa v : Nat) (h : d.memOk) : (leafPut d m pa v).memOk := by
  unfold leafPut; split
  · exact memOk_homeStore _ h
  · exact memOk_l2Store _ h

theorem memOk_markLeaf {d : Dev} (x : Xlat) (dirty : Bool) (h : d.memOk) : (markLeaf d x dirty).memOk := by
  unfold markLeaf; simp only
  refine memOk_foldl _ (fun d t h => memOk_tlbPut _ h) _ ?_
  generalize (if dirty = true then 64 else 0) = m
  have step : (match leafNow d x.mset x.leafPa with
      | some e =>
        if leafCore e != leafCore x.leaf || (x.leaf ||| 32 ||| m) == x.leaf || (e ||| 32 ||| m) == e then d
        else leafPut d x.mset x.leafPa (e ||| 32 ||| m)
      | none => d).memOk := by
    split
    · split
      · exact h
      · exact memOk_leafPut _ _ _ h
    · exact h
  split
  · exact step
  · exact memOk_congr step rfl rfl rfl

theorem memOk_writeBack {d : Dev} (bad : List Nat) (key : Nat) (l : L1Line) (h : d.memOk) : (writeBack d bad key l).memOk := by
  unfold writeBack; simp only
  have put : ∀ (d : Dev) (i : Nat) (bs : List Byte), d.memOk →
      (if 64 * key ≥ farBase then farStore d .x l.key (64 * key + i) bs else l2Store d (64 * key + i) bs).memOk := by
    intro d i bs h; split
    · exact memOk_farStore _ _ _ h
    · exact memOk_l2Store _ h
  have mark : ∀ (c : Bool) (x : Dev) (n : Nat), x.memOk → (if c then { x with badL2 := addOnce x.badL2 n } else x).memOk := by
    intro c x n h; cases c
    · exact h
    · exact memOk_congr h rfl rfl rfl
  split
  · exact h
  · refine memOk_foldl _ ?_ _ h
    intro d w h
    refine mark _ _ _ ?_
    split
    · exact put _ _ _ h
    · refine memOk_foldl _ ?_ _ h
      intro d i h; split
      · exact put _ _ _ h
      · exact h

theorem memOk_pleatClean {d : Dev} (pa n : Nat) (h : d.memOk) : (pleatClean d pa n).memOk := memOk_congr h rfl rfl rfl

theorem memOk_placeWrite {s : State} (a : Acc) (lvl : Lvl) (x : Xlat) (bs : List Byte) (h : s.dev.memOk) :
    (placeWrite s a lvl x bs).dev.memOk := by
  unfold placeWrite State.onDev; simp only
  split
  · split
    · exact memOk_farForward (memOk_farStore _ _ _ h)
    · exact memOk_farStore _ _ _ h
  · split
    · exact memOk_pleatClean _ _ (memOk_pleatPuts _ _ h)
    · split
      · exact memOk_homeStore _ h
      · exact memOk_l2Store _ h

theorem memOk_reset : State.reset.dev.memOk := ⟨rfl, rfl, List.Pairwise.nil⟩

end Sys2Proof.Machine
end

