-- ==== Sys2Proof/Laws/State.lean ====
section
/-! SUPPORT. What each update of the state leaves alone: one lemma per field per update. A proof that cites them never unfolds an
update. `X_core` and the like name the update and the field. -/

namespace Sys2Proof.Machine

/-! ### `State.onDev` -/

@[simp] theorem State_onDev_core (s : State) (g : Dev → Dev) : (s.onDev g).core = s.core := rfl
@[simp] theorem State_onDev_others (s : State) (g : Dev → Dev) : (s.onDev g).others = s.others := rfl
@[simp] theorem State_onDev_unit (s : State) (g : Dev → Dev) : (s.onDev g).unit = s.unit := rfl
@[simp] theorem State_onDev_sched (s : State) (g : Dev → Dev) : (s.onDev g).sched = s.sched := rfl
@[simp] theorem State_onDev_cycle (s : State) (g : Dev → Dev) : (s.onDev g).cycle = s.cycle := rfl
@[simp] theorem State_onDev_free (s : State) (g : Dev → Dev) : (s.onDev g).free = s.free := rfl
@[simp] theorem State_onDev_part (s : State) (g : Dev → Dev) : (s.onDev g).part = s.part := rfl

@[simp] theorem State_onDev_dev (s : State) (g : Dev → Dev) : (s.onDev g).dev = g s.dev := rfl

/-! ### `State.onCore` -/

@[simp] theorem State_onCore_others (s : State) (g : Core → Core) : (s.onCore g).others = s.others := rfl
@[simp] theorem State_onCore_dev (s : State) (g : Core → Core) : (s.onCore g).dev = s.dev := rfl
@[simp] theorem State_onCore_unit (s : State) (g : Core → Core) : (s.onCore g).unit = s.unit := rfl
@[simp] theorem State_onCore_sched (s : State) (g : Core → Core) : (s.onCore g).sched = s.sched := rfl
@[simp] theorem State_onCore_cycle (s : State) (g : Core → Core) : (s.onCore g).cycle = s.cycle := rfl
@[simp] theorem State_onCore_free (s : State) (g : Core → Core) : (s.onCore g).free = s.free := rfl
@[simp] theorem State_onCore_part (s : State) (g : Core → Core) : (s.onCore g).part = s.part := rfl

@[simp] theorem State_onCore_core (s : State) (g : Core → Core) : (s.onCore g).core = g s.core := rfl

/-! ### `xset` -/

@[simp] theorem xset_others (s : State) (r : BitVec 5) (v : Word) : (xset s r v).others = s.others := by unfold xset; split <;> rfl
@[simp] theorem xset_dev (s : State) (r : BitVec 5) (v : Word) : (xset s r v).dev = s.dev := by unfold xset; split <;> rfl
@[simp] theorem xset_unit (s : State) (r : BitVec 5) (v : Word) : (xset s r v).unit = s.unit := by unfold xset; split <;> rfl
@[simp] theorem xset_sched (s : State) (r : BitVec 5) (v : Word) : (xset s r v).sched = s.sched := by unfold xset; split <;> rfl
@[simp] theorem xset_cycle (s : State) (r : BitVec 5) (v : Word) : (xset s r v).cycle = s.cycle := by unfold xset; split <;> rfl
@[simp] theorem xset_free (s : State) (r : BitVec 5) (v : Word) : (xset s r v).free = s.free := by unfold xset; split <;> rfl
@[simp] theorem xset_part (s : State) (r : BitVec 5) (v : Word) : (xset s r v).part = s.part := by unfold xset; split <;> rfl

/-! ### `xset` -/

@[simp] theorem xset_core_gcore (s : State) (r : BitVec 5) (v : Word) : (xset s r v).core.gcore = s.core.gcore := by unfold xset; split <;> rfl
@[simp] theorem xset_core_pc (s : State) (r : BitVec 5) (v : Word) : (xset s r v).core.pc = s.core.pc := by unfold xset; split <;> rfl
@[simp] theorem xset_core_xwait (s : State) (r : BitVec 5) (v : Word) : (xset s r v).core.xwait = s.core.xwait := by unfold xset; split <;> rfl
@[simp] theorem xset_core_wfeHit (s : State) (r : BitVec 5) (v : Word) : (xset s r v).core.wfeHit = s.core.wfeHit := by unfold xset; split <;> rfl
@[simp] theorem xset_core_twaitLate (s : State) (r : BitVec 5) (v : Word) : (xset s r v).core.twaitLate = s.core.twaitLate := by unfold xset; split <;> rfl
@[simp] theorem xset_core_handler (s : State) (r : BitVec 5) (v : Word) : (xset s r v).core.handler = s.core.handler := by unfold xset; split <;> rfl
@[simp] theorem xset_core_delivered (s : State) (r : BitVec 5) (v : Word) : (xset s r v).core.delivered = s.core.delivered := by unfold xset; split <;> rfl
@[simp] theorem xset_core_fctl (s : State) (r : BitVec 5) (v : Word) : (xset s r v).core.fctl = s.core.fctl := by unfold xset; split <;> rfl
@[simp] theorem xset_core_fstat (s : State) (r : BitVec 5) (v : Word) : (xset s r v).core.fstat = s.core.fstat := by unfold xset; split <;> rfl
@[simp] theorem xset_core_vfctl (s : State) (r : BitVec 5) (v : Word) : (xset s r v).core.vfctl = s.core.vfctl := by unfold xset; split <;> rfl
@[simp] theorem xset_core_vfstat (s : State) (r : BitVec 5) (v : Word) : (xset s r v).core.vfstat = s.core.vfstat := by unfold xset; split <;> rfl
@[simp] theorem xset_core_seqno (s : State) (r : BitVec 5) (v : Word) : (xset s r v).core.seqno = s.core.seqno := by unfold xset; split <;> rfl
@[simp] theorem xset_core_snapshot (s : State) (r : BitVec 5) (v : Word) : (xset s r v).core.snapshot = s.core.snapshot := by unfold xset; split <;> rfl
@[simp] theorem xset_core_txnAid (s : State) (r : BitVec 5) (v : Word) : (xset s r v).core.txnAid = s.core.txnAid := by unfold xset; split <;> rfl
@[simp] theorem xset_core_txnDead (s : State) (r : BitVec 5) (v : Word) : (xset s r v).core.txnDead = s.core.txnDead := by unfold xset; split <;> rfl
@[simp] theorem xset_core_taskFrame (s : State) (r : BitVec 5) (v : Word) : (xset s r v).core.taskFrame = s.core.taskFrame := by unfold xset; split <;> rfl
@[simp] theorem xset_core_regionId (s : State) (r : BitVec 5) (v : Word) : (xset s r v).core.regionId = s.core.regionId := by unfold xset; split <;> rfl
@[simp] theorem xset_core_asid (s : State) (r : BitVec 5) (v : Word) : (xset s r v).core.asid = s.core.asid := by unfold xset; split <;> rfl
@[simp] theorem xset_core_sealBit (s : State) (r : BitVec 5) (v : Word) : (xset s r v).core.sealBit = s.core.sealBit := by unfold xset; split <;> rfl
@[simp] theorem xset_core_trapCause (s : State) (r : BitVec 5) (v : Word) : (xset s r v).core.trapCause = s.core.trapCause := by unfold xset; split <;> rfl
@[simp] theorem xset_core_trapPc (s : State) (r : BitVec 5) (v : Word) : (xset s r v).core.trapPc = s.core.trapPc := by unfold xset; split <;> rfl
@[simp] theorem xset_core_trapAddr (s : State) (r : BitVec 5) (v : Word) : (xset s r v).core.trapAddr = s.core.trapAddr := by unfold xset; split <;> rfl
@[simp] theorem xset_core_trapInfo (s : State) (r : BitVec 5) (v : Word) : (xset s r v).core.trapInfo = s.core.trapInfo := by unfold xset; split <;> rfl
@[simp] theorem xset_core_trapVec (s : State) (r : BitVec 5) (v : Word) : (xset s r v).core.trapVec = s.core.trapVec := by unfold xset; split <;> rfl
@[simp] theorem xset_core_wdogLimit (s : State) (r : BitVec 5) (v : Word) : (xset s r v).core.wdogLimit = s.core.wdogLimit := by unfold xset; split <;> rfl
@[simp] theorem xset_core_ev (s : State) (r : BitVec 5) (v : Word) : (xset s r v).core.ev = s.core.ev := by unfold xset; split <;> rfl
@[simp] theorem xset_core_l (s : State) (r : BitVec 5) (v : Word) : (xset s r v).core.l = s.core.l := by unfold xset; split <;> rfl
@[simp] theorem xset_core_c (s : State) (r : BitVec 5) (v : Word) : (xset s r v).core.c = s.core.c := by unfold xset; split <;> rfl
@[simp] theorem xset_core_s (s : State) (r : BitVec 5) (v : Word) : (xset s r v).core.s = s.core.s := by unfold xset; split <;> rfl
@[simp] theorem xset_core_g (s : State) (r : BitVec 5) (v : Word) : (xset s r v).core.g = s.core.g := by unfold xset; split <;> rfl
@[simp] theorem xset_core_v (s : State) (r : BitVec 5) (v : Word) : (xset s r v).core.v = s.core.v := by unfold xset; split <;> rfl
@[simp] theorem xset_core_p (s : State) (r : BitVec 5) (v : Word) : (xset s r v).core.p = s.core.p := by unfold xset; split <;> rfl
@[simp] theorem xset_core_vrb (s : State) (r : BitVec 5) (v : Word) : (xset s r v).core.vrb = s.core.vrb := by unfold xset; split <;> rfl
@[simp] theorem xset_core_prb (s : State) (r : BitVec 5) (v : Word) : (xset s r v).core.prb = s.core.prb := by unfold xset; split <;> rfl
@[simp] theorem xset_core_lflags (s : State) (r : BitVec 5) (v : Word) : (xset s r v).core.lflags = s.core.lflags := by unfold xset; split <;> rfl
@[simp] theorem xset_core_a (s : State) (r : BitVec 5) (v : Word) : (xset s r v).core.a = s.core.a := by unfold xset; split <;> rfl
@[simp] theorem xset_core_gp (s : State) (r : BitVec 5) (v : Word) : (xset s r v).core.gp = s.core.gp := by unfold xset; split <;> rfl
@[simp] theorem xset_core_wp (s : State) (r : BitVec 5) (v : Word) : (xset s r v).core.wp = s.core.wp := by unfold xset; split <;> rfl
@[simp] theorem xset_core_q (s : State) (r : BitVec 5) (v : Word) : (xset s r v).core.q = s.core.q := by unfold xset; split <;> rfl
@[simp] theorem xset_core_tok (s : State) (r : BitVec 5) (v : Word) : (xset s r v).core.tok = s.core.tok := by unfold xset; split <;> rfl
@[simp] theorem xset_core_sem (s : State) (r : BitVec 5) (v : Word) : (xset s r v).core.sem = s.core.sem := by unfold xset; split <;> rfl
@[simp] theorem xset_core_semMask (s : State) (r : BitVec 5) (v : Word) : (xset s r v).core.semMask = s.core.semMask := by unfold xset; split <;> rfl
@[simp] theorem xset_core_l1 (s : State) (r : BitVec 5) (v : Word) : (xset s r v).core.l1 = s.core.l1 := by unfold xset; split <;> rfl
@[simp] theorem xset_core_badL1 (s : State) (r : BitVec 5) (v : Word) : (xset s r v).core.badL1 = s.core.badL1 := by unfold xset; split <;> rfl
@[simp] theorem xset_core_code (s : State) (r : BitVec 5) (v : Word) : (xset s r v).core.code = s.core.code := by unfold xset; split <;> rfl
@[simp] theorem xset_core_resident (s : State) (r : BitVec 5) (v : Word) : (xset s r v).core.resident = s.core.resident := by unfold xset; split <;> rfl
@[simp] theorem xset_core_fetched (s : State) (r : BitVec 5) (v : Word) : (xset s r v).core.fetched = s.core.fetched := by unfold xset; split <;> rfl
@[simp] theorem xset_core_badCode (s : State) (r : BitVec 5) (v : Word) : (xset s r v).core.badCode = s.core.badCode := by unfold xset; split <;> rfl
@[simp] theorem xset_core_residues (s : State) (r : BitVec 5) (v : Word) : (xset s r v).core.residues = s.core.residues := by unfold xset; split <;> rfl
@[simp] theorem xset_core_task (s : State) (r : BitVec 5) (v : Word) : (xset s r v).core.task = s.core.task := by unfold xset; split <;> rfl
@[simp] theorem xset_core_saving (s : State) (r : BitVec 5) (v : Word) : (xset s r v).core.saving = s.core.saving := by unfold xset; split <;> rfl
@[simp] theorem xset_core_retired (s : State) (r : BitVec 5) (v : Word) : (xset s r v).core.retired = s.core.retired := by unfold xset; split <;> rfl

/-! ### `goto` -/

@[simp] theorem goto_others (s : State) (a : Word) : (goto s a).others = s.others := rfl
@[simp] theorem goto_dev (s : State) (a : Word) : (goto s a).dev = s.dev := rfl
@[simp] theorem goto_unit (s : State) (a : Word) : (goto s a).unit = s.unit := rfl
@[simp] theorem goto_sched (s : State) (a : Word) : (goto s a).sched = s.sched := rfl
@[simp] theorem goto_cycle (s : State) (a : Word) : (goto s a).cycle = s.cycle := rfl
@[simp] theorem goto_free (s : State) (a : Word) : (goto s a).free = s.free := rfl
@[simp] theorem goto_part (s : State) (a : Word) : (goto s a).part = s.part := rfl

/-! ### `goto` -/

@[simp] theorem goto_core_gcore (s : State) (a : Word) : (goto s a).core.gcore = s.core.gcore := rfl
@[simp] theorem goto_core_x (s : State) (a : Word) : (goto s a).core.x = s.core.x := rfl
@[simp] theorem goto_core_wfeHit (s : State) (a : Word) : (goto s a).core.wfeHit = s.core.wfeHit := rfl
@[simp] theorem goto_core_twaitLate (s : State) (a : Word) : (goto s a).core.twaitLate = s.core.twaitLate := rfl
@[simp] theorem goto_core_handler (s : State) (a : Word) : (goto s a).core.handler = s.core.handler := rfl
@[simp] theorem goto_core_delivered (s : State) (a : Word) : (goto s a).core.delivered = s.core.delivered := rfl
@[simp] theorem goto_core_fctl (s : State) (a : Word) : (goto s a).core.fctl = s.core.fctl := rfl
@[simp] theorem goto_core_fstat (s : State) (a : Word) : (goto s a).core.fstat = s.core.fstat := rfl
@[simp] theorem goto_core_vfctl (s : State) (a : Word) : (goto s a).core.vfctl = s.core.vfctl := rfl
@[simp] theorem goto_core_vfstat (s : State) (a : Word) : (goto s a).core.vfstat = s.core.vfstat := rfl
@[simp] theorem goto_core_seqno (s : State) (a : Word) : (goto s a).core.seqno = s.core.seqno := rfl
@[simp] theorem goto_core_snapshot (s : State) (a : Word) : (goto s a).core.snapshot = s.core.snapshot := rfl
@[simp] theorem goto_core_txnAid (s : State) (a : Word) : (goto s a).core.txnAid = s.core.txnAid := rfl
@[simp] theorem goto_core_txnDead (s : State) (a : Word) : (goto s a).core.txnDead = s.core.txnDead := rfl
@[simp] theorem goto_core_taskFrame (s : State) (a : Word) : (goto s a).core.taskFrame = s.core.taskFrame := rfl
@[simp] theorem goto_core_regionId (s : State) (a : Word) : (goto s a).core.regionId = s.core.regionId := rfl
@[simp] theorem goto_core_asid (s : State) (a : Word) : (goto s a).core.asid = s.core.asid := rfl
@[simp] theorem goto_core_sealBit (s : State) (a : Word) : (goto s a).core.sealBit = s.core.sealBit := rfl
@[simp] theorem goto_core_trapCause (s : State) (a : Word) : (goto s a).core.trapCause = s.core.trapCause := rfl
@[simp] theorem goto_core_trapPc (s : State) (a : Word) : (goto s a).core.trapPc = s.core.trapPc := rfl
@[simp] theorem goto_core_trapAddr (s : State) (a : Word) : (goto s a).core.trapAddr = s.core.trapAddr := rfl
@[simp] theorem goto_core_trapInfo (s : State) (a : Word) : (goto s a).core.trapInfo = s.core.trapInfo := rfl
@[simp] theorem goto_core_trapVec (s : State) (a : Word) : (goto s a).core.trapVec = s.core.trapVec := rfl
@[simp] theorem goto_core_wdogLimit (s : State) (a : Word) : (goto s a).core.wdogLimit = s.core.wdogLimit := rfl
@[simp] theorem goto_core_ev (s : State) (a : Word) : (goto s a).core.ev = s.core.ev := rfl
@[simp] theorem goto_core_l (s : State) (a : Word) : (goto s a).core.l = s.core.l := rfl
@[simp] theorem goto_core_c (s : State) (a : Word) : (goto s a).core.c = s.core.c := rfl
@[simp] theorem goto_core_s (s : State) (a : Word) : (goto s a).core.s = s.core.s := rfl
@[simp] theorem goto_core_g (s : State) (a : Word) : (goto s a).core.g = s.core.g := rfl
@[simp] theorem goto_core_v (s : State) (a : Word) : (goto s a).core.v = s.core.v := rfl
@[simp] theorem goto_core_p (s : State) (a : Word) : (goto s a).core.p = s.core.p := rfl
@[simp] theorem goto_core_vrb (s : State) (a : Word) : (goto s a).core.vrb = s.core.vrb := rfl
@[simp] theorem goto_core_prb (s : State) (a : Word) : (goto s a).core.prb = s.core.prb := rfl
@[simp] theorem goto_core_lflags (s : State) (a : Word) : (goto s a).core.lflags = s.core.lflags := rfl
@[simp] theorem goto_core_a (s : State) (a : Word) : (goto s a).core.a = s.core.a := rfl
@[simp] theorem goto_core_gp (s : State) (a : Word) : (goto s a).core.gp = s.core.gp := rfl
@[simp] theorem goto_core_wp (s : State) (a : Word) : (goto s a).core.wp = s.core.wp := rfl
@[simp] theorem goto_core_q (s : State) (a : Word) : (goto s a).core.q = s.core.q := rfl
@[simp] theorem goto_core_tok (s : State) (a : Word) : (goto s a).core.tok = s.core.tok := rfl
@[simp] theorem goto_core_sem (s : State) (a : Word) : (goto s a).core.sem = s.core.sem := rfl
@[simp] theorem goto_core_semMask (s : State) (a : Word) : (goto s a).core.semMask = s.core.semMask := rfl
@[simp] theorem goto_core_l1 (s : State) (a : Word) : (goto s a).core.l1 = s.core.l1 := rfl
@[simp] theorem goto_core_badL1 (s : State) (a : Word) : (goto s a).core.badL1 = s.core.badL1 := rfl
@[simp] theorem goto_core_code (s : State) (a : Word) : (goto s a).core.code = s.core.code := rfl
@[simp] theorem goto_core_resident (s : State) (a : Word) : (goto s a).core.resident = s.core.resident := rfl
@[simp] theorem goto_core_fetched (s : State) (a : Word) : (goto s a).core.fetched = s.core.fetched := rfl
@[simp] theorem goto_core_badCode (s : State) (a : Word) : (goto s a).core.badCode = s.core.badCode := rfl
@[simp] theorem goto_core_residues (s : State) (a : Word) : (goto s a).core.residues = s.core.residues := rfl
@[simp] theorem goto_core_task (s : State) (a : Word) : (goto s a).core.task = s.core.task := rfl
@[simp] theorem goto_core_saving (s : State) (a : Word) : (goto s a).core.saving = s.core.saving := rfl
@[simp] theorem goto_core_retired (s : State) (a : Word) : (goto s a).core.retired = s.core.retired := rfl

@[simp] theorem goto_core_pc (s : State) (a : Word) : (goto s a).core.pc = a := rfl
@[simp] theorem goto_core_xwait (s : State) (a : Word) : (goto s a).core.xwait = .none := rfl

/-! ### `advance` -/

@[simp] theorem advance_others (s : State) : (advance s).others = s.others := rfl
@[simp] theorem advance_dev (s : State) : (advance s).dev = s.dev := rfl
@[simp] theorem advance_unit (s : State) : (advance s).unit = s.unit := rfl
@[simp] theorem advance_sched (s : State) : (advance s).sched = s.sched := rfl
@[simp] theorem advance_cycle (s : State) : (advance s).cycle = s.cycle := rfl
@[simp] theorem advance_free (s : State) : (advance s).free = s.free := rfl
@[simp] theorem advance_part (s : State) : (advance s).part = s.part := rfl

/-! ### `advance` -/

@[simp] theorem advance_core_gcore (s : State) : (advance s).core.gcore = s.core.gcore := rfl
@[simp] theorem advance_core_x (s : State) : (advance s).core.x = s.core.x := rfl
@[simp] theorem advance_core_wfeHit (s : State) : (advance s).core.wfeHit = s.core.wfeHit := rfl
@[simp] theorem advance_core_twaitLate (s : State) : (advance s).core.twaitLate = s.core.twaitLate := rfl
@[simp] theorem advance_core_handler (s : State) : (advance s).core.handler = s.core.handler := rfl
@[simp] theorem advance_core_delivered (s : State) : (advance s).core.delivered = s.core.delivered := rfl
@[simp] theorem advance_core_fctl (s : State) : (advance s).core.fctl = s.core.fctl := rfl
@[simp] theorem advance_core_fstat (s : State) : (advance s).core.fstat = s.core.fstat := rfl
@[simp] theorem advance_core_vfctl (s : State) : (advance s).core.vfctl = s.core.vfctl := rfl
@[simp] theorem advance_core_vfstat (s : State) : (advance s).core.vfstat = s.core.vfstat := rfl
@[simp] theorem advance_core_seqno (s : State) : (advance s).core.seqno = s.core.seqno := rfl
@[simp] theorem advance_core_snapshot (s : State) : (advance s).core.snapshot = s.core.snapshot := rfl
@[simp] theorem advance_core_txnAid (s : State) : (advance s).core.txnAid = s.core.txnAid := rfl
@[simp] theorem advance_core_txnDead (s : State) : (advance s).core.txnDead = s.core.txnDead := rfl
@[simp] theorem advance_core_taskFrame (s : State) : (advance s).core.taskFrame = s.core.taskFrame := rfl
@[simp] theorem advance_core_regionId (s : State) : (advance s).core.regionId = s.core.regionId := rfl
@[simp] theorem advance_core_asid (s : State) : (advance s).core.asid = s.core.asid := rfl
@[simp] theorem advance_core_sealBit (s : State) : (advance s).core.sealBit = s.core.sealBit := rfl
@[simp] theorem advance_core_trapCause (s : State) : (advance s).core.trapCause = s.core.trapCause := rfl
@[simp] theorem advance_core_trapPc (s : State) : (advance s).core.trapPc = s.core.trapPc := rfl
@[simp] theorem advance_core_trapAddr (s : State) : (advance s).core.trapAddr = s.core.trapAddr := rfl
@[simp] theorem advance_core_trapInfo (s : State) : (advance s).core.trapInfo = s.core.trapInfo := rfl
@[simp] theorem advance_core_trapVec (s : State) : (advance s).core.trapVec = s.core.trapVec := rfl
@[simp] theorem advance_core_wdogLimit (s : State) : (advance s).core.wdogLimit = s.core.wdogLimit := rfl
@[simp] theorem advance_core_ev (s : State) : (advance s).core.ev = s.core.ev := rfl
@[simp] theorem advance_core_l (s : State) : (advance s).core.l = s.core.l := rfl
@[simp] theorem advance_core_c (s : State) : (advance s).core.c = s.core.c := rfl
@[simp] theorem advance_core_s (s : State) : (advance s).core.s = s.core.s := rfl
@[simp] theorem advance_core_g (s : State) : (advance s).core.g = s.core.g := rfl
@[simp] theorem advance_core_v (s : State) : (advance s).core.v = s.core.v := rfl
@[simp] theorem advance_core_p (s : State) : (advance s).core.p = s.core.p := rfl
@[simp] theorem advance_core_vrb (s : State) : (advance s).core.vrb = s.core.vrb := rfl
@[simp] theorem advance_core_prb (s : State) : (advance s).core.prb = s.core.prb := rfl
@[simp] theorem advance_core_lflags (s : State) : (advance s).core.lflags = s.core.lflags := rfl
@[simp] theorem advance_core_a (s : State) : (advance s).core.a = s.core.a := rfl
@[simp] theorem advance_core_gp (s : State) : (advance s).core.gp = s.core.gp := rfl
@[simp] theorem advance_core_wp (s : State) : (advance s).core.wp = s.core.wp := rfl
@[simp] theorem advance_core_q (s : State) : (advance s).core.q = s.core.q := rfl
@[simp] theorem advance_core_tok (s : State) : (advance s).core.tok = s.core.tok := rfl
@[simp] theorem advance_core_sem (s : State) : (advance s).core.sem = s.core.sem := rfl
@[simp] theorem advance_core_semMask (s : State) : (advance s).core.semMask = s.core.semMask := rfl
@[simp] theorem advance_core_l1 (s : State) : (advance s).core.l1 = s.core.l1 := rfl
@[simp] theorem advance_core_badL1 (s : State) : (advance s).core.badL1 = s.core.badL1 := rfl
@[simp] theorem advance_core_code (s : State) : (advance s).core.code = s.core.code := rfl
@[simp] theorem advance_core_resident (s : State) : (advance s).core.resident = s.core.resident := rfl
@[simp] theorem advance_core_fetched (s : State) : (advance s).core.fetched = s.core.fetched := rfl
@[simp] theorem advance_core_badCode (s : State) : (advance s).core.badCode = s.core.badCode := rfl
@[simp] theorem advance_core_residues (s : State) : (advance s).core.residues = s.core.residues := rfl
@[simp] theorem advance_core_task (s : State) : (advance s).core.task = s.core.task := rfl
@[simp] theorem advance_core_saving (s : State) : (advance s).core.saving = s.core.saving := rfl
@[simp] theorem advance_core_retired (s : State) : (advance s).core.retired = s.core.retired := rfl

@[simp] theorem advance_core_pc (s : State) : (advance s).core.pc = s.core.pc + 4 := rfl
@[simp] theorem advance_core_xwait (s : State) : (advance s).core.xwait = .none := rfl

/-! ### `setSeq` -/

@[simp] theorem setSeq_others (s : State) (u : SeqId) (q : Seq) : (setSeq s u q).others = s.others := by unfold setSeq; repeat (first | rfl | split)
@[simp] theorem setSeq_unit (s : State) (u : SeqId) (q : Seq) : (setSeq s u q).unit = s.unit := by unfold setSeq; repeat (first | rfl | split)
@[simp] theorem setSeq_sched (s : State) (u : SeqId) (q : Seq) : (setSeq s u q).sched = s.sched := by unfold setSeq; repeat (first | rfl | split)
@[simp] theorem setSeq_cycle (s : State) (u : SeqId) (q : Seq) : (setSeq s u q).cycle = s.cycle := by unfold setSeq; repeat (first | rfl | split)
@[simp] theorem setSeq_free (s : State) (u : SeqId) (q : Seq) : (setSeq s u q).free = s.free := by unfold setSeq; repeat (first | rfl | split)
@[simp] theorem setSeq_part (s : State) (u : SeqId) (q : Seq) : (setSeq s u q).part = s.part := by unfold setSeq; repeat (first | rfl | split)

/-! ### `setSeq` -/

@[simp] theorem setSeq_core_gcore (s : State) (u : SeqId) (q : Seq) : (setSeq s u q).core.gcore = s.core.gcore := by unfold setSeq; repeat (first | rfl | split)
@[simp] theorem setSeq_core_x (s : State) (u : SeqId) (q : Seq) : (setSeq s u q).core.x = s.core.x := by unfold setSeq; repeat (first | rfl | split)
@[simp] theorem setSeq_core_pc (s : State) (u : SeqId) (q : Seq) : (setSeq s u q).core.pc = s.core.pc := by unfold setSeq; repeat (first | rfl | split)
@[simp] theorem setSeq_core_xwait (s : State) (u : SeqId) (q : Seq) : (setSeq s u q).core.xwait = s.core.xwait := by unfold setSeq; repeat (first | rfl | split)
@[simp] theorem setSeq_core_wfeHit (s : State) (u : SeqId) (q : Seq) : (setSeq s u q).core.wfeHit = s.core.wfeHit := by unfold setSeq; repeat (first | rfl | split)
@[simp] theorem setSeq_core_twaitLate (s : State) (u : SeqId) (q : Seq) : (setSeq s u q).core.twaitLate = s.core.twaitLate := by unfold setSeq; repeat (first | rfl | split)
@[simp] theorem setSeq_core_handler (s : State) (u : SeqId) (q : Seq) : (setSeq s u q).core.handler = s.core.handler := by unfold setSeq; repeat (first | rfl | split)
@[simp] theorem setSeq_core_delivered (s : State) (u : SeqId) (q : Seq) : (setSeq s u q).core.delivered = s.core.delivered := by unfold setSeq; repeat (first | rfl | split)
@[simp] theorem setSeq_core_fctl (s : State) (u : SeqId) (q : Seq) : (setSeq s u q).core.fctl = s.core.fctl := by unfold setSeq; repeat (first | rfl | split)
@[simp] theorem setSeq_core_fstat (s : State) (u : SeqId) (q : Seq) : (setSeq s u q).core.fstat = s.core.fstat := by unfold setSeq; repeat (first | rfl | split)
@[simp] theorem setSeq_core_vfctl (s : State) (u : SeqId) (q : Seq) : (setSeq s u q).core.vfctl = s.core.vfctl := by unfold setSeq; repeat (first | rfl | split)
@[simp] theorem setSeq_core_vfstat (s : State) (u : SeqId) (q : Seq) : (setSeq s u q).core.vfstat = s.core.vfstat := by unfold setSeq; repeat (first | rfl | split)
@[simp] theorem setSeq_core_seqno (s : State) (u : SeqId) (q : Seq) : (setSeq s u q).core.seqno = s.core.seqno := by unfold setSeq; repeat (first | rfl | split)
@[simp] theorem setSeq_core_snapshot (s : State) (u : SeqId) (q : Seq) : (setSeq s u q).core.snapshot = s.core.snapshot := by unfold setSeq; repeat (first | rfl | split)
@[simp] theorem setSeq_core_txnAid (s : State) (u : SeqId) (q : Seq) : (setSeq s u q).core.txnAid = s.core.txnAid := by unfold setSeq; repeat (first | rfl | split)
@[simp] theorem setSeq_core_txnDead (s : State) (u : SeqId) (q : Seq) : (setSeq s u q).core.txnDead = s.core.txnDead := by unfold setSeq; repeat (first | rfl | split)
@[simp] theorem setSeq_core_taskFrame (s : State) (u : SeqId) (q : Seq) : (setSeq s u q).core.taskFrame = s.core.taskFrame := by unfold setSeq; repeat (first | rfl | split)
@[simp] theorem setSeq_core_regionId (s : State) (u : SeqId) (q : Seq) : (setSeq s u q).core.regionId = s.core.regionId := by unfold setSeq; repeat (first | rfl | split)
@[simp] theorem setSeq_core_asid (s : State) (u : SeqId) (q : Seq) : (setSeq s u q).core.asid = s.core.asid := by unfold setSeq; repeat (first | rfl | split)
@[simp] theorem setSeq_core_sealBit (s : State) (u : SeqId) (q : Seq) : (setSeq s u q).core.sealBit = s.core.sealBit := by unfold setSeq; repeat (first | rfl | split)
@[simp] theorem setSeq_core_trapCause (s : State) (u : SeqId) (q : Seq) : (setSeq s u q).core.trapCause = s.core.trapCause := by unfold setSeq; repeat (first | rfl | split)
@[simp] theorem setSeq_core_trapPc (s : State) (u : SeqId) (q : Seq) : (setSeq s u q).core.trapPc = s.core.trapPc := by unfold setSeq; repeat (first | rfl | split)
@[simp] theorem setSeq_core_trapAddr (s : State) (u : SeqId) (q : Seq) : (setSeq s u q).core.trapAddr = s.core.trapAddr := by unfold setSeq; repeat (first | rfl | split)
@[simp] theorem setSeq_core_trapInfo (s : State) (u : SeqId) (q : Seq) : (setSeq s u q).core.trapInfo = s.core.trapInfo := by unfold setSeq; repeat (first | rfl | split)
@[simp] theorem setSeq_core_trapVec (s : State) (u : SeqId) (q : Seq) : (setSeq s u q).core.trapVec = s.core.trapVec := by unfold setSeq; repeat (first | rfl | split)
@[simp] theorem setSeq_core_wdogLimit (s : State) (u : SeqId) (q : Seq) : (setSeq s u q).core.wdogLimit = s.core.wdogLimit := by unfold setSeq; repeat (first | rfl | split)
@[simp] theorem setSeq_core_ev (s : State) (u : SeqId) (q : Seq) : (setSeq s u q).core.ev = s.core.ev := by unfold setSeq; repeat (first | rfl | split)
@[simp] theorem setSeq_core_g (s : State) (u : SeqId) (q : Seq) : (setSeq s u q).core.g = s.core.g := by unfold setSeq; repeat (first | rfl | split)
@[simp] theorem setSeq_core_v (s : State) (u : SeqId) (q : Seq) : (setSeq s u q).core.v = s.core.v := by unfold setSeq; repeat (first | rfl | split)
@[simp] theorem setSeq_core_p (s : State) (u : SeqId) (q : Seq) : (setSeq s u q).core.p = s.core.p := by unfold setSeq; repeat (first | rfl | split)
@[simp] theorem setSeq_core_vrb (s : State) (u : SeqId) (q : Seq) : (setSeq s u q).core.vrb = s.core.vrb := by unfold setSeq; repeat (first | rfl | split)
@[simp] theorem setSeq_core_prb (s : State) (u : SeqId) (q : Seq) : (setSeq s u q).core.prb = s.core.prb := by unfold setSeq; repeat (first | rfl | split)
@[simp] theorem setSeq_core_lflags (s : State) (u : SeqId) (q : Seq) : (setSeq s u q).core.lflags = s.core.lflags := by unfold setSeq; repeat (first | rfl | split)
@[simp] theorem setSeq_core_a (s : State) (u : SeqId) (q : Seq) : (setSeq s u q).core.a = s.core.a := by unfold setSeq; repeat (first | rfl | split)
@[simp] theorem setSeq_core_gp (s : State) (u : SeqId) (q : Seq) : (setSeq s u q).core.gp = s.core.gp := by unfold setSeq; repeat (first | rfl | split)
@[simp] theorem setSeq_core_wp (s : State) (u : SeqId) (q : Seq) : (setSeq s u q).core.wp = s.core.wp := by unfold setSeq; repeat (first | rfl | split)
@[simp] theorem setSeq_core_q (s : State) (u : SeqId) (q : Seq) : (setSeq s u q).core.q = s.core.q := by unfold setSeq; repeat (first | rfl | split)
@[simp] theorem setSeq_core_tok (s : State) (u : SeqId) (q : Seq) : (setSeq s u q).core.tok = s.core.tok := by unfold setSeq; repeat (first | rfl | split)
@[simp] theorem setSeq_core_sem (s : State) (u : SeqId) (q : Seq) : (setSeq s u q).core.sem = s.core.sem := by unfold setSeq; repeat (first | rfl | split)
@[simp] theorem setSeq_core_semMask (s : State) (u : SeqId) (q : Seq) : (setSeq s u q).core.semMask = s.core.semMask := by unfold setSeq; repeat (first | rfl | split)
@[simp] theorem setSeq_core_l1 (s : State) (u : SeqId) (q : Seq) : (setSeq s u q).core.l1 = s.core.l1 := by unfold setSeq; repeat (first | rfl | split)
@[simp] theorem setSeq_core_badL1 (s : State) (u : SeqId) (q : Seq) : (setSeq s u q).core.badL1 = s.core.badL1 := by unfold setSeq; repeat (first | rfl | split)
@[simp] theorem setSeq_core_code (s : State) (u : SeqId) (q : Seq) : (setSeq s u q).core.code = s.core.code := by unfold setSeq; repeat (first | rfl | split)
@[simp] theorem setSeq_core_resident (s : State) (u : SeqId) (q : Seq) : (setSeq s u q).core.resident = s.core.resident := by unfold setSeq; repeat (first | rfl | split)
@[simp] theorem setSeq_core_fetched (s : State) (u : SeqId) (q : Seq) : (setSeq s u q).core.fetched = s.core.fetched := by unfold setSeq; repeat (first | rfl | split)
@[simp] theorem setSeq_core_badCode (s : State) (u : SeqId) (q : Seq) : (setSeq s u q).core.badCode = s.core.badCode := by unfold setSeq; repeat (first | rfl | split)
@[simp] theorem setSeq_core_residues (s : State) (u : SeqId) (q : Seq) : (setSeq s u q).core.residues = s.core.residues := by unfold setSeq; repeat (first | rfl | split)
@[simp] theorem setSeq_core_task (s : State) (u : SeqId) (q : Seq) : (setSeq s u q).core.task = s.core.task := by unfold setSeq; repeat (first | rfl | split)
@[simp] theorem setSeq_core_saving (s : State) (u : SeqId) (q : Seq) : (setSeq s u q).core.saving = s.core.saving := by unfold setSeq; repeat (first | rfl | split)
@[simp] theorem setSeq_core_retired (s : State) (u : SeqId) (q : Seq) : (setSeq s u q).core.retired = s.core.retired := by unfold setSeq; repeat (first | rfl | split)

/-! ### `setSeq` -/

@[simp] theorem setSeq_dev_hbm (s : State) (u : SeqId) (q : Seq) : (setSeq s u q).dev.hbm = s.dev.hbm := by unfold setSeq; repeat (first | rfl | split)
@[simp] theorem setSeq_dev_l2 (s : State) (u : SeqId) (q : Seq) : (setSeq s u q).dev.l2 = s.dev.l2 := by unfold setSeq; repeat (first | rfl | split)
@[simp] theorem setSeq_dev_farPort (s : State) (u : SeqId) (q : Seq) : (setSeq s u q).dev.farPort = s.dev.farPort := by unfold setSeq; repeat (first | rfl | split)
@[simp] theorem setSeq_dev_far (s : State) (u : SeqId) (q : Seq) : (setSeq s u q).dev.far = s.dev.far := by unfold setSeq; repeat (first | rfl | split)
@[simp] theorem setSeq_dev_badWords (s : State) (u : SeqId) (q : Seq) : (setSeq s u q).dev.badWords = s.dev.badWords := by unfold setSeq; repeat (first | rfl | split)
@[simp] theorem setSeq_dev_softWords (s : State) (u : SeqId) (q : Seq) : (setSeq s u q).dev.softWords = s.dev.softWords := by unfold setSeq; repeat (first | rfl | split)
@[simp] theorem setSeq_dev_badL2 (s : State) (u : SeqId) (q : Seq) : (setSeq s u q).dev.badL2 = s.dev.badL2 := by unfold setSeq; repeat (first | rfl | split)
@[simp] theorem setSeq_dev_badWin (s : State) (u : SeqId) (q : Seq) : (setSeq s u q).dev.badWin = s.dev.badWin := by unfold setSeq; repeat (first | rfl | split)
@[simp] theorem setSeq_dev_tlb (s : State) (u : SeqId) (q : Seq) : (setSeq s u q).dev.tlb = s.dev.tlb := by unfold setSeq; repeat (first | rfl | split)
@[simp] theorem setSeq_dev_asidTab (s : State) (u : SeqId) (q : Seq) : (setSeq s u q).dev.asidTab = s.dev.asidTab := by unfold setSeq; repeat (first | rfl | split)
@[simp] theorem setSeq_dev_win (s : State) (u : SeqId) (q : Seq) : (setSeq s u q).dev.win = s.dev.win := by unfold setSeq; repeat (first | rfl | split)
@[simp] theorem setSeq_dev_tags (s : State) (u : SeqId) (q : Seq) : (setSeq s u q).dev.tags = s.dev.tags := by unfold setSeq; repeat (first | rfl | split)
@[simp] theorem setSeq_dev_nops (s : State) (u : SeqId) (q : Seq) : (setSeq s u q).dev.nops = s.dev.nops := by unfold setSeq; repeat (first | rfl | split)
@[simp] theorem setSeq_dev_peerOut (s : State) (u : SeqId) (q : Seq) : (setSeq s u q).dev.peerOut = s.dev.peerOut := by unfold setSeq; repeat (first | rfl | split)
@[simp] theorem setSeq_dev_reqs (s : State) (u : SeqId) (q : Seq) : (setSeq s u q).dev.reqs = s.dev.reqs := by unfold setSeq; repeat (first | rfl | split)
@[simp] theorem setSeq_dev_nextReq (s : State) (u : SeqId) (q : Seq) : (setSeq s u q).dev.nextReq = s.dev.nextReq := by unfold setSeq; repeat (first | rfl | split)
@[simp] theorem setSeq_dev_moves (s : State) (u : SeqId) (q : Seq) : (setSeq s u q).dev.moves = s.dev.moves := by unfold setSeq; repeat (first | rfl | split)
@[simp] theorem setSeq_dev_appends (s : State) (u : SeqId) (q : Seq) : (setSeq s u q).dev.appends = s.dev.appends := by unfold setSeq; repeat (first | rfl | split)
@[simp] theorem setSeq_dev_qposts (s : State) (u : SeqId) (q : Seq) : (setSeq s u q).dev.qposts = s.dev.qposts := by unfold setSeq; repeat (first | rfl | split)
@[simp] theorem setSeq_dev_nextQid (s : State) (u : SeqId) (q : Seq) : (setSeq s u q).dev.nextQid = s.dev.nextQid := by unfold setSeq; repeat (first | rfl | split)
@[simp] theorem setSeq_dev_claspWait (s : State) (u : SeqId) (q : Seq) : (setSeq s u q).dev.claspWait = s.dev.claspWait := by unfold setSeq; repeat (first | rfl | split)
@[simp] theorem setSeq_dev_rwins (s : State) (u : SeqId) (q : Seq) : (setSeq s u q).dev.rwins = s.dev.rwins := by unfold setSeq; repeat (first | rfl | split)
@[simp] theorem setSeq_dev_pleats (s : State) (u : SeqId) (q : Seq) : (setSeq s u q).dev.pleats = s.dev.pleats := by unfold setSeq; repeat (first | rfl | split)
@[simp] theorem setSeq_dev_queues (s : State) (u : SeqId) (q : Seq) : (setSeq s u q).dev.queues = s.dev.queues := by unfold setSeq; repeat (first | rfl | split)
@[simp] theorem setSeq_dev_launches (s : State) (u : SeqId) (q : Seq) : (setSeq s u q).dev.launches = s.dev.launches := by unfold setSeq; repeat (first | rfl | split)
@[simp] theorem setSeq_dev_nextLaunch (s : State) (u : SeqId) (q : Seq) : (setSeq s u q).dev.nextLaunch = s.dev.nextLaunch := by unfold setSeq; repeat (first | rfl | split)
@[simp] theorem setSeq_dev_ready (s : State) (u : SeqId) (q : Seq) : (setSeq s u q).dev.ready = s.dev.ready := by unfold setSeq; repeat (first | rfl | split)
@[simp] theorem setSeq_dev_saved (s : State) (u : SeqId) (q : Seq) : (setSeq s u q).dev.saved = s.dev.saved := by unfold setSeq; repeat (first | rfl | split)
@[simp] theorem setSeq_dev_lastQ (s : State) (u : SeqId) (q : Seq) : (setSeq s u q).dev.lastQ = s.dev.lastQ := by unfold setSeq; repeat (first | rfl | split)
@[simp] theorem setSeq_dev_rings (s : State) (u : SeqId) (q : Seq) : (setSeq s u q).dev.rings = s.dev.rings := by unfold setSeq; repeat (first | rfl | split)
@[simp] theorem setSeq_dev_passed (s : State) (u : SeqId) (q : Seq) : (setSeq s u q).dev.passed = s.dev.passed := by unfold setSeq; repeat (first | rfl | split)
@[simp] theorem setSeq_dev_rtbase (s : State) (u : SeqId) (q : Seq) : (setSeq s u q).dev.rtbase = s.dev.rtbase := by unfold setSeq; repeat (first | rfl | split)
@[simp] theorem setSeq_dev_asidbase (s : State) (u : SeqId) (q : Seq) : (setSeq s u q).dev.asidbase = s.dev.asidbase := by unfold setSeq; repeat (first | rfl | split)
@[simp] theorem setSeq_dev_sealbase (s : State) (u : SeqId) (q : Seq) : (setSeq s u q).dev.sealbase = s.dev.sealbase := by unfold setSeq; repeat (first | rfl | split)
@[simp] theorem setSeq_dev_sealcmd (s : State) (u : SeqId) (q : Seq) : (setSeq s u q).dev.sealcmd = s.dev.sealcmd := by unfold setSeq; repeat (first | rfl | split)
@[simp] theorem setSeq_dev_tlbinva (s : State) (u : SeqId) (q : Seq) : (setSeq s u q).dev.tlbinva = s.dev.tlbinva := by unfold setSeq; repeat (first | rfl | split)
@[simp] theorem setSeq_dev_tlbinvc (s : State) (u : SeqId) (q : Seq) : (setSeq s u q).dev.tlbinvc = s.dev.tlbinvc := by unfold setSeq; repeat (first | rfl | split)
@[simp] theorem setSeq_dev_tlbPage (s : State) (u : SeqId) (q : Seq) : (setSeq s u q).dev.tlbPage = s.dev.tlbPage := by unfold setSeq; repeat (first | rfl | split)
@[simp] theorem setSeq_dev_miga (s : State) (u : SeqId) (q : Seq) : (setSeq s u q).dev.miga = s.dev.miga := by unfold setSeq; repeat (first | rfl | split)
@[simp] theorem setSeq_dev_migb (s : State) (u : SeqId) (q : Seq) : (setSeq s u q).dev.migb = s.dev.migb := by unfold setSeq; repeat (first | rfl | split)
@[simp] theorem setSeq_dev_migc (s : State) (u : SeqId) (q : Seq) : (setSeq s u q).dev.migc = s.dev.migc := by unfold setSeq; repeat (first | rfl | split)
@[simp] theorem setSeq_dev_swap (s : State) (u : SeqId) (q : Seq) : (setSeq s u q).dev.swap = s.dev.swap := by unfold setSeq; repeat (first | rfl | split)
@[simp] theorem setSeq_dev_herrlog (s : State) (u : SeqId) (q : Seq) : (setSeq s u q).dev.herrlog = s.dev.herrlog := by unfold setSeq; repeat (first | rfl | split)
@[simp] theorem setSeq_dev_fwaddr (s : State) (u : SeqId) (q : Seq) : (setSeq s u q).dev.fwaddr = s.dev.fwaddr := by unfold setSeq; repeat (first | rfl | split)
@[simp] theorem setSeq_dev_fwlen (s : State) (u : SeqId) (q : Seq) : (setSeq s u q).dev.fwlen = s.dev.fwlen := by unfold setSeq; repeat (first | rfl | split)
@[simp] theorem setSeq_dev_fwstat (s : State) (u : SeqId) (q : Seq) : (setSeq s u q).dev.fwstat = s.dev.fwstat := by unfold setSeq; repeat (first | rfl | split)
@[simp] theorem setSeq_dev_rollback (s : State) (u : SeqId) (q : Seq) : (setSeq s u q).dev.rollback = s.dev.rollback := by unfold setSeq; repeat (first | rfl | split)
@[simp] theorem setSeq_dev_fwSvn (s : State) (u : SeqId) (q : Seq) : (setSeq s u q).dev.fwSvn = s.dev.fwSvn := by unfold setSeq; repeat (first | rfl | split)
@[simp] theorem setSeq_dev_fwAdvance (s : State) (u : SeqId) (q : Seq) : (setSeq s u q).dev.fwAdvance = s.dev.fwAdvance := by unfold setSeq; repeat (first | rfl | split)
@[simp] theorem setSeq_dev_fwHash (s : State) (u : SeqId) (q : Seq) : (setSeq s u q).dev.fwHash = s.dev.fwHash := by unfold setSeq; repeat (first | rfl | split)
@[simp] theorem setSeq_dev_powerLost (s : State) (u : SeqId) (q : Seq) : (setSeq s u q).dev.powerLost = s.dev.powerLost := by unfold setSeq; repeat (first | rfl | split)
@[simp] theorem setSeq_dev_elogbase (s : State) (u : SeqId) (q : Seq) : (setSeq s u q).dev.elogbase = s.dev.elogbase := by unfold setSeq; repeat (first | rfl | split)
@[simp] theorem setSeq_dev_eloghead (s : State) (u : SeqId) (q : Seq) : (setSeq s u q).dev.eloghead = s.dev.eloghead := by unfold setSeq; repeat (first | rfl | split)
@[simp] theorem setSeq_dev_elogtail (s : State) (u : SeqId) (q : Seq) : (setSeq s u q).dev.elogtail = s.dev.elogtail := by unfold setSeq; repeat (first | rfl | split)
@[simp] theorem setSeq_dev_elogCount (s : State) (u : SeqId) (q : Seq) : (setSeq s u q).dev.elogCount = s.dev.elogCount := by unfold setSeq; repeat (first | rfl | split)
@[simp] theorem setSeq_dev_pgCount (s : State) (u : SeqId) (q : Seq) : (setSeq s u q).dev.pgCount = s.dev.pgCount := by unfold setSeq; repeat (first | rfl | split)
@[simp] theorem setSeq_dev_seam (s : State) (u : SeqId) (q : Seq) : (setSeq s u q).dev.seam = s.dev.seam := by unfold setSeq; repeat (first | rfl | split)
@[simp] theorem setSeq_dev_ports (s : State) (u : SeqId) (q : Seq) : (setSeq s u q).dev.ports = s.dev.ports := by unfold setSeq; repeat (first | rfl | split)
@[simp] theorem setSeq_dev_routes (s : State) (u : SeqId) (q : Seq) : (setSeq s u q).dev.routes = s.dev.routes := by unfold setSeq; repeat (first | rfl | split)
@[simp] theorem setSeq_dev_lostRanks (s : State) (u : SeqId) (q : Seq) : (setSeq s u q).dev.lostRanks = s.dev.lostRanks := by unfold setSeq; repeat (first | rfl | split)
@[simp] theorem setSeq_dev_iface (s : State) (u : SeqId) (q : Seq) : (setSeq s u q).dev.iface = s.dev.iface := by unfold setSeq; repeat (first | rfl | split)
@[simp] theorem setSeq_dev_teardown (s : State) (u : SeqId) (q : Seq) : (setSeq s u q).dev.teardown = s.dev.teardown := by unfold setSeq; repeat (first | rfl | split)
@[simp] theorem setSeq_dev_ide (s : State) (u : SeqId) (q : Seq) : (setSeq s u q).dev.ide = s.dev.ide := by unfold setSeq; repeat (first | rfl | split)
@[simp] theorem setSeq_dev_xts (s : State) (u : SeqId) (q : Seq) : (setSeq s u q).dev.xts = s.dev.xts := by unfold setSeq; repeat (first | rfl | split)
@[simp] theorem setSeq_dev_xtsDue (s : State) (u : SeqId) (q : Seq) : (setSeq s u q).dev.xtsDue = s.dev.xtsDue := by unfold setSeq; repeat (first | rfl | split)
@[simp] theorem setSeq_dev_nextKey (s : State) (u : SeqId) (q : Seq) : (setSeq s u q).dev.nextKey = s.dev.nextKey := by unfold setSeq; repeat (first | rfl | split)
@[simp] theorem setSeq_dev_farKey (s : State) (u : SeqId) (q : Seq) : (setSeq s u q).dev.farKey = s.dev.farKey := by unfold setSeq; repeat (first | rfl | split)
@[simp] theorem setSeq_dev_bootCount (s : State) (u : SeqId) (q : Seq) : (setSeq s u q).dev.bootCount = s.dev.bootCount := by unfold setSeq; repeat (first | rfl | split)
@[simp] theorem setSeq_dev_spdmLeaf (s : State) (u : SeqId) (q : Seq) : (setSeq s u q).dev.spdmLeaf = s.dev.spdmLeaf := by unfold setSeq; repeat (first | rfl | split)
@[simp] theorem setSeq_dev_retention (s : State) (u : SeqId) (q : Seq) : (setSeq s u q).dev.retention = s.dev.retention := by unfold setSeq; repeat (first | rfl | split)
@[simp] theorem setSeq_dev_hot (s : State) (u : SeqId) (q : Seq) : (setSeq s u q).dev.hot = s.dev.hot := by unfold setSeq; repeat (first | rfl | split)
@[simp] theorem setSeq_dev_spareRows (s : State) (u : SeqId) (q : Seq) : (setSeq s u q).dev.spareRows = s.dev.spareRows := by unfold setSeq; repeat (first | rfl | split)
@[simp] theorem setSeq_dev_cuffOut (s : State) (u : SeqId) (q : Seq) : (setSeq s u q).dev.cuffOut = s.dev.cuffOut := by unfold setSeq; repeat (first | rfl | split)
@[simp] theorem setSeq_dev_columns (s : State) (u : SeqId) (q : Seq) : (setSeq s u q).dev.columns = s.dev.columns := by unfold setSeq; repeat (first | rfl | split)
@[simp] theorem setSeq_dev_sramOut (s : State) (u : SeqId) (q : Seq) : (setSeq s u q).dev.sramOut = s.dev.sramOut := by unfold setSeq; repeat (first | rfl | split)
@[simp] theorem setSeq_dev_throttle (s : State) (u : SeqId) (q : Seq) : (setSeq s u q).dev.throttle = s.dev.throttle := by unfold setSeq; repeat (first | rfl | split)
@[simp] theorem setSeq_dev_outbox (s : State) (u : SeqId) (q : Seq) : (setSeq s u q).dev.outbox = s.dev.outbox := by unfold setSeq; repeat (first | rfl | split)

/-! ### `elog` -/

@[simp] theorem elog_core (s : State) (code : BitVec 10) (outcome place pa : Nat) : (elog s code outcome place pa).core = s.core := by simp only [elog]; split <;> simp only
@[simp] theorem elog_others (s : State) (code : BitVec 10) (outcome place pa : Nat) : (elog s code outcome place pa).others = s.others := by simp only [elog]; split <;> simp only
@[simp] theorem elog_unit (s : State) (code : BitVec 10) (outcome place pa : Nat) : (elog s code outcome place pa).unit = s.unit := by simp only [elog]; split <;> simp only
@[simp] theorem elog_sched (s : State) (code : BitVec 10) (outcome place pa : Nat) : (elog s code outcome place pa).sched = s.sched := by simp only [elog]; split <;> simp only
@[simp] theorem elog_cycle (s : State) (code : BitVec 10) (outcome place pa : Nat) : (elog s code outcome place pa).cycle = s.cycle := by simp only [elog]; split <;> simp only
@[simp] theorem elog_free (s : State) (code : BitVec 10) (outcome place pa : Nat) : (elog s code outcome place pa).free = s.free := by simp only [elog]; split <;> simp only
@[simp] theorem elog_part (s : State) (code : BitVec 10) (outcome place pa : Nat) : (elog s code outcome place pa).part = s.part := by simp only [elog]; split <;> simp only

/-! ### `correctWords` -/

@[simp] theorem correctWords_core (s : State) (ws : List Nat) : (correctWords s ws).core = s.core := by unfold correctWords; induction ws generalizing s with | nil => rfl | cons w ws ih => simp [ih]
@[simp] theorem correctWords_others (s : State) (ws : List Nat) : (correctWords s ws).others = s.others := by unfold correctWords; induction ws generalizing s with | nil => rfl | cons w ws ih => simp [ih]
@[simp] theorem correctWords_unit (s : State) (ws : List Nat) : (correctWords s ws).unit = s.unit := by unfold correctWords; induction ws generalizing s with | nil => rfl | cons w ws ih => simp [ih]
@[simp] theorem correctWords_sched (s : State) (ws : List Nat) : (correctWords s ws).sched = s.sched := by unfold correctWords; induction ws generalizing s with | nil => rfl | cons w ws ih => simp [ih]
@[simp] theorem correctWords_cycle (s : State) (ws : List Nat) : (correctWords s ws).cycle = s.cycle := by unfold correctWords; induction ws generalizing s with | nil => rfl | cons w ws ih => simp [ih]
@[simp] theorem correctWords_free (s : State) (ws : List Nat) : (correctWords s ws).free = s.free := by unfold correctWords; induction ws generalizing s with | nil => rfl | cons w ws ih => simp [ih]
@[simp] theorem correctWords_part (s : State) (ws : List Nat) : (correctWords s ws).part = s.part := by unfold correctWords; induction ws generalizing s with | nil => rfl | cons w ws ih => simp [ih]

/-! ### `raiseFlags` -/

@[simp] theorem raiseFlags_core (s : State) (c : CauseRec) : (raiseFlags s c).core = s.core := by simp [raiseFlags]
@[simp] theorem raiseFlags_others (s : State) (c : CauseRec) : (raiseFlags s c).others = s.others := by simp [raiseFlags]
@[simp] theorem raiseFlags_unit (s : State) (c : CauseRec) : (raiseFlags s c).unit = s.unit := by simp [raiseFlags]
@[simp] theorem raiseFlags_sched (s : State) (c : CauseRec) : (raiseFlags s c).sched = s.sched := by simp [raiseFlags]
@[simp] theorem raiseFlags_cycle (s : State) (c : CauseRec) : (raiseFlags s c).cycle = s.cycle := by simp [raiseFlags]
@[simp] theorem raiseFlags_free (s : State) (c : CauseRec) : (raiseFlags s c).free = s.free := by simp [raiseFlags]
@[simp] theorem raiseFlags_part (s : State) (c : CauseRec) : (raiseFlags s c).part = s.part := by simp [raiseFlags]

/-! ### `State.mark` -/

@[simp] theorem State_mark_core (s : State) (x : Xlat) (dirty : Bool) : (s.mark x dirty).core = s.core := by simp [State.mark]
@[simp] theorem State_mark_others (s : State) (x : Xlat) (dirty : Bool) : (s.mark x dirty).others = s.others := by simp [State.mark]
@[simp] theorem State_mark_unit (s : State) (x : Xlat) (dirty : Bool) : (s.mark x dirty).unit = s.unit := by simp [State.mark]
@[simp] theorem State_mark_sched (s : State) (x : Xlat) (dirty : Bool) : (s.mark x dirty).sched = s.sched := by simp [State.mark]
@[simp] theorem State_mark_cycle (s : State) (x : Xlat) (dirty : Bool) : (s.mark x dirty).cycle = s.cycle := by simp [State.mark]
@[simp] theorem State_mark_free (s : State) (x : Xlat) (dirty : Bool) : (s.mark x dirty).free = s.free := by simp [State.mark]
@[simp] theorem State_mark_part (s : State) (x : Xlat) (dirty : Bool) : (s.mark x dirty).part = s.part := by simp [State.mark]

/-! ### `dropAsks` -/

@[simp] theorem dropAsks_core (s : State) (u : UnitId) : (dropAsks s u).core = s.core := by unfold dropAsks; split <;> rfl
@[simp] theorem dropAsks_others (s : State) (u : UnitId) : (dropAsks s u).others = s.others := by unfold dropAsks; split <;> rfl
@[simp] theorem dropAsks_unit (s : State) (u : UnitId) : (dropAsks s u).unit = s.unit := by unfold dropAsks; split <;> rfl
@[simp] theorem dropAsks_sched (s : State) (u : UnitId) : (dropAsks s u).sched = s.sched := by unfold dropAsks; split <;> rfl
@[simp] theorem dropAsks_cycle (s : State) (u : UnitId) : (dropAsks s u).cycle = s.cycle := by unfold dropAsks; split <;> rfl
@[simp] theorem dropAsks_free (s : State) (u : UnitId) : (dropAsks s u).free = s.free := by unfold dropAsks; split <;> rfl
@[simp] theorem dropAsks_part (s : State) (u : UnitId) : (dropAsks s u).part = s.part := by unfold dropAsks; split <;> rfl

/-! ### `sendAsk` -/

@[simp] theorem sendAsk_core (s : State) (u : UnitId) (r : Nat) (p : PAccess) : (sendAsk s u r p).core = s.core := rfl
@[simp] theorem sendAsk_others (s : State) (u : UnitId) (r : Nat) (p : PAccess) : (sendAsk s u r p).others = s.others := rfl
@[simp] theorem sendAsk_unit (s : State) (u : UnitId) (r : Nat) (p : PAccess) : (sendAsk s u r p).unit = s.unit := rfl
@[simp] theorem sendAsk_sched (s : State) (u : UnitId) (r : Nat) (p : PAccess) : (sendAsk s u r p).sched = s.sched := rfl
@[simp] theorem sendAsk_cycle (s : State) (u : UnitId) (r : Nat) (p : PAccess) : (sendAsk s u r p).cycle = s.cycle := rfl
@[simp] theorem sendAsk_free (s : State) (u : UnitId) (r : Nat) (p : PAccess) : (sendAsk s u r p).free = s.free := rfl
@[simp] theorem sendAsk_part (s : State) (u : UnitId) (r : Nat) (p : PAccess) : (sendAsk s u r p).part = s.part := rfl

/-! ### `semSet` -/

@[simp] theorem semSet_gcore (c : Core) (n : BitVec 8) (v : Nat) : (semSet c n v).gcore = c.gcore := rfl
@[simp] theorem semSet_x (c : Core) (n : BitVec 8) (v : Nat) : (semSet c n v).x = c.x := rfl
@[simp] theorem semSet_pc (c : Core) (n : BitVec 8) (v : Nat) : (semSet c n v).pc = c.pc := rfl
@[simp] theorem semSet_xwait (c : Core) (n : BitVec 8) (v : Nat) : (semSet c n v).xwait = c.xwait := rfl
@[simp] theorem semSet_wfeHit (c : Core) (n : BitVec 8) (v : Nat) : (semSet c n v).wfeHit = c.wfeHit := rfl
@[simp] theorem semSet_twaitLate (c : Core) (n : BitVec 8) (v : Nat) : (semSet c n v).twaitLate = c.twaitLate := rfl
@[simp] theorem semSet_handler (c : Core) (n : BitVec 8) (v : Nat) : (semSet c n v).handler = c.handler := rfl
@[simp] theorem semSet_delivered (c : Core) (n : BitVec 8) (v : Nat) : (semSet c n v).delivered = c.delivered := rfl
@[simp] theorem semSet_fctl (c : Core) (n : BitVec 8) (v : Nat) : (semSet c n v).fctl = c.fctl := rfl
@[simp] theorem semSet_fstat (c : Core) (n : BitVec 8) (v : Nat) : (semSet c n v).fstat = c.fstat := rfl
@[simp] theorem semSet_vfctl (c : Core) (n : BitVec 8) (v : Nat) : (semSet c n v).vfctl = c.vfctl := rfl
@[simp] theorem semSet_vfstat (c : Core) (n : BitVec 8) (v : Nat) : (semSet c n v).vfstat = c.vfstat := rfl
@[simp] theorem semSet_seqno (c : Core) (n : BitVec 8) (v : Nat) : (semSet c n v).seqno = c.seqno := rfl
@[simp] theorem semSet_snapshot (c : Core) (n : BitVec 8) (v : Nat) : (semSet c n v).snapshot = c.snapshot := rfl
@[simp] theorem semSet_txnAid (c : Core) (n : BitVec 8) (v : Nat) : (semSet c n v).txnAid = c.txnAid := rfl
@[simp] theorem semSet_txnDead (c : Core) (n : BitVec 8) (v : Nat) : (semSet c n v).txnDead = c.txnDead := rfl
@[simp] theorem semSet_taskFrame (c : Core) (n : BitVec 8) (v : Nat) : (semSet c n v).taskFrame = c.taskFrame := rfl
@[simp] theorem semSet_regionId (c : Core) (n : BitVec 8) (v : Nat) : (semSet c n v).regionId = c.regionId := rfl
@[simp] theorem semSet_asid (c : Core) (n : BitVec 8) (v : Nat) : (semSet c n v).asid = c.asid := rfl
@[simp] theorem semSet_sealBit (c : Core) (n : BitVec 8) (v : Nat) : (semSet c n v).sealBit = c.sealBit := rfl
@[simp] theorem semSet_trapCause (c : Core) (n : BitVec 8) (v : Nat) : (semSet c n v).trapCause = c.trapCause := rfl
@[simp] theorem semSet_trapPc (c : Core) (n : BitVec 8) (v : Nat) : (semSet c n v).trapPc = c.trapPc := rfl
@[simp] theorem semSet_trapAddr (c : Core) (n : BitVec 8) (v : Nat) : (semSet c n v).trapAddr = c.trapAddr := rfl
@[simp] theorem semSet_trapInfo (c : Core) (n : BitVec 8) (v : Nat) : (semSet c n v).trapInfo = c.trapInfo := rfl
@[simp] theorem semSet_trapVec (c : Core) (n : BitVec 8) (v : Nat) : (semSet c n v).trapVec = c.trapVec := rfl
@[simp] theorem semSet_wdogLimit (c : Core) (n : BitVec 8) (v : Nat) : (semSet c n v).wdogLimit = c.wdogLimit := rfl
@[simp] theorem semSet_ev (c : Core) (n : BitVec 8) (v : Nat) : (semSet c n v).ev = c.ev := rfl
@[simp] theorem semSet_l (c : Core) (n : BitVec 8) (v : Nat) : (semSet c n v).l = c.l := rfl
@[simp] theorem semSet_c (c : Core) (n : BitVec 8) (v : Nat) : (semSet c n v).c = c.c := rfl
@[simp] theorem semSet_s (c : Core) (n : BitVec 8) (v : Nat) : (semSet c n v).s = c.s := rfl
@[simp] theorem semSet_g (c : Core) (n : BitVec 8) (v : Nat) : (semSet c n v).g = c.g := rfl
@[simp] theorem semSet_v (c : Core) (n : BitVec 8) (v : Nat) : (semSet c n v).v = c.v := rfl
@[simp] theorem semSet_p (c : Core) (n : BitVec 8) (v : Nat) : (semSet c n v).p = c.p := rfl
@[simp] theorem semSet_vrb (c : Core) (n : BitVec 8) (v : Nat) : (semSet c n v).vrb = c.vrb := rfl
@[simp] theorem semSet_prb (c : Core) (n : BitVec 8) (v : Nat) : (semSet c n v).prb = c.prb := rfl
@[simp] theorem semSet_lflags (c : Core) (n : BitVec 8) (v : Nat) : (semSet c n v).lflags = c.lflags := rfl
@[simp] theorem semSet_a (c : Core) (n : BitVec 8) (v : Nat) : (semSet c n v).a = c.a := rfl
@[simp] theorem semSet_gp (c : Core) (n : BitVec 8) (v : Nat) : (semSet c n v).gp = c.gp := rfl
@[simp] theorem semSet_wp (c : Core) (n : BitVec 8) (v : Nat) : (semSet c n v).wp = c.wp := rfl
@[simp] theorem semSet_q (c : Core) (n : BitVec 8) (v : Nat) : (semSet c n v).q = c.q := rfl
@[simp] theorem semSet_tok (c : Core) (n : BitVec 8) (v : Nat) : (semSet c n v).tok = c.tok := rfl
@[simp] theorem semSet_semMask (c : Core) (n : BitVec 8) (v : Nat) : (semSet c n v).semMask = c.semMask := rfl
@[simp] theorem semSet_l1 (c : Core) (n : BitVec 8) (v : Nat) : (semSet c n v).l1 = c.l1 := rfl
@[simp] theorem semSet_badL1 (c : Core) (n : BitVec 8) (v : Nat) : (semSet c n v).badL1 = c.badL1 := rfl
@[simp] theorem semSet_code (c : Core) (n : BitVec 8) (v : Nat) : (semSet c n v).code = c.code := rfl
@[simp] theorem semSet_resident (c : Core) (n : BitVec 8) (v : Nat) : (semSet c n v).resident = c.resident := rfl
@[simp] theorem semSet_fetched (c : Core) (n : BitVec 8) (v : Nat) : (semSet c n v).fetched = c.fetched := rfl
@[simp] theorem semSet_badCode (c : Core) (n : BitVec 8) (v : Nat) : (semSet c n v).badCode = c.badCode := rfl
@[simp] theorem semSet_residues (c : Core) (n : BitVec 8) (v : Nat) : (semSet c n v).residues = c.residues := rfl
@[simp] theorem semSet_task (c : Core) (n : BitVec 8) (v : Nat) : (semSet c n v).task = c.task := rfl
@[simp] theorem semSet_saving (c : Core) (n : BitVec 8) (v : Nat) : (semSet c n v).saving = c.saving := rfl
@[simp] theorem semSet_retired (c : Core) (n : BitVec 8) (v : Nat) : (semSet c n v).retired = c.retired := rfl

/-! ### `setTokens` -/

@[simp] theorem setTokens_gcore (c : Core) (k n : Nat) : (setTokens c k n).gcore = c.gcore := by unfold setTokens; split <;> rfl
@[simp] theorem setTokens_x (c : Core) (k n : Nat) : (setTokens c k n).x = c.x := by unfold setTokens; split <;> rfl
@[simp] theorem setTokens_pc (c : Core) (k n : Nat) : (setTokens c k n).pc = c.pc := by unfold setTokens; split <;> rfl
@[simp] theorem setTokens_xwait (c : Core) (k n : Nat) : (setTokens c k n).xwait = c.xwait := by unfold setTokens; split <;> rfl
@[simp] theorem setTokens_wfeHit (c : Core) (k n : Nat) : (setTokens c k n).wfeHit = c.wfeHit := by unfold setTokens; split <;> rfl
@[simp] theorem setTokens_twaitLate (c : Core) (k n : Nat) : (setTokens c k n).twaitLate = c.twaitLate := by unfold setTokens; split <;> rfl
@[simp] theorem setTokens_handler (c : Core) (k n : Nat) : (setTokens c k n).handler = c.handler := by unfold setTokens; split <;> rfl
@[simp] theorem setTokens_delivered (c : Core) (k n : Nat) : (setTokens c k n).delivered = c.delivered := by unfold setTokens; split <;> rfl
@[simp] theorem setTokens_fctl (c : Core) (k n : Nat) : (setTokens c k n).fctl = c.fctl := by unfold setTokens; split <;> rfl
@[simp] theorem setTokens_fstat (c : Core) (k n : Nat) : (setTokens c k n).fstat = c.fstat := by unfold setTokens; split <;> rfl
@[simp] theorem setTokens_vfctl (c : Core) (k n : Nat) : (setTokens c k n).vfctl = c.vfctl := by unfold setTokens; split <;> rfl
@[simp] theorem setTokens_vfstat (c : Core) (k n : Nat) : (setTokens c k n).vfstat = c.vfstat := by unfold setTokens; split <;> rfl
@[simp] theorem setTokens_seqno (c : Core) (k n : Nat) : (setTokens c k n).seqno = c.seqno := by unfold setTokens; split <;> rfl
@[simp] theorem setTokens_snapshot (c : Core) (k n : Nat) : (setTokens c k n).snapshot = c.snapshot := by unfold setTokens; split <;> rfl
@[simp] theorem setTokens_txnAid (c : Core) (k n : Nat) : (setTokens c k n).txnAid = c.txnAid := by unfold setTokens; split <;> rfl
@[simp] theorem setTokens_txnDead (c : Core) (k n : Nat) : (setTokens c k n).txnDead = c.txnDead := by unfold setTokens; split <;> rfl
@[simp] theorem setTokens_taskFrame (c : Core) (k n : Nat) : (setTokens c k n).taskFrame = c.taskFrame := by unfold setTokens; split <;> rfl
@[simp] theorem setTokens_regionId (c : Core) (k n : Nat) : (setTokens c k n).regionId = c.regionId := by unfold setTokens; split <;> rfl
@[simp] theorem setTokens_asid (c : Core) (k n : Nat) : (setTokens c k n).asid = c.asid := by unfold setTokens; split <;> rfl
@[simp] theorem setTokens_sealBit (c : Core) (k n : Nat) : (setTokens c k n).sealBit = c.sealBit := by unfold setTokens; split <;> rfl
@[simp] theorem setTokens_trapCause (c : Core) (k n : Nat) : (setTokens c k n).trapCause = c.trapCause := by unfold setTokens; split <;> rfl
@[simp] theorem setTokens_trapPc (c : Core) (k n : Nat) : (setTokens c k n).trapPc = c.trapPc := by unfold setTokens; split <;> rfl
@[simp] theorem setTokens_trapAddr (c : Core) (k n : Nat) : (setTokens c k n).trapAddr = c.trapAddr := by unfold setTokens; split <;> rfl
@[simp] theorem setTokens_trapInfo (c : Core) (k n : Nat) : (setTokens c k n).trapInfo = c.trapInfo := by unfold setTokens; split <;> rfl
@[simp] theorem setTokens_trapVec (c : Core) (k n : Nat) : (setTokens c k n).trapVec = c.trapVec := by unfold setTokens; split <;> rfl
@[simp] theorem setTokens_wdogLimit (c : Core) (k n : Nat) : (setTokens c k n).wdogLimit = c.wdogLimit := by unfold setTokens; split <;> rfl
@[simp] theorem setTokens_ev (c : Core) (k n : Nat) : (setTokens c k n).ev = c.ev := by unfold setTokens; split <;> rfl
@[simp] theorem setTokens_l (c : Core) (k n : Nat) : (setTokens c k n).l = c.l := by unfold setTokens; split <;> rfl
@[simp] theorem setTokens_c (c : Core) (k n : Nat) : (setTokens c k n).c = c.c := by unfold setTokens; split <;> rfl
@[simp] theorem setTokens_s (c : Core) (k n : Nat) : (setTokens c k n).s = c.s := by unfold setTokens; split <;> rfl
@[simp] theorem setTokens_g (c : Core) (k n : Nat) : (setTokens c k n).g = c.g := by unfold setTokens; split <;> rfl
@[simp] theorem setTokens_v (c : Core) (k n : Nat) : (setTokens c k n).v = c.v := by unfold setTokens; split <;> rfl
@[simp] theorem setTokens_p (c : Core) (k n : Nat) : (setTokens c k n).p = c.p := by unfold setTokens; split <;> rfl
@[simp] theorem setTokens_vrb (c : Core) (k n : Nat) : (setTokens c k n).vrb = c.vrb := by unfold setTokens; split <;> rfl
@[simp] theorem setTokens_prb (c : Core) (k n : Nat) : (setTokens c k n).prb = c.prb := by unfold setTokens; split <;> rfl
@[simp] theorem setTokens_lflags (c : Core) (k n : Nat) : (setTokens c k n).lflags = c.lflags := by unfold setTokens; split <;> rfl
@[simp] theorem setTokens_a (c : Core) (k n : Nat) : (setTokens c k n).a = c.a := by unfold setTokens; split <;> rfl
@[simp] theorem setTokens_gp (c : Core) (k n : Nat) : (setTokens c k n).gp = c.gp := by unfold setTokens; split <;> rfl
@[simp] theorem setTokens_wp (c : Core) (k n : Nat) : (setTokens c k n).wp = c.wp := by unfold setTokens; split <;> rfl
@[simp] theorem setTokens_q (c : Core) (k n : Nat) : (setTokens c k n).q = c.q := by unfold setTokens; split <;> rfl
@[simp] theorem setTokens_sem (c : Core) (k n : Nat) : (setTokens c k n).sem = c.sem := by unfold setTokens; split <;> rfl
@[simp] theorem setTokens_semMask (c : Core) (k n : Nat) : (setTokens c k n).semMask = c.semMask := by unfold setTokens; split <;> rfl
@[simp] theorem setTokens_l1 (c : Core) (k n : Nat) : (setTokens c k n).l1 = c.l1 := by unfold setTokens; split <;> rfl
@[simp] theorem setTokens_badL1 (c : Core) (k n : Nat) : (setTokens c k n).badL1 = c.badL1 := by unfold setTokens; split <;> rfl
@[simp] theorem setTokens_code (c : Core) (k n : Nat) : (setTokens c k n).code = c.code := by unfold setTokens; split <;> rfl
@[simp] theorem setTokens_resident (c : Core) (k n : Nat) : (setTokens c k n).resident = c.resident := by unfold setTokens; split <;> rfl
@[simp] theorem setTokens_fetched (c : Core) (k n : Nat) : (setTokens c k n).fetched = c.fetched := by unfold setTokens; split <;> rfl
@[simp] theorem setTokens_badCode (c : Core) (k n : Nat) : (setTokens c k n).badCode = c.badCode := by unfold setTokens; split <;> rfl
@[simp] theorem setTokens_residues (c : Core) (k n : Nat) : (setTokens c k n).residues = c.residues := by unfold setTokens; split <;> rfl
@[simp] theorem setTokens_task (c : Core) (k n : Nat) : (setTokens c k n).task = c.task := by unfold setTokens; split <;> rfl
@[simp] theorem setTokens_saving (c : Core) (k n : Nat) : (setTokens c k n).saving = c.saving := by unfold setTokens; split <;> rfl
@[simp] theorem setTokens_retired (c : Core) (k n : Nat) : (setTokens c k n).retired = c.retired := by unfold setTokens; split <;> rfl

/-! ### `csetIdx` -/

@[simp] theorem csetIdx_gcore (c : Core) (i : BitVec 4) (v : Word) : (csetIdx c i v).gcore = c.gcore := rfl
@[simp] theorem csetIdx_x (c : Core) (i : BitVec 4) (v : Word) : (csetIdx c i v).x = c.x := rfl
@[simp] theorem csetIdx_pc (c : Core) (i : BitVec 4) (v : Word) : (csetIdx c i v).pc = c.pc := rfl
@[simp] theorem csetIdx_xwait (c : Core) (i : BitVec 4) (v : Word) : (csetIdx c i v).xwait = c.xwait := rfl
@[simp] theorem csetIdx_wfeHit (c : Core) (i : BitVec 4) (v : Word) : (csetIdx c i v).wfeHit = c.wfeHit := rfl
@[simp] theorem csetIdx_twaitLate (c : Core) (i : BitVec 4) (v : Word) : (csetIdx c i v).twaitLate = c.twaitLate := rfl
@[simp] theorem csetIdx_handler (c : Core) (i : BitVec 4) (v : Word) : (csetIdx c i v).handler = c.handler := rfl
@[simp] theorem csetIdx_delivered (c : Core) (i : BitVec 4) (v : Word) : (csetIdx c i v).delivered = c.delivered := rfl
@[simp] theorem csetIdx_fctl (c : Core) (i : BitVec 4) (v : Word) : (csetIdx c i v).fctl = c.fctl := rfl
@[simp] theorem csetIdx_fstat (c : Core) (i : BitVec 4) (v : Word) : (csetIdx c i v).fstat = c.fstat := rfl
@[simp] theorem csetIdx_vfctl (c : Core) (i : BitVec 4) (v : Word) : (csetIdx c i v).vfctl = c.vfctl := rfl
@[simp] theorem csetIdx_vfstat (c : Core) (i : BitVec 4) (v : Word) : (csetIdx c i v).vfstat = c.vfstat := rfl
@[simp] theorem csetIdx_seqno (c : Core) (i : BitVec 4) (v : Word) : (csetIdx c i v).seqno = c.seqno := rfl
@[simp] theorem csetIdx_snapshot (c : Core) (i : BitVec 4) (v : Word) : (csetIdx c i v).snapshot = c.snapshot := rfl
@[simp] theorem csetIdx_txnAid (c : Core) (i : BitVec 4) (v : Word) : (csetIdx c i v).txnAid = c.txnAid := rfl
@[simp] theorem csetIdx_txnDead (c : Core) (i : BitVec 4) (v : Word) : (csetIdx c i v).txnDead = c.txnDead := rfl
@[simp] theorem csetIdx_taskFrame (c : Core) (i : BitVec 4) (v : Word) : (csetIdx c i v).taskFrame = c.taskFrame := rfl
@[simp] theorem csetIdx_regionId (c : Core) (i : BitVec 4) (v : Word) : (csetIdx c i v).regionId = c.regionId := rfl
@[simp] theorem csetIdx_asid (c : Core) (i : BitVec 4) (v : Word) : (csetIdx c i v).asid = c.asid := rfl
@[simp] theorem csetIdx_sealBit (c : Core) (i : BitVec 4) (v : Word) : (csetIdx c i v).sealBit = c.sealBit := rfl
@[simp] theorem csetIdx_trapCause (c : Core) (i : BitVec 4) (v : Word) : (csetIdx c i v).trapCause = c.trapCause := rfl
@[simp] theorem csetIdx_trapPc (c : Core) (i : BitVec 4) (v : Word) : (csetIdx c i v).trapPc = c.trapPc := rfl
@[simp] theorem csetIdx_trapAddr (c : Core) (i : BitVec 4) (v : Word) : (csetIdx c i v).trapAddr = c.trapAddr := rfl
@[simp] theorem csetIdx_trapInfo (c : Core) (i : BitVec 4) (v : Word) : (csetIdx c i v).trapInfo = c.trapInfo := rfl
@[simp] theorem csetIdx_trapVec (c : Core) (i : BitVec 4) (v : Word) : (csetIdx c i v).trapVec = c.trapVec := rfl
@[simp] theorem csetIdx_wdogLimit (c : Core) (i : BitVec 4) (v : Word) : (csetIdx c i v).wdogLimit = c.wdogLimit := rfl
@[simp] theorem csetIdx_ev (c : Core) (i : BitVec 4) (v : Word) : (csetIdx c i v).ev = c.ev := rfl
@[simp] theorem csetIdx_l (c : Core) (i : BitVec 4) (v : Word) : (csetIdx c i v).l = c.l := rfl
@[simp] theorem csetIdx_s (c : Core) (i : BitVec 4) (v : Word) : (csetIdx c i v).s = c.s := rfl
@[simp] theorem csetIdx_g (c : Core) (i : BitVec 4) (v : Word) : (csetIdx c i v).g = c.g := rfl
@[simp] theorem csetIdx_v (c : Core) (i : BitVec 4) (v : Word) : (csetIdx c i v).v = c.v := rfl
@[simp] theorem csetIdx_p (c : Core) (i : BitVec 4) (v : Word) : (csetIdx c i v).p = c.p := rfl
@[simp] theorem csetIdx_vrb (c : Core) (i : BitVec 4) (v : Word) : (csetIdx c i v).vrb = c.vrb := rfl
@[simp] theorem csetIdx_prb (c : Core) (i : BitVec 4) (v : Word) : (csetIdx c i v).prb = c.prb := rfl
@[simp] theorem csetIdx_lflags (c : Core) (i : BitVec 4) (v : Word) : (csetIdx c i v).lflags = c.lflags := rfl
@[simp] theorem csetIdx_a (c : Core) (i : BitVec 4) (v : Word) : (csetIdx c i v).a = c.a := rfl
@[simp] theorem csetIdx_gp (c : Core) (i : BitVec 4) (v : Word) : (csetIdx c i v).gp = c.gp := rfl
@[simp] theorem csetIdx_wp (c : Core) (i : BitVec 4) (v : Word) : (csetIdx c i v).wp = c.wp := rfl
@[simp] theorem csetIdx_q (c : Core) (i : BitVec 4) (v : Word) : (csetIdx c i v).q = c.q := rfl
@[simp] theorem csetIdx_tok (c : Core) (i : BitVec 4) (v : Word) : (csetIdx c i v).tok = c.tok := rfl
@[simp] theorem csetIdx_sem (c : Core) (i : BitVec 4) (v : Word) : (csetIdx c i v).sem = c.sem := rfl
@[simp] theorem csetIdx_semMask (c : Core) (i : BitVec 4) (v : Word) : (csetIdx c i v).semMask = c.semMask := rfl
@[simp] theorem csetIdx_l1 (c : Core) (i : BitVec 4) (v : Word) : (csetIdx c i v).l1 = c.l1 := rfl
@[simp] theorem csetIdx_badL1 (c : Core) (i : BitVec 4) (v : Word) : (csetIdx c i v).badL1 = c.badL1 := rfl
@[simp] theorem csetIdx_code (c : Core) (i : BitVec 4) (v : Word) : (csetIdx c i v).code = c.code := rfl
@[simp] theorem csetIdx_resident (c : Core) (i : BitVec 4) (v : Word) : (csetIdx c i v).resident = c.resident := rfl
@[simp] theorem csetIdx_fetched (c : Core) (i : BitVec 4) (v : Word) : (csetIdx c i v).fetched = c.fetched := rfl
@[simp] theorem csetIdx_badCode (c : Core) (i : BitVec 4) (v : Word) : (csetIdx c i v).badCode = c.badCode := rfl
@[simp] theorem csetIdx_residues (c : Core) (i : BitVec 4) (v : Word) : (csetIdx c i v).residues = c.residues := rfl
@[simp] theorem csetIdx_task (c : Core) (i : BitVec 4) (v : Word) : (csetIdx c i v).task = c.task := rfl
@[simp] theorem csetIdx_saving (c : Core) (i : BitVec 4) (v : Word) : (csetIdx c i v).saving = c.saving := rfl
@[simp] theorem csetIdx_retired (c : Core) (i : BitVec 4) (v : Word) : (csetIdx c i v).retired = c.retired := rfl

/-! ### `pset` -/

@[simp] theorem pset_gcore (c : Core) (n : BitVec 4) (v : Pred) : (pset c n v).gcore = c.gcore := by unfold pset; split <;> rfl
@[simp] theorem pset_x (c : Core) (n : BitVec 4) (v : Pred) : (pset c n v).x = c.x := by unfold pset; split <;> rfl
@[simp] theorem pset_pc (c : Core) (n : BitVec 4) (v : Pred) : (pset c n v).pc = c.pc := by unfold pset; split <;> rfl
@[simp] theorem pset_xwait (c : Core) (n : BitVec 4) (v : Pred) : (pset c n v).xwait = c.xwait := by unfold pset; split <;> rfl
@[simp] theorem pset_wfeHit (c : Core) (n : BitVec 4) (v : Pred) : (pset c n v).wfeHit = c.wfeHit := by unfold pset; split <;> rfl
@[simp] theorem pset_twaitLate (c : Core) (n : BitVec 4) (v : Pred) : (pset c n v).twaitLate = c.twaitLate := by unfold pset; split <;> rfl
@[simp] theorem pset_handler (c : Core) (n : BitVec 4) (v : Pred) : (pset c n v).handler = c.handler := by unfold pset; split <;> rfl
@[simp] theorem pset_delivered (c : Core) (n : BitVec 4) (v : Pred) : (pset c n v).delivered = c.delivered := by unfold pset; split <;> rfl
@[simp] theorem pset_fctl (c : Core) (n : BitVec 4) (v : Pred) : (pset c n v).fctl = c.fctl := by unfold pset; split <;> rfl
@[simp] theorem pset_fstat (c : Core) (n : BitVec 4) (v : Pred) : (pset c n v).fstat = c.fstat := by unfold pset; split <;> rfl
@[simp] theorem pset_vfctl (c : Core) (n : BitVec 4) (v : Pred) : (pset c n v).vfctl = c.vfctl := by unfold pset; split <;> rfl
@[simp] theorem pset_vfstat (c : Core) (n : BitVec 4) (v : Pred) : (pset c n v).vfstat = c.vfstat := by unfold pset; split <;> rfl
@[simp] theorem pset_seqno (c : Core) (n : BitVec 4) (v : Pred) : (pset c n v).seqno = c.seqno := by unfold pset; split <;> rfl
@[simp] theorem pset_snapshot (c : Core) (n : BitVec 4) (v : Pred) : (pset c n v).snapshot = c.snapshot := by unfold pset; split <;> rfl
@[simp] theorem pset_txnAid (c : Core) (n : BitVec 4) (v : Pred) : (pset c n v).txnAid = c.txnAid := by unfold pset; split <;> rfl
@[simp] theorem pset_txnDead (c : Core) (n : BitVec 4) (v : Pred) : (pset c n v).txnDead = c.txnDead := by unfold pset; split <;> rfl
@[simp] theorem pset_taskFrame (c : Core) (n : BitVec 4) (v : Pred) : (pset c n v).taskFrame = c.taskFrame := by unfold pset; split <;> rfl
@[simp] theorem pset_regionId (c : Core) (n : BitVec 4) (v : Pred) : (pset c n v).regionId = c.regionId := by unfold pset; split <;> rfl
@[simp] theorem pset_asid (c : Core) (n : BitVec 4) (v : Pred) : (pset c n v).asid = c.asid := by unfold pset; split <;> rfl
@[simp] theorem pset_sealBit (c : Core) (n : BitVec 4) (v : Pred) : (pset c n v).sealBit = c.sealBit := by unfold pset; split <;> rfl
@[simp] theorem pset_trapCause (c : Core) (n : BitVec 4) (v : Pred) : (pset c n v).trapCause = c.trapCause := by unfold pset; split <;> rfl
@[simp] theorem pset_trapPc (c : Core) (n : BitVec 4) (v : Pred) : (pset c n v).trapPc = c.trapPc := by unfold pset; split <;> rfl
@[simp] theorem pset_trapAddr (c : Core) (n : BitVec 4) (v : Pred) : (pset c n v).trapAddr = c.trapAddr := by unfold pset; split <;> rfl
@[simp] theorem pset_trapInfo (c : Core) (n : BitVec 4) (v : Pred) : (pset c n v).trapInfo = c.trapInfo := by unfold pset; split <;> rfl
@[simp] theorem pset_trapVec (c : Core) (n : BitVec 4) (v : Pred) : (pset c n v).trapVec = c.trapVec := by unfold pset; split <;> rfl
@[simp] theorem pset_wdogLimit (c : Core) (n : BitVec 4) (v : Pred) : (pset c n v).wdogLimit = c.wdogLimit := by unfold pset; split <;> rfl
@[simp] theorem pset_ev (c : Core) (n : BitVec 4) (v : Pred) : (pset c n v).ev = c.ev := by unfold pset; split <;> rfl
@[simp] theorem pset_l (c : Core) (n : BitVec 4) (v : Pred) : (pset c n v).l = c.l := by unfold pset; split <;> rfl
@[simp] theorem pset_c (c : Core) (n : BitVec 4) (v : Pred) : (pset c n v).c = c.c := by unfold pset; split <;> rfl
@[simp] theorem pset_s (c : Core) (n : BitVec 4) (v : Pred) : (pset c n v).s = c.s := by unfold pset; split <;> rfl
@[simp] theorem pset_g (c : Core) (n : BitVec 4) (v : Pred) : (pset c n v).g = c.g := by unfold pset; split <;> rfl
@[simp] theorem pset_v (c : Core) (n : BitVec 4) (v : Pred) : (pset c n v).v = c.v := by unfold pset; split <;> rfl
@[simp] theorem pset_vrb (c : Core) (n : BitVec 4) (v : Pred) : (pset c n v).vrb = c.vrb := by unfold pset; split <;> rfl
@[simp] theorem pset_prb (c : Core) (n : BitVec 4) (v : Pred) : (pset c n v).prb = c.prb := by unfold pset; split <;> rfl
@[simp] theorem pset_lflags (c : Core) (n : BitVec 4) (v : Pred) : (pset c n v).lflags = c.lflags := by unfold pset; split <;> rfl
@[simp] theorem pset_a (c : Core) (n : BitVec 4) (v : Pred) : (pset c n v).a = c.a := by unfold pset; split <;> rfl
@[simp] theorem pset_gp (c : Core) (n : BitVec 4) (v : Pred) : (pset c n v).gp = c.gp := by unfold pset; split <;> rfl
@[simp] theorem pset_wp (c : Core) (n : BitVec 4) (v : Pred) : (pset c n v).wp = c.wp := by unfold pset; split <;> rfl
@[simp] theorem pset_q (c : Core) (n : BitVec 4) (v : Pred) : (pset c n v).q = c.q := by unfold pset; split <;> rfl
@[simp] theorem pset_tok (c : Core) (n : BitVec 4) (v : Pred) : (pset c n v).tok = c.tok := by unfold pset; split <;> rfl
@[simp] theorem pset_sem (c : Core) (n : BitVec 4) (v : Pred) : (pset c n v).sem = c.sem := by unfold pset; split <;> rfl
@[simp] theorem pset_semMask (c : Core) (n : BitVec 4) (v : Pred) : (pset c n v).semMask = c.semMask := by unfold pset; split <;> rfl
@[simp] theorem pset_l1 (c : Core) (n : BitVec 4) (v : Pred) : (pset c n v).l1 = c.l1 := by unfold pset; split <;> rfl
@[simp] theorem pset_badL1 (c : Core) (n : BitVec 4) (v : Pred) : (pset c n v).badL1 = c.badL1 := by unfold pset; split <;> rfl
@[simp] theorem pset_code (c : Core) (n : BitVec 4) (v : Pred) : (pset c n v).code = c.code := by unfold pset; split <;> rfl
@[simp] theorem pset_resident (c : Core) (n : BitVec 4) (v : Pred) : (pset c n v).resident = c.resident := by unfold pset; split <;> rfl
@[simp] theorem pset_fetched (c : Core) (n : BitVec 4) (v : Pred) : (pset c n v).fetched = c.fetched := by unfold pset; split <;> rfl
@[simp] theorem pset_badCode (c : Core) (n : BitVec 4) (v : Pred) : (pset c n v).badCode = c.badCode := by unfold pset; split <;> rfl
@[simp] theorem pset_residues (c : Core) (n : BitVec 4) (v : Pred) : (pset c n v).residues = c.residues := by unfold pset; split <;> rfl
@[simp] theorem pset_task (c : Core) (n : BitVec 4) (v : Pred) : (pset c n v).task = c.task := by unfold pset; split <;> rfl
@[simp] theorem pset_saving (c : Core) (n : BitVec 4) (v : Pred) : (pset c n v).saving = c.saving := by unfold pset; split <;> rfl
@[simp] theorem pset_retired (c : Core) (n : BitVec 4) (v : Pred) : (pset c n v).retired = c.retired := by unfold pset; split <;> rfl

/-! ### `gsetReg` -/

@[simp] theorem gsetReg_gcore (c : Core) (n : BitVec 4) (r : StreamReg) : (gsetReg c n r).gcore = c.gcore := rfl
@[simp] theorem gsetReg_x (c : Core) (n : BitVec 4) (r : StreamReg) : (gsetReg c n r).x = c.x := rfl
@[simp] theorem gsetReg_pc (c : Core) (n : BitVec 4) (r : StreamReg) : (gsetReg c n r).pc = c.pc := rfl
@[simp] theorem gsetReg_xwait (c : Core) (n : BitVec 4) (r : StreamReg) : (gsetReg c n r).xwait = c.xwait := rfl
@[simp] theorem gsetReg_wfeHit (c : Core) (n : BitVec 4) (r : StreamReg) : (gsetReg c n r).wfeHit = c.wfeHit := rfl
@[simp] theorem gsetReg_twaitLate (c : Core) (n : BitVec 4) (r : StreamReg) : (gsetReg c n r).twaitLate = c.twaitLate := rfl
@[simp] theorem gsetReg_handler (c : Core) (n : BitVec 4) (r : StreamReg) : (gsetReg c n r).handler = c.handler := rfl
@[simp] theorem gsetReg_delivered (c : Core) (n : BitVec 4) (r : StreamReg) : (gsetReg c n r).delivered = c.delivered := rfl
@[simp] theorem gsetReg_fctl (c : Core) (n : BitVec 4) (r : StreamReg) : (gsetReg c n r).fctl = c.fctl := rfl
@[simp] theorem gsetReg_fstat (c : Core) (n : BitVec 4) (r : StreamReg) : (gsetReg c n r).fstat = c.fstat := rfl
@[simp] theorem gsetReg_vfctl (c : Core) (n : BitVec 4) (r : StreamReg) : (gsetReg c n r).vfctl = c.vfctl := rfl
@[simp] theorem gsetReg_vfstat (c : Core) (n : BitVec 4) (r : StreamReg) : (gsetReg c n r).vfstat = c.vfstat := rfl
@[simp] theorem gsetReg_seqno (c : Core) (n : BitVec 4) (r : StreamReg) : (gsetReg c n r).seqno = c.seqno := rfl
@[simp] theorem gsetReg_snapshot (c : Core) (n : BitVec 4) (r : StreamReg) : (gsetReg c n r).snapshot = c.snapshot := rfl
@[simp] theorem gsetReg_txnAid (c : Core) (n : BitVec 4) (r : StreamReg) : (gsetReg c n r).txnAid = c.txnAid := rfl
@[simp] theorem gsetReg_txnDead (c : Core) (n : BitVec 4) (r : StreamReg) : (gsetReg c n r).txnDead = c.txnDead := rfl
@[simp] theorem gsetReg_taskFrame (c : Core) (n : BitVec 4) (r : StreamReg) : (gsetReg c n r).taskFrame = c.taskFrame := rfl
@[simp] theorem gsetReg_regionId (c : Core) (n : BitVec 4) (r : StreamReg) : (gsetReg c n r).regionId = c.regionId := rfl
@[simp] theorem gsetReg_asid (c : Core) (n : BitVec 4) (r : StreamReg) : (gsetReg c n r).asid = c.asid := rfl
@[simp] theorem gsetReg_sealBit (c : Core) (n : BitVec 4) (r : StreamReg) : (gsetReg c n r).sealBit = c.sealBit := rfl
@[simp] theorem gsetReg_trapCause (c : Core) (n : BitVec 4) (r : StreamReg) : (gsetReg c n r).trapCause = c.trapCause := rfl
@[simp] theorem gsetReg_trapPc (c : Core) (n : BitVec 4) (r : StreamReg) : (gsetReg c n r).trapPc = c.trapPc := rfl
@[simp] theorem gsetReg_trapAddr (c : Core) (n : BitVec 4) (r : StreamReg) : (gsetReg c n r).trapAddr = c.trapAddr := rfl
@[simp] theorem gsetReg_trapInfo (c : Core) (n : BitVec 4) (r : StreamReg) : (gsetReg c n r).trapInfo = c.trapInfo := rfl
@[simp] theorem gsetReg_trapVec (c : Core) (n : BitVec 4) (r : StreamReg) : (gsetReg c n r).trapVec = c.trapVec := rfl
@[simp] theorem gsetReg_wdogLimit (c : Core) (n : BitVec 4) (r : StreamReg) : (gsetReg c n r).wdogLimit = c.wdogLimit := rfl
@[simp] theorem gsetReg_ev (c : Core) (n : BitVec 4) (r : StreamReg) : (gsetReg c n r).ev = c.ev := rfl
@[simp] theorem gsetReg_l (c : Core) (n : BitVec 4) (r : StreamReg) : (gsetReg c n r).l = c.l := rfl
@[simp] theorem gsetReg_c (c : Core) (n : BitVec 4) (r : StreamReg) : (gsetReg c n r).c = c.c := rfl
@[simp] theorem gsetReg_s (c : Core) (n : BitVec 4) (r : StreamReg) : (gsetReg c n r).s = c.s := rfl
@[simp] theorem gsetReg_v (c : Core) (n : BitVec 4) (r : StreamReg) : (gsetReg c n r).v = c.v := rfl
@[simp] theorem gsetReg_p (c : Core) (n : BitVec 4) (r : StreamReg) : (gsetReg c n r).p = c.p := rfl
@[simp] theorem gsetReg_vrb (c : Core) (n : BitVec 4) (r : StreamReg) : (gsetReg c n r).vrb = c.vrb := rfl
@[simp] theorem gsetReg_prb (c : Core) (n : BitVec 4) (r : StreamReg) : (gsetReg c n r).prb = c.prb := rfl
@[simp] theorem gsetReg_lflags (c : Core) (n : BitVec 4) (r : StreamReg) : (gsetReg c n r).lflags = c.lflags := rfl
@[simp] theorem gsetReg_a (c : Core) (n : BitVec 4) (r : StreamReg) : (gsetReg c n r).a = c.a := rfl
@[simp] theorem gsetReg_gp (c : Core) (n : BitVec 4) (r : StreamReg) : (gsetReg c n r).gp = c.gp := rfl
@[simp] theorem gsetReg_wp (c : Core) (n : BitVec 4) (r : StreamReg) : (gsetReg c n r).wp = c.wp := rfl
@[simp] theorem gsetReg_q (c : Core) (n : BitVec 4) (r : StreamReg) : (gsetReg c n r).q = c.q := rfl
@[simp] theorem gsetReg_tok (c : Core) (n : BitVec 4) (r : StreamReg) : (gsetReg c n r).tok = c.tok := rfl
@[simp] theorem gsetReg_sem (c : Core) (n : BitVec 4) (r : StreamReg) : (gsetReg c n r).sem = c.sem := rfl
@[simp] theorem gsetReg_semMask (c : Core) (n : BitVec 4) (r : StreamReg) : (gsetReg c n r).semMask = c.semMask := rfl
@[simp] theorem gsetReg_l1 (c : Core) (n : BitVec 4) (r : StreamReg) : (gsetReg c n r).l1 = c.l1 := rfl
@[simp] theorem gsetReg_badL1 (c : Core) (n : BitVec 4) (r : StreamReg) : (gsetReg c n r).badL1 = c.badL1 := rfl
@[simp] theorem gsetReg_code (c : Core) (n : BitVec 4) (r : StreamReg) : (gsetReg c n r).code = c.code := rfl
@[simp] theorem gsetReg_resident (c : Core) (n : BitVec 4) (r : StreamReg) : (gsetReg c n r).resident = c.resident := rfl
@[simp] theorem gsetReg_fetched (c : Core) (n : BitVec 4) (r : StreamReg) : (gsetReg c n r).fetched = c.fetched := rfl
@[simp] theorem gsetReg_badCode (c : Core) (n : BitVec 4) (r : StreamReg) : (gsetReg c n r).badCode = c.badCode := rfl
@[simp] theorem gsetReg_residues (c : Core) (n : BitVec 4) (r : StreamReg) : (gsetReg c n r).residues = c.residues := rfl
@[simp] theorem gsetReg_task (c : Core) (n : BitVec 4) (r : StreamReg) : (gsetReg c n r).task = c.task := rfl
@[simp] theorem gsetReg_saving (c : Core) (n : BitVec 4) (r : StreamReg) : (gsetReg c n r).saving = c.saving := rfl
@[simp] theorem gsetReg_retired (c : Core) (n : BitVec 4) (r : StreamReg) : (gsetReg c n r).retired = c.retired := rfl

/-! ### `qsetReg` -/

@[simp] theorem qsetReg_gcore (c : Core) (n : BitVec 3) (r : RQueue) : (qsetReg c n r).gcore = c.gcore := rfl
@[simp] theorem qsetReg_x (c : Core) (n : BitVec 3) (r : RQueue) : (qsetReg c n r).x = c.x := rfl
@[simp] theorem qsetReg_pc (c : Core) (n : BitVec 3) (r : RQueue) : (qsetReg c n r).pc = c.pc := rfl
@[simp] theorem qsetReg_xwait (c : Core) (n : BitVec 3) (r : RQueue) : (qsetReg c n r).xwait = c.xwait := rfl
@[simp] theorem qsetReg_wfeHit (c : Core) (n : BitVec 3) (r : RQueue) : (qsetReg c n r).wfeHit = c.wfeHit := rfl
@[simp] theorem qsetReg_twaitLate (c : Core) (n : BitVec 3) (r : RQueue) : (qsetReg c n r).twaitLate = c.twaitLate := rfl
@[simp] theorem qsetReg_handler (c : Core) (n : BitVec 3) (r : RQueue) : (qsetReg c n r).handler = c.handler := rfl
@[simp] theorem qsetReg_delivered (c : Core) (n : BitVec 3) (r : RQueue) : (qsetReg c n r).delivered = c.delivered := rfl
@[simp] theorem qsetReg_fctl (c : Core) (n : BitVec 3) (r : RQueue) : (qsetReg c n r).fctl = c.fctl := rfl
@[simp] theorem qsetReg_fstat (c : Core) (n : BitVec 3) (r : RQueue) : (qsetReg c n r).fstat = c.fstat := rfl
@[simp] theorem qsetReg_vfctl (c : Core) (n : BitVec 3) (r : RQueue) : (qsetReg c n r).vfctl = c.vfctl := rfl
@[simp] theorem qsetReg_vfstat (c : Core) (n : BitVec 3) (r : RQueue) : (qsetReg c n r).vfstat = c.vfstat := rfl
@[simp] theorem qsetReg_seqno (c : Core) (n : BitVec 3) (r : RQueue) : (qsetReg c n r).seqno = c.seqno := rfl
@[simp] theorem qsetReg_snapshot (c : Core) (n : BitVec 3) (r : RQueue) : (qsetReg c n r).snapshot = c.snapshot := rfl
@[simp] theorem qsetReg_txnAid (c : Core) (n : BitVec 3) (r : RQueue) : (qsetReg c n r).txnAid = c.txnAid := rfl
@[simp] theorem qsetReg_txnDead (c : Core) (n : BitVec 3) (r : RQueue) : (qsetReg c n r).txnDead = c.txnDead := rfl
@[simp] theorem qsetReg_taskFrame (c : Core) (n : BitVec 3) (r : RQueue) : (qsetReg c n r).taskFrame = c.taskFrame := rfl
@[simp] theorem qsetReg_regionId (c : Core) (n : BitVec 3) (r : RQueue) : (qsetReg c n r).regionId = c.regionId := rfl
@[simp] theorem qsetReg_asid (c : Core) (n : BitVec 3) (r : RQueue) : (qsetReg c n r).asid = c.asid := rfl
@[simp] theorem qsetReg_sealBit (c : Core) (n : BitVec 3) (r : RQueue) : (qsetReg c n r).sealBit = c.sealBit := rfl
@[simp] theorem qsetReg_trapCause (c : Core) (n : BitVec 3) (r : RQueue) : (qsetReg c n r).trapCause = c.trapCause := rfl
@[simp] theorem qsetReg_trapPc (c : Core) (n : BitVec 3) (r : RQueue) : (qsetReg c n r).trapPc = c.trapPc := rfl
@[simp] theorem qsetReg_trapAddr (c : Core) (n : BitVec 3) (r : RQueue) : (qsetReg c n r).trapAddr = c.trapAddr := rfl
@[simp] theorem qsetReg_trapInfo (c : Core) (n : BitVec 3) (r : RQueue) : (qsetReg c n r).trapInfo = c.trapInfo := rfl
@[simp] theorem qsetReg_trapVec (c : Core) (n : BitVec 3) (r : RQueue) : (qsetReg c n r).trapVec = c.trapVec := rfl
@[simp] theorem qsetReg_wdogLimit (c : Core) (n : BitVec 3) (r : RQueue) : (qsetReg c n r).wdogLimit = c.wdogLimit := rfl
@[simp] theorem qsetReg_ev (c : Core) (n : BitVec 3) (r : RQueue) : (qsetReg c n r).ev = c.ev := rfl
@[simp] theorem qsetReg_l (c : Core) (n : BitVec 3) (r : RQueue) : (qsetReg c n r).l = c.l := rfl
@[simp] theorem qsetReg_c (c : Core) (n : BitVec 3) (r : RQueue) : (qsetReg c n r).c = c.c := rfl
@[simp] theorem qsetReg_s (c : Core) (n : BitVec 3) (r : RQueue) : (qsetReg c n r).s = c.s := rfl
@[simp] theorem qsetReg_g (c : Core) (n : BitVec 3) (r : RQueue) : (qsetReg c n r).g = c.g := rfl
@[simp] theorem qsetReg_v (c : Core) (n : BitVec 3) (r : RQueue) : (qsetReg c n r).v = c.v := rfl
@[simp] theorem qsetReg_p (c : Core) (n : BitVec 3) (r : RQueue) : (qsetReg c n r).p = c.p := rfl
@[simp] theorem qsetReg_vrb (c : Core) (n : BitVec 3) (r : RQueue) : (qsetReg c n r).vrb = c.vrb := rfl
@[simp] theorem qsetReg_prb (c : Core) (n : BitVec 3) (r : RQueue) : (qsetReg c n r).prb = c.prb := rfl
@[simp] theorem qsetReg_lflags (c : Core) (n : BitVec 3) (r : RQueue) : (qsetReg c n r).lflags = c.lflags := rfl
@[simp] theorem qsetReg_a (c : Core) (n : BitVec 3) (r : RQueue) : (qsetReg c n r).a = c.a := rfl
@[simp] theorem qsetReg_gp (c : Core) (n : BitVec 3) (r : RQueue) : (qsetReg c n r).gp = c.gp := rfl
@[simp] theorem qsetReg_wp (c : Core) (n : BitVec 3) (r : RQueue) : (qsetReg c n r).wp = c.wp := rfl
@[simp] theorem qsetReg_tok (c : Core) (n : BitVec 3) (r : RQueue) : (qsetReg c n r).tok = c.tok := rfl
@[simp] theorem qsetReg_sem (c : Core) (n : BitVec 3) (r : RQueue) : (qsetReg c n r).sem = c.sem := rfl
@[simp] theorem qsetReg_semMask (c : Core) (n : BitVec 3) (r : RQueue) : (qsetReg c n r).semMask = c.semMask := rfl
@[simp] theorem qsetReg_l1 (c : Core) (n : BitVec 3) (r : RQueue) : (qsetReg c n r).l1 = c.l1 := rfl
@[simp] theorem qsetReg_badL1 (c : Core) (n : BitVec 3) (r : RQueue) : (qsetReg c n r).badL1 = c.badL1 := rfl
@[simp] theorem qsetReg_code (c : Core) (n : BitVec 3) (r : RQueue) : (qsetReg c n r).code = c.code := rfl
@[simp] theorem qsetReg_resident (c : Core) (n : BitVec 3) (r : RQueue) : (qsetReg c n r).resident = c.resident := rfl
@[simp] theorem qsetReg_fetched (c : Core) (n : BitVec 3) (r : RQueue) : (qsetReg c n r).fetched = c.fetched := rfl
@[simp] theorem qsetReg_badCode (c : Core) (n : BitVec 3) (r : RQueue) : (qsetReg c n r).badCode = c.badCode := rfl
@[simp] theorem qsetReg_residues (c : Core) (n : BitVec 3) (r : RQueue) : (qsetReg c n r).residues = c.residues := rfl
@[simp] theorem qsetReg_task (c : Core) (n : BitVec 3) (r : RQueue) : (qsetReg c n r).task = c.task := rfl
@[simp] theorem qsetReg_saving (c : Core) (n : BitVec 3) (r : RQueue) : (qsetReg c n r).saving = c.saving := rfl
@[simp] theorem qsetReg_retired (c : Core) (n : BitVec 3) (r : RQueue) : (qsetReg c n r).retired = c.retired := rfl

/-! ### `putSeam` -/

@[simp] theorem putSeam_hbm (d : Dev) (m : Seam) : (putSeam d m).hbm = d.hbm := rfl
@[simp] theorem putSeam_l2 (d : Dev) (m : Seam) : (putSeam d m).l2 = d.l2 := rfl
@[simp] theorem putSeam_farPort (d : Dev) (m : Seam) : (putSeam d m).farPort = d.farPort := rfl
@[simp] theorem putSeam_far (d : Dev) (m : Seam) : (putSeam d m).far = d.far := rfl
@[simp] theorem putSeam_badWords (d : Dev) (m : Seam) : (putSeam d m).badWords = d.badWords := rfl
@[simp] theorem putSeam_softWords (d : Dev) (m : Seam) : (putSeam d m).softWords = d.softWords := rfl
@[simp] theorem putSeam_badL2 (d : Dev) (m : Seam) : (putSeam d m).badL2 = d.badL2 := rfl
@[simp] theorem putSeam_badWin (d : Dev) (m : Seam) : (putSeam d m).badWin = d.badWin := rfl
@[simp] theorem putSeam_tlb (d : Dev) (m : Seam) : (putSeam d m).tlb = d.tlb := rfl
@[simp] theorem putSeam_asidTab (d : Dev) (m : Seam) : (putSeam d m).asidTab = d.asidTab := rfl
@[simp] theorem putSeam_win (d : Dev) (m : Seam) : (putSeam d m).win = d.win := rfl
@[simp] theorem putSeam_tags (d : Dev) (m : Seam) : (putSeam d m).tags = d.tags := rfl
@[simp] theorem putSeam_ce (d : Dev) (m : Seam) : (putSeam d m).ce = d.ce := rfl
@[simp] theorem putSeam_nops (d : Dev) (m : Seam) : (putSeam d m).nops = d.nops := rfl
@[simp] theorem putSeam_peerOut (d : Dev) (m : Seam) : (putSeam d m).peerOut = d.peerOut := rfl
@[simp] theorem putSeam_reqs (d : Dev) (m : Seam) : (putSeam d m).reqs = d.reqs := rfl
@[simp] theorem putSeam_nextReq (d : Dev) (m : Seam) : (putSeam d m).nextReq = d.nextReq := rfl
@[simp] theorem putSeam_moves (d : Dev) (m : Seam) : (putSeam d m).moves = d.moves := rfl
@[simp] theorem putSeam_appends (d : Dev) (m : Seam) : (putSeam d m).appends = d.appends := rfl
@[simp] theorem putSeam_qposts (d : Dev) (m : Seam) : (putSeam d m).qposts = d.qposts := rfl
@[simp] theorem putSeam_nextQid (d : Dev) (m : Seam) : (putSeam d m).nextQid = d.nextQid := rfl
@[simp] theorem putSeam_claspWait (d : Dev) (m : Seam) : (putSeam d m).claspWait = d.claspWait := rfl
@[simp] theorem putSeam_rwins (d : Dev) (m : Seam) : (putSeam d m).rwins = d.rwins := rfl
@[simp] theorem putSeam_pleats (d : Dev) (m : Seam) : (putSeam d m).pleats = d.pleats := rfl
@[simp] theorem putSeam_queues (d : Dev) (m : Seam) : (putSeam d m).queues = d.queues := rfl
@[simp] theorem putSeam_launches (d : Dev) (m : Seam) : (putSeam d m).launches = d.launches := rfl
@[simp] theorem putSeam_nextLaunch (d : Dev) (m : Seam) : (putSeam d m).nextLaunch = d.nextLaunch := rfl
@[simp] theorem putSeam_ready (d : Dev) (m : Seam) : (putSeam d m).ready = d.ready := rfl
@[simp] theorem putSeam_saved (d : Dev) (m : Seam) : (putSeam d m).saved = d.saved := rfl
@[simp] theorem putSeam_lastQ (d : Dev) (m : Seam) : (putSeam d m).lastQ = d.lastQ := rfl
@[simp] theorem putSeam_rings (d : Dev) (m : Seam) : (putSeam d m).rings = d.rings := rfl
@[simp] theorem putSeam_passed (d : Dev) (m : Seam) : (putSeam d m).passed = d.passed := rfl
@[simp] theorem putSeam_rtbase (d : Dev) (m : Seam) : (putSeam d m).rtbase = d.rtbase := rfl
@[simp] theorem putSeam_asidbase (d : Dev) (m : Seam) : (putSeam d m).asidbase = d.asidbase := rfl
@[simp] theorem putSeam_sealbase (d : Dev) (m : Seam) : (putSeam d m).sealbase = d.sealbase := rfl
@[simp] theorem putSeam_sealcmd (d : Dev) (m : Seam) : (putSeam d m).sealcmd = d.sealcmd := rfl
@[simp] theorem putSeam_tlbinva (d : Dev) (m : Seam) : (putSeam d m).tlbinva = d.tlbinva := rfl
@[simp] theorem putSeam_tlbinvc (d : Dev) (m : Seam) : (putSeam d m).tlbinvc = d.tlbinvc := rfl
@[simp] theorem putSeam_tlbPage (d : Dev) (m : Seam) : (putSeam d m).tlbPage = d.tlbPage := rfl
@[simp] theorem putSeam_miga (d : Dev) (m : Seam) : (putSeam d m).miga = d.miga := rfl
@[simp] theorem putSeam_migb (d : Dev) (m : Seam) : (putSeam d m).migb = d.migb := rfl
@[simp] theorem putSeam_migc (d : Dev) (m : Seam) : (putSeam d m).migc = d.migc := rfl
@[simp] theorem putSeam_swap (d : Dev) (m : Seam) : (putSeam d m).swap = d.swap := rfl
@[simp] theorem putSeam_herrlog (d : Dev) (m : Seam) : (putSeam d m).herrlog = d.herrlog := rfl
@[simp] theorem putSeam_fwaddr (d : Dev) (m : Seam) : (putSeam d m).fwaddr = d.fwaddr := rfl
@[simp] theorem putSeam_fwlen (d : Dev) (m : Seam) : (putSeam d m).fwlen = d.fwlen := rfl
@[simp] theorem putSeam_fwstat (d : Dev) (m : Seam) : (putSeam d m).fwstat = d.fwstat := rfl
@[simp] theorem putSeam_rollback (d : Dev) (m : Seam) : (putSeam d m).rollback = d.rollback := rfl
@[simp] theorem putSeam_fwSvn (d : Dev) (m : Seam) : (putSeam d m).fwSvn = d.fwSvn := rfl
@[simp] theorem putSeam_fwAdvance (d : Dev) (m : Seam) : (putSeam d m).fwAdvance = d.fwAdvance := rfl
@[simp] theorem putSeam_fwHash (d : Dev) (m : Seam) : (putSeam d m).fwHash = d.fwHash := rfl
@[simp] theorem putSeam_powerLost (d : Dev) (m : Seam) : (putSeam d m).powerLost = d.powerLost := rfl
@[simp] theorem putSeam_elogbase (d : Dev) (m : Seam) : (putSeam d m).elogbase = d.elogbase := rfl
@[simp] theorem putSeam_eloghead (d : Dev) (m : Seam) : (putSeam d m).eloghead = d.eloghead := rfl
@[simp] theorem putSeam_elogtail (d : Dev) (m : Seam) : (putSeam d m).elogtail = d.elogtail := rfl
@[simp] theorem putSeam_elogCount (d : Dev) (m : Seam) : (putSeam d m).elogCount = d.elogCount := rfl
@[simp] theorem putSeam_pgCount (d : Dev) (m : Seam) : (putSeam d m).pgCount = d.pgCount := rfl
@[simp] theorem putSeam_ports (d : Dev) (m : Seam) : (putSeam d m).ports = d.ports := rfl
@[simp] theorem putSeam_routes (d : Dev) (m : Seam) : (putSeam d m).routes = d.routes := rfl
@[simp] theorem putSeam_lostRanks (d : Dev) (m : Seam) : (putSeam d m).lostRanks = d.lostRanks := rfl
@[simp] theorem putSeam_iface (d : Dev) (m : Seam) : (putSeam d m).iface = d.iface := rfl
@[simp] theorem putSeam_teardown (d : Dev) (m : Seam) : (putSeam d m).teardown = d.teardown := rfl
@[simp] theorem putSeam_ide (d : Dev) (m : Seam) : (putSeam d m).ide = d.ide := rfl
@[simp] theorem putSeam_xts (d : Dev) (m : Seam) : (putSeam d m).xts = d.xts := rfl
@[simp] theorem putSeam_xtsDue (d : Dev) (m : Seam) : (putSeam d m).xtsDue = d.xtsDue := rfl
@[simp] theorem putSeam_nextKey (d : Dev) (m : Seam) : (putSeam d m).nextKey = d.nextKey := rfl
@[simp] theorem putSeam_farKey (d : Dev) (m : Seam) : (putSeam d m).farKey = d.farKey := rfl
@[simp] theorem putSeam_bootCount (d : Dev) (m : Seam) : (putSeam d m).bootCount = d.bootCount := rfl
@[simp] theorem putSeam_spdmLeaf (d : Dev) (m : Seam) : (putSeam d m).spdmLeaf = d.spdmLeaf := rfl
@[simp] theorem putSeam_retention (d : Dev) (m : Seam) : (putSeam d m).retention = d.retention := rfl
@[simp] theorem putSeam_hot (d : Dev) (m : Seam) : (putSeam d m).hot = d.hot := rfl
@[simp] theorem putSeam_spareRows (d : Dev) (m : Seam) : (putSeam d m).spareRows = d.spareRows := rfl
@[simp] theorem putSeam_cuffOut (d : Dev) (m : Seam) : (putSeam d m).cuffOut = d.cuffOut := rfl
@[simp] theorem putSeam_columns (d : Dev) (m : Seam) : (putSeam d m).columns = d.columns := rfl
@[simp] theorem putSeam_sramOut (d : Dev) (m : Seam) : (putSeam d m).sramOut = d.sramOut := rfl
@[simp] theorem putSeam_throttle (d : Dev) (m : Seam) : (putSeam d m).throttle = d.throttle := rfl
@[simp] theorem putSeam_outbox (d : Dev) (m : Seam) : (putSeam d m).outbox = d.outbox := rfl

/-! ### `pleatSet` -/

@[simp] theorem pleatSet_hbm (d : Dev) (k : Nat) (p : Pleat) : (pleatSet d k p).hbm = d.hbm := rfl
@[simp] theorem pleatSet_l2 (d : Dev) (k : Nat) (p : Pleat) : (pleatSet d k p).l2 = d.l2 := rfl
@[simp] theorem pleatSet_farPort (d : Dev) (k : Nat) (p : Pleat) : (pleatSet d k p).farPort = d.farPort := rfl
@[simp] theorem pleatSet_far (d : Dev) (k : Nat) (p : Pleat) : (pleatSet d k p).far = d.far := rfl
@[simp] theorem pleatSet_badWords (d : Dev) (k : Nat) (p : Pleat) : (pleatSet d k p).badWords = d.badWords := rfl
@[simp] theorem pleatSet_softWords (d : Dev) (k : Nat) (p : Pleat) : (pleatSet d k p).softWords = d.softWords := rfl
@[simp] theorem pleatSet_badL2 (d : Dev) (k : Nat) (p : Pleat) : (pleatSet d k p).badL2 = d.badL2 := rfl
@[simp] theorem pleatSet_badWin (d : Dev) (k : Nat) (p : Pleat) : (pleatSet d k p).badWin = d.badWin := rfl
@[simp] theorem pleatSet_tlb (d : Dev) (k : Nat) (p : Pleat) : (pleatSet d k p).tlb = d.tlb := rfl
@[simp] theorem pleatSet_asidTab (d : Dev) (k : Nat) (p : Pleat) : (pleatSet d k p).asidTab = d.asidTab := rfl
@[simp] theorem pleatSet_win (d : Dev) (k : Nat) (p : Pleat) : (pleatSet d k p).win = d.win := rfl
@[simp] theorem pleatSet_tags (d : Dev) (k : Nat) (p : Pleat) : (pleatSet d k p).tags = d.tags := rfl
@[simp] theorem pleatSet_ce (d : Dev) (k : Nat) (p : Pleat) : (pleatSet d k p).ce = d.ce := rfl
@[simp] theorem pleatSet_nops (d : Dev) (k : Nat) (p : Pleat) : (pleatSet d k p).nops = d.nops := rfl
@[simp] theorem pleatSet_peerOut (d : Dev) (k : Nat) (p : Pleat) : (pleatSet d k p).peerOut = d.peerOut := rfl
@[simp] theorem pleatSet_reqs (d : Dev) (k : Nat) (p : Pleat) : (pleatSet d k p).reqs = d.reqs := rfl
@[simp] theorem pleatSet_nextReq (d : Dev) (k : Nat) (p : Pleat) : (pleatSet d k p).nextReq = d.nextReq := rfl
@[simp] theorem pleatSet_moves (d : Dev) (k : Nat) (p : Pleat) : (pleatSet d k p).moves = d.moves := rfl
@[simp] theorem pleatSet_appends (d : Dev) (k : Nat) (p : Pleat) : (pleatSet d k p).appends = d.appends := rfl
@[simp] theorem pleatSet_qposts (d : Dev) (k : Nat) (p : Pleat) : (pleatSet d k p).qposts = d.qposts := rfl
@[simp] theorem pleatSet_nextQid (d : Dev) (k : Nat) (p : Pleat) : (pleatSet d k p).nextQid = d.nextQid := rfl
@[simp] theorem pleatSet_claspWait (d : Dev) (k : Nat) (p : Pleat) : (pleatSet d k p).claspWait = d.claspWait := rfl
@[simp] theorem pleatSet_rwins (d : Dev) (k : Nat) (p : Pleat) : (pleatSet d k p).rwins = d.rwins := rfl
@[simp] theorem pleatSet_queues (d : Dev) (k : Nat) (p : Pleat) : (pleatSet d k p).queues = d.queues := rfl
@[simp] theorem pleatSet_launches (d : Dev) (k : Nat) (p : Pleat) : (pleatSet d k p).launches = d.launches := rfl
@[simp] theorem pleatSet_nextLaunch (d : Dev) (k : Nat) (p : Pleat) : (pleatSet d k p).nextLaunch = d.nextLaunch := rfl
@[simp] theorem pleatSet_ready (d : Dev) (k : Nat) (p : Pleat) : (pleatSet d k p).ready = d.ready := rfl
@[simp] theorem pleatSet_saved (d : Dev) (k : Nat) (p : Pleat) : (pleatSet d k p).saved = d.saved := rfl
@[simp] theorem pleatSet_lastQ (d : Dev) (k : Nat) (p : Pleat) : (pleatSet d k p).lastQ = d.lastQ := rfl
@[simp] theorem pleatSet_rings (d : Dev) (k : Nat) (p : Pleat) : (pleatSet d k p).rings = d.rings := rfl
@[simp] theorem pleatSet_passed (d : Dev) (k : Nat) (p : Pleat) : (pleatSet d k p).passed = d.passed := rfl
@[simp] theorem pleatSet_rtbase (d : Dev) (k : Nat) (p : Pleat) : (pleatSet d k p).rtbase = d.rtbase := rfl
@[simp] theorem pleatSet_asidbase (d : Dev) (k : Nat) (p : Pleat) : (pleatSet d k p).asidbase = d.asidbase := rfl
@[simp] theorem pleatSet_sealbase (d : Dev) (k : Nat) (p : Pleat) : (pleatSet d k p).sealbase = d.sealbase := rfl
@[simp] theorem pleatSet_sealcmd (d : Dev) (k : Nat) (p : Pleat) : (pleatSet d k p).sealcmd = d.sealcmd := rfl
@[simp] theorem pleatSet_tlbinva (d : Dev) (k : Nat) (p : Pleat) : (pleatSet d k p).tlbinva = d.tlbinva := rfl
@[simp] theorem pleatSet_tlbinvc (d : Dev) (k : Nat) (p : Pleat) : (pleatSet d k p).tlbinvc = d.tlbinvc := rfl
@[simp] theorem pleatSet_tlbPage (d : Dev) (k : Nat) (p : Pleat) : (pleatSet d k p).tlbPage = d.tlbPage := rfl
@[simp] theorem pleatSet_miga (d : Dev) (k : Nat) (p : Pleat) : (pleatSet d k p).miga = d.miga := rfl
@[simp] theorem pleatSet_migb (d : Dev) (k : Nat) (p : Pleat) : (pleatSet d k p).migb = d.migb := rfl
@[simp] theorem pleatSet_migc (d : Dev) (k : Nat) (p : Pleat) : (pleatSet d k p).migc = d.migc := rfl
@[simp] theorem pleatSet_swap (d : Dev) (k : Nat) (p : Pleat) : (pleatSet d k p).swap = d.swap := rfl
@[simp] theorem pleatSet_herrlog (d : Dev) (k : Nat) (p : Pleat) : (pleatSet d k p).herrlog = d.herrlog := rfl
@[simp] theorem pleatSet_fwaddr (d : Dev) (k : Nat) (p : Pleat) : (pleatSet d k p).fwaddr = d.fwaddr := rfl
@[simp] theorem pleatSet_fwlen (d : Dev) (k : Nat) (p : Pleat) : (pleatSet d k p).fwlen = d.fwlen := rfl
@[simp] theorem pleatSet_fwstat (d : Dev) (k : Nat) (p : Pleat) : (pleatSet d k p).fwstat = d.fwstat := rfl
@[simp] theorem pleatSet_rollback (d : Dev) (k : Nat) (p : Pleat) : (pleatSet d k p).rollback = d.rollback := rfl
@[simp] theorem pleatSet_fwSvn (d : Dev) (k : Nat) (p : Pleat) : (pleatSet d k p).fwSvn = d.fwSvn := rfl
@[simp] theorem pleatSet_fwAdvance (d : Dev) (k : Nat) (p : Pleat) : (pleatSet d k p).fwAdvance = d.fwAdvance := rfl
@[simp] theorem pleatSet_fwHash (d : Dev) (k : Nat) (p : Pleat) : (pleatSet d k p).fwHash = d.fwHash := rfl
@[simp] theorem pleatSet_powerLost (d : Dev) (k : Nat) (p : Pleat) : (pleatSet d k p).powerLost = d.powerLost := rfl
@[simp] theorem pleatSet_elogbase (d : Dev) (k : Nat) (p : Pleat) : (pleatSet d k p).elogbase = d.elogbase := rfl
@[simp] theorem pleatSet_eloghead (d : Dev) (k : Nat) (p : Pleat) : (pleatSet d k p).eloghead = d.eloghead := rfl
@[simp] theorem pleatSet_elogtail (d : Dev) (k : Nat) (p : Pleat) : (pleatSet d k p).elogtail = d.elogtail := rfl
@[simp] theorem pleatSet_elogCount (d : Dev) (k : Nat) (p : Pleat) : (pleatSet d k p).elogCount = d.elogCount := rfl
@[simp] theorem pleatSet_pgCount (d : Dev) (k : Nat) (p : Pleat) : (pleatSet d k p).pgCount = d.pgCount := rfl
@[simp] theorem pleatSet_seam (d : Dev) (k : Nat) (p : Pleat) : (pleatSet d k p).seam = d.seam := rfl
@[simp] theorem pleatSet_ports (d : Dev) (k : Nat) (p : Pleat) : (pleatSet d k p).ports = d.ports := rfl
@[simp] theorem pleatSet_routes (d : Dev) (k : Nat) (p : Pleat) : (pleatSet d k p).routes = d.routes := rfl
@[simp] theorem pleatSet_lostRanks (d : Dev) (k : Nat) (p : Pleat) : (pleatSet d k p).lostRanks = d.lostRanks := rfl
@[simp] theorem pleatSet_iface (d : Dev) (k : Nat) (p : Pleat) : (pleatSet d k p).iface = d.iface := rfl
@[simp] theorem pleatSet_teardown (d : Dev) (k : Nat) (p : Pleat) : (pleatSet d k p).teardown = d.teardown := rfl
@[simp] theorem pleatSet_ide (d : Dev) (k : Nat) (p : Pleat) : (pleatSet d k p).ide = d.ide := rfl
@[simp] theorem pleatSet_xts (d : Dev) (k : Nat) (p : Pleat) : (pleatSet d k p).xts = d.xts := rfl
@[simp] theorem pleatSet_xtsDue (d : Dev) (k : Nat) (p : Pleat) : (pleatSet d k p).xtsDue = d.xtsDue := rfl
@[simp] theorem pleatSet_nextKey (d : Dev) (k : Nat) (p : Pleat) : (pleatSet d k p).nextKey = d.nextKey := rfl
@[simp] theorem pleatSet_farKey (d : Dev) (k : Nat) (p : Pleat) : (pleatSet d k p).farKey = d.farKey := rfl
@[simp] theorem pleatSet_bootCount (d : Dev) (k : Nat) (p : Pleat) : (pleatSet d k p).bootCount = d.bootCount := rfl
@[simp] theorem pleatSet_spdmLeaf (d : Dev) (k : Nat) (p : Pleat) : (pleatSet d k p).spdmLeaf = d.spdmLeaf := rfl
@[simp] theorem pleatSet_retention (d : Dev) (k : Nat) (p : Pleat) : (pleatSet d k p).retention = d.retention := rfl
@[simp] theorem pleatSet_hot (d : Dev) (k : Nat) (p : Pleat) : (pleatSet d k p).hot = d.hot := rfl
@[simp] theorem pleatSet_spareRows (d : Dev) (k : Nat) (p : Pleat) : (pleatSet d k p).spareRows = d.spareRows := rfl
@[simp] theorem pleatSet_cuffOut (d : Dev) (k : Nat) (p : Pleat) : (pleatSet d k p).cuffOut = d.cuffOut := rfl
@[simp] theorem pleatSet_columns (d : Dev) (k : Nat) (p : Pleat) : (pleatSet d k p).columns = d.columns := rfl
@[simp] theorem pleatSet_sramOut (d : Dev) (k : Nat) (p : Pleat) : (pleatSet d k p).sramOut = d.sramOut := rfl
@[simp] theorem pleatSet_throttle (d : Dev) (k : Nat) (p : Pleat) : (pleatSet d k p).throttle = d.throttle := rfl
@[simp] theorem pleatSet_outbox (d : Dev) (k : Nat) (p : Pleat) : (pleatSet d k p).outbox = d.outbox := rfl

/-! ### `setPort` -/

@[simp] theorem setPort_hbm (d : Dev) (k : Nat) (p : Port) : (setPort d k p).hbm = d.hbm := by unfold setPort; split <;> rfl
@[simp] theorem setPort_l2 (d : Dev) (k : Nat) (p : Port) : (setPort d k p).l2 = d.l2 := by unfold setPort; split <;> rfl
@[simp] theorem setPort_farPort (d : Dev) (k : Nat) (p : Port) : (setPort d k p).farPort = d.farPort := by unfold setPort; split <;> rfl
@[simp] theorem setPort_far (d : Dev) (k : Nat) (p : Port) : (setPort d k p).far = d.far := by unfold setPort; split <;> rfl
@[simp] theorem setPort_badWords (d : Dev) (k : Nat) (p : Port) : (setPort d k p).badWords = d.badWords := by unfold setPort; split <;> rfl
@[simp] theorem setPort_softWords (d : Dev) (k : Nat) (p : Port) : (setPort d k p).softWords = d.softWords := by unfold setPort; split <;> rfl
@[simp] theorem setPort_badL2 (d : Dev) (k : Nat) (p : Port) : (setPort d k p).badL2 = d.badL2 := by unfold setPort; split <;> rfl
@[simp] theorem setPort_badWin (d : Dev) (k : Nat) (p : Port) : (setPort d k p).badWin = d.badWin := by unfold setPort; split <;> rfl
@[simp] theorem setPort_tlb (d : Dev) (k : Nat) (p : Port) : (setPort d k p).tlb = d.tlb := by unfold setPort; split <;> rfl
@[simp] theorem setPort_asidTab (d : Dev) (k : Nat) (p : Port) : (setPort d k p).asidTab = d.asidTab := by unfold setPort; split <;> rfl
@[simp] theorem setPort_win (d : Dev) (k : Nat) (p : Port) : (setPort d k p).win = d.win := by unfold setPort; split <;> rfl
@[simp] theorem setPort_tags (d : Dev) (k : Nat) (p : Port) : (setPort d k p).tags = d.tags := by unfold setPort; split <;> rfl
@[simp] theorem setPort_ce (d : Dev) (k : Nat) (p : Port) : (setPort d k p).ce = d.ce := by unfold setPort; split <;> rfl
@[simp] theorem setPort_nops (d : Dev) (k : Nat) (p : Port) : (setPort d k p).nops = d.nops := by unfold setPort; split <;> rfl
@[simp] theorem setPort_peerOut (d : Dev) (k : Nat) (p : Port) : (setPort d k p).peerOut = d.peerOut := by unfold setPort; split <;> rfl
@[simp] theorem setPort_reqs (d : Dev) (k : Nat) (p : Port) : (setPort d k p).reqs = d.reqs := by unfold setPort; split <;> rfl
@[simp] theorem setPort_nextReq (d : Dev) (k : Nat) (p : Port) : (setPort d k p).nextReq = d.nextReq := by unfold setPort; split <;> rfl
@[simp] theorem setPort_moves (d : Dev) (k : Nat) (p : Port) : (setPort d k p).moves = d.moves := by unfold setPort; split <;> rfl
@[simp] theorem setPort_appends (d : Dev) (k : Nat) (p : Port) : (setPort d k p).appends = d.appends := by unfold setPort; split <;> rfl
@[simp] theorem setPort_qposts (d : Dev) (k : Nat) (p : Port) : (setPort d k p).qposts = d.qposts := by unfold setPort; split <;> rfl
@[simp] theorem setPort_nextQid (d : Dev) (k : Nat) (p : Port) : (setPort d k p).nextQid = d.nextQid := by unfold setPort; split <;> rfl
@[simp] theorem setPort_claspWait (d : Dev) (k : Nat) (p : Port) : (setPort d k p).claspWait = d.claspWait := by unfold setPort; split <;> rfl
@[simp] theorem setPort_rwins (d : Dev) (k : Nat) (p : Port) : (setPort d k p).rwins = d.rwins := by unfold setPort; split <;> rfl
@[simp] theorem setPort_pleats (d : Dev) (k : Nat) (p : Port) : (setPort d k p).pleats = d.pleats := by unfold setPort; split <;> rfl
@[simp] theorem setPort_queues (d : Dev) (k : Nat) (p : Port) : (setPort d k p).queues = d.queues := by unfold setPort; split <;> rfl
@[simp] theorem setPort_launches (d : Dev) (k : Nat) (p : Port) : (setPort d k p).launches = d.launches := by unfold setPort; split <;> rfl
@[simp] theorem setPort_nextLaunch (d : Dev) (k : Nat) (p : Port) : (setPort d k p).nextLaunch = d.nextLaunch := by unfold setPort; split <;> rfl
@[simp] theorem setPort_ready (d : Dev) (k : Nat) (p : Port) : (setPort d k p).ready = d.ready := by unfold setPort; split <;> rfl
@[simp] theorem setPort_saved (d : Dev) (k : Nat) (p : Port) : (setPort d k p).saved = d.saved := by unfold setPort; split <;> rfl
@[simp] theorem setPort_lastQ (d : Dev) (k : Nat) (p : Port) : (setPort d k p).lastQ = d.lastQ := by unfold setPort; split <;> rfl
@[simp] theorem setPort_rings (d : Dev) (k : Nat) (p : Port) : (setPort d k p).rings = d.rings := by unfold setPort; split <;> rfl
@[simp] theorem setPort_passed (d : Dev) (k : Nat) (p : Port) : (setPort d k p).passed = d.passed := by unfold setPort; split <;> rfl
@[simp] theorem setPort_rtbase (d : Dev) (k : Nat) (p : Port) : (setPort d k p).rtbase = d.rtbase := by unfold setPort; split <;> rfl
@[simp] theorem setPort_asidbase (d : Dev) (k : Nat) (p : Port) : (setPort d k p).asidbase = d.asidbase := by unfold setPort; split <;> rfl
@[simp] theorem setPort_sealbase (d : Dev) (k : Nat) (p : Port) : (setPort d k p).sealbase = d.sealbase := by unfold setPort; split <;> rfl
@[simp] theorem setPort_sealcmd (d : Dev) (k : Nat) (p : Port) : (setPort d k p).sealcmd = d.sealcmd := by unfold setPort; split <;> rfl
@[simp] theorem setPort_tlbinva (d : Dev) (k : Nat) (p : Port) : (setPort d k p).tlbinva = d.tlbinva := by unfold setPort; split <;> rfl
@[simp] theorem setPort_tlbinvc (d : Dev) (k : Nat) (p : Port) : (setPort d k p).tlbinvc = d.tlbinvc := by unfold setPort; split <;> rfl
@[simp] theorem setPort_tlbPage (d : Dev) (k : Nat) (p : Port) : (setPort d k p).tlbPage = d.tlbPage := by unfold setPort; split <;> rfl
@[simp] theorem setPort_miga (d : Dev) (k : Nat) (p : Port) : (setPort d k p).miga = d.miga := by unfold setPort; split <;> rfl
@[simp] theorem setPort_migb (d : Dev) (k : Nat) (p : Port) : (setPort d k p).migb = d.migb := by unfold setPort; split <;> rfl
@[simp] theorem setPort_migc (d : Dev) (k : Nat) (p : Port) : (setPort d k p).migc = d.migc := by unfold setPort; split <;> rfl
@[simp] theorem setPort_swap (d : Dev) (k : Nat) (p : Port) : (setPort d k p).swap = d.swap := by unfold setPort; split <;> rfl
@[simp] theorem setPort_herrlog (d : Dev) (k : Nat) (p : Port) : (setPort d k p).herrlog = d.herrlog := by unfold setPort; split <;> rfl
@[simp] theorem setPort_fwaddr (d : Dev) (k : Nat) (p : Port) : (setPort d k p).fwaddr = d.fwaddr := by unfold setPort; split <;> rfl
@[simp] theorem setPort_fwlen (d : Dev) (k : Nat) (p : Port) : (setPort d k p).fwlen = d.fwlen := by unfold setPort; split <;> rfl
@[simp] theorem setPort_fwstat (d : Dev) (k : Nat) (p : Port) : (setPort d k p).fwstat = d.fwstat := by unfold setPort; split <;> rfl
@[simp] theorem setPort_rollback (d : Dev) (k : Nat) (p : Port) : (setPort d k p).rollback = d.rollback := by unfold setPort; split <;> rfl
@[simp] theorem setPort_fwSvn (d : Dev) (k : Nat) (p : Port) : (setPort d k p).fwSvn = d.fwSvn := by unfold setPort; split <;> rfl
@[simp] theorem setPort_fwAdvance (d : Dev) (k : Nat) (p : Port) : (setPort d k p).fwAdvance = d.fwAdvance := by unfold setPort; split <;> rfl
@[simp] theorem setPort_fwHash (d : Dev) (k : Nat) (p : Port) : (setPort d k p).fwHash = d.fwHash := by unfold setPort; split <;> rfl
@[simp] theorem setPort_powerLost (d : Dev) (k : Nat) (p : Port) : (setPort d k p).powerLost = d.powerLost := by unfold setPort; split <;> rfl
@[simp] theorem setPort_elogbase (d : Dev) (k : Nat) (p : Port) : (setPort d k p).elogbase = d.elogbase := by unfold setPort; split <;> rfl
@[simp] theorem setPort_eloghead (d : Dev) (k : Nat) (p : Port) : (setPort d k p).eloghead = d.eloghead := by unfold setPort; split <;> rfl
@[simp] theorem setPort_elogtail (d : Dev) (k : Nat) (p : Port) : (setPort d k p).elogtail = d.elogtail := by unfold setPort; split <;> rfl
@[simp] theorem setPort_elogCount (d : Dev) (k : Nat) (p : Port) : (setPort d k p).elogCount = d.elogCount := by unfold setPort; split <;> rfl
@[simp] theorem setPort_pgCount (d : Dev) (k : Nat) (p : Port) : (setPort d k p).pgCount = d.pgCount := by unfold setPort; split <;> rfl
@[simp] theorem setPort_seam (d : Dev) (k : Nat) (p : Port) : (setPort d k p).seam = d.seam := by unfold setPort; split <;> rfl
@[simp] theorem setPort_routes (d : Dev) (k : Nat) (p : Port) : (setPort d k p).routes = d.routes := by unfold setPort; split <;> rfl
@[simp] theorem setPort_lostRanks (d : Dev) (k : Nat) (p : Port) : (setPort d k p).lostRanks = d.lostRanks := by unfold setPort; split <;> rfl
@[simp] theorem setPort_iface (d : Dev) (k : Nat) (p : Port) : (setPort d k p).iface = d.iface := by unfold setPort; split <;> rfl
@[simp] theorem setPort_teardown (d : Dev) (k : Nat) (p : Port) : (setPort d k p).teardown = d.teardown := by unfold setPort; split <;> rfl
@[simp] theorem setPort_ide (d : Dev) (k : Nat) (p : Port) : (setPort d k p).ide = d.ide := by unfold setPort; split <;> rfl
@[simp] theorem setPort_xts (d : Dev) (k : Nat) (p : Port) : (setPort d k p).xts = d.xts := by unfold setPort; split <;> rfl
@[simp] theorem setPort_xtsDue (d : Dev) (k : Nat) (p : Port) : (setPort d k p).xtsDue = d.xtsDue := by unfold setPort; split <;> rfl
@[simp] theorem setPort_nextKey (d : Dev) (k : Nat) (p : Port) : (setPort d k p).nextKey = d.nextKey := by unfold setPort; split <;> rfl
@[simp] theorem setPort_farKey (d : Dev) (k : Nat) (p : Port) : (setPort d k p).farKey = d.farKey := by unfold setPort; split <;> rfl
@[simp] theorem setPort_bootCount (d : Dev) (k : Nat) (p : Port) : (setPort d k p).bootCount = d.bootCount := by unfold setPort; split <;> rfl
@[simp] theorem setPort_spdmLeaf (d : Dev) (k : Nat) (p : Port) : (setPort d k p).spdmLeaf = d.spdmLeaf := by unfold setPort; split <;> rfl
@[simp] theorem setPort_retention (d : Dev) (k : Nat) (p : Port) : (setPort d k p).retention = d.retention := by unfold setPort; split <;> rfl
@[simp] theorem setPort_hot (d : Dev) (k : Nat) (p : Port) : (setPort d k p).hot = d.hot := by unfold setPort; split <;> rfl
@[simp] theorem setPort_spareRows (d : Dev) (k : Nat) (p : Port) : (setPort d k p).spareRows = d.spareRows := by unfold setPort; split <;> rfl
@[simp] theorem setPort_cuffOut (d : Dev) (k : Nat) (p : Port) : (setPort d k p).cuffOut = d.cuffOut := by unfold setPort; split <;> rfl
@[simp] theorem setPort_columns (d : Dev) (k : Nat) (p : Port) : (setPort d k p).columns = d.columns := by unfold setPort; split <;> rfl
@[simp] theorem setPort_sramOut (d : Dev) (k : Nat) (p : Port) : (setPort d k p).sramOut = d.sramOut := by unfold setPort; split <;> rfl
@[simp] theorem setPort_throttle (d : Dev) (k : Nat) (p : Port) : (setPort d k p).throttle = d.throttle := by unfold setPort; split <;> rfl
@[simp] theorem setPort_outbox (d : Dev) (k : Nat) (p : Port) : (setPort d k p).outbox = d.outbox := by unfold setPort; split <;> rfl

/-! ### `Dev.send` -/

@[simp] theorem Dev_send_hbm (d : Dev) (m : OutMsg) : (d.send m).hbm = d.hbm := by unfold Dev.send; split <;> first | rfl | (simp only; split <;> rfl)
@[simp] theorem Dev_send_l2 (d : Dev) (m : OutMsg) : (d.send m).l2 = d.l2 := by unfold Dev.send; split <;> first | rfl | (simp only; split <;> rfl)
@[simp] theorem Dev_send_farPort (d : Dev) (m : OutMsg) : (d.send m).farPort = d.farPort := by unfold Dev.send; split <;> first | rfl | (simp only; split <;> rfl)
@[simp] theorem Dev_send_far (d : Dev) (m : OutMsg) : (d.send m).far = d.far := by unfold Dev.send; split <;> first | rfl | (simp only; split <;> rfl)
@[simp] theorem Dev_send_badWords (d : Dev) (m : OutMsg) : (d.send m).badWords = d.badWords := by unfold Dev.send; split <;> first | rfl | (simp only; split <;> rfl)
@[simp] theorem Dev_send_softWords (d : Dev) (m : OutMsg) : (d.send m).softWords = d.softWords := by unfold Dev.send; split <;> first | rfl | (simp only; split <;> rfl)
@[simp] theorem Dev_send_badL2 (d : Dev) (m : OutMsg) : (d.send m).badL2 = d.badL2 := by unfold Dev.send; split <;> first | rfl | (simp only; split <;> rfl)
@[simp] theorem Dev_send_badWin (d : Dev) (m : OutMsg) : (d.send m).badWin = d.badWin := by unfold Dev.send; split <;> first | rfl | (simp only; split <;> rfl)
@[simp] theorem Dev_send_tlb (d : Dev) (m : OutMsg) : (d.send m).tlb = d.tlb := by unfold Dev.send; split <;> first | rfl | (simp only; split <;> rfl)
@[simp] theorem Dev_send_asidTab (d : Dev) (m : OutMsg) : (d.send m).asidTab = d.asidTab := by unfold Dev.send; split <;> first | rfl | (simp only; split <;> rfl)
@[simp] theorem Dev_send_win (d : Dev) (m : OutMsg) : (d.send m).win = d.win := by unfold Dev.send; split <;> first | rfl | (simp only; split <;> rfl)
@[simp] theorem Dev_send_tags (d : Dev) (m : OutMsg) : (d.send m).tags = d.tags := by unfold Dev.send; split <;> first | rfl | (simp only; split <;> rfl)
@[simp] theorem Dev_send_ce (d : Dev) (m : OutMsg) : (d.send m).ce = d.ce := by unfold Dev.send; split <;> first | rfl | (simp only; split <;> rfl)
@[simp] theorem Dev_send_nops (d : Dev) (m : OutMsg) : (d.send m).nops = d.nops := by unfold Dev.send; split <;> first | rfl | (simp only; split <;> rfl)
@[simp] theorem Dev_send_peerOut (d : Dev) (m : OutMsg) : (d.send m).peerOut = d.peerOut := by unfold Dev.send; split <;> first | rfl | (simp only; split <;> rfl)
@[simp] theorem Dev_send_reqs (d : Dev) (m : OutMsg) : (d.send m).reqs = d.reqs := by unfold Dev.send; split <;> first | rfl | (simp only; split <;> rfl)
@[simp] theorem Dev_send_nextReq (d : Dev) (m : OutMsg) : (d.send m).nextReq = d.nextReq := by unfold Dev.send; split <;> first | rfl | (simp only; split <;> rfl)
@[simp] theorem Dev_send_moves (d : Dev) (m : OutMsg) : (d.send m).moves = d.moves := by unfold Dev.send; split <;> first | rfl | (simp only; split <;> rfl)
@[simp] theorem Dev_send_appends (d : Dev) (m : OutMsg) : (d.send m).appends = d.appends := by unfold Dev.send; split <;> first | rfl | (simp only; split <;> rfl)
@[simp] theorem Dev_send_qposts (d : Dev) (m : OutMsg) : (d.send m).qposts = d.qposts := by unfold Dev.send; split <;> first | rfl | (simp only; split <;> rfl)
@[simp] theorem Dev_send_nextQid (d : Dev) (m : OutMsg) : (d.send m).nextQid = d.nextQid := by unfold Dev.send; split <;> first | rfl | (simp only; split <;> rfl)
@[simp] theorem Dev_send_claspWait (d : Dev) (m : OutMsg) : (d.send m).claspWait = d.claspWait := by unfold Dev.send; split <;> first | rfl | (simp only; split <;> rfl)
@[simp] theorem Dev_send_rwins (d : Dev) (m : OutMsg) : (d.send m).rwins = d.rwins := by unfold Dev.send; split <;> first | rfl | (simp only; split <;> rfl)
@[simp] theorem Dev_send_pleats (d : Dev) (m : OutMsg) : (d.send m).pleats = d.pleats := by unfold Dev.send; split <;> first | rfl | (simp only; split <;> rfl)
@[simp] theorem Dev_send_queues (d : Dev) (m : OutMsg) : (d.send m).queues = d.queues := by unfold Dev.send; split <;> first | rfl | (simp only; split <;> rfl)
@[simp] theorem Dev_send_launches (d : Dev) (m : OutMsg) : (d.send m).launches = d.launches := by unfold Dev.send; split <;> first | rfl | (simp only; split <;> rfl)
@[simp] theorem Dev_send_nextLaunch (d : Dev) (m : OutMsg) : (d.send m).nextLaunch = d.nextLaunch := by unfold Dev.send; split <;> first | rfl | (simp only; split <;> rfl)
@[simp] theorem Dev_send_ready (d : Dev) (m : OutMsg) : (d.send m).ready = d.ready := by unfold Dev.send; split <;> first | rfl | (simp only; split <;> rfl)
@[simp] theorem Dev_send_saved (d : Dev) (m : OutMsg) : (d.send m).saved = d.saved := by unfold Dev.send; split <;> first | rfl | (simp only; split <;> rfl)
@[simp] theorem Dev_send_lastQ (d : Dev) (m : OutMsg) : (d.send m).lastQ = d.lastQ := by unfold Dev.send; split <;> first | rfl | (simp only; split <;> rfl)
@[simp] theorem Dev_send_rings (d : Dev) (m : OutMsg) : (d.send m).rings = d.rings := by unfold Dev.send; split <;> first | rfl | (simp only; split <;> rfl)
@[simp] theorem Dev_send_passed (d : Dev) (m : OutMsg) : (d.send m).passed = d.passed := by unfold Dev.send; split <;> first | rfl | (simp only; split <;> rfl)
@[simp] theorem Dev_send_rtbase (d : Dev) (m : OutMsg) : (d.send m).rtbase = d.rtbase := by unfold Dev.send; split <;> first | rfl | (simp only; split <;> rfl)
@[simp] theorem Dev_send_asidbase (d : Dev) (m : OutMsg) : (d.send m).asidbase = d.asidbase := by unfold Dev.send; split <;> first | rfl | (simp only; split <;> rfl)
@[simp] theorem Dev_send_sealbase (d : Dev) (m : OutMsg) : (d.send m).sealbase = d.sealbase := by unfold Dev.send; split <;> first | rfl | (simp only; split <;> rfl)
@[simp] theorem Dev_send_sealcmd (d : Dev) (m : OutMsg) : (d.send m).sealcmd = d.sealcmd := by unfold Dev.send; split <;> first | rfl | (simp only; split <;> rfl)
@[simp] theorem Dev_send_tlbinva (d : Dev) (m : OutMsg) : (d.send m).tlbinva = d.tlbinva := by unfold Dev.send; split <;> first | rfl | (simp only; split <;> rfl)
@[simp] theorem Dev_send_tlbinvc (d : Dev) (m : OutMsg) : (d.send m).tlbinvc = d.tlbinvc := by unfold Dev.send; split <;> first | rfl | (simp only; split <;> rfl)
@[simp] theorem Dev_send_tlbPage (d : Dev) (m : OutMsg) : (d.send m).tlbPage = d.tlbPage := by unfold Dev.send; split <;> first | rfl | (simp only; split <;> rfl)
@[simp] theorem Dev_send_miga (d : Dev) (m : OutMsg) : (d.send m).miga = d.miga := by unfold Dev.send; split <;> first | rfl | (simp only; split <;> rfl)
@[simp] theorem Dev_send_migb (d : Dev) (m : OutMsg) : (d.send m).migb = d.migb := by unfold Dev.send; split <;> first | rfl | (simp only; split <;> rfl)
@[simp] theorem Dev_send_migc (d : Dev) (m : OutMsg) : (d.send m).migc = d.migc := by unfold Dev.send; split <;> first | rfl | (simp only; split <;> rfl)
@[simp] theorem Dev_send_swap (d : Dev) (m : OutMsg) : (d.send m).swap = d.swap := by unfold Dev.send; split <;> first | rfl | (simp only; split <;> rfl)
@[simp] theorem Dev_send_herrlog (d : Dev) (m : OutMsg) : (d.send m).herrlog = d.herrlog := by unfold Dev.send; split <;> first | rfl | (simp only; split <;> rfl)
@[simp] theorem Dev_send_fwaddr (d : Dev) (m : OutMsg) : (d.send m).fwaddr = d.fwaddr := by unfold Dev.send; split <;> first | rfl | (simp only; split <;> rfl)
@[simp] theorem Dev_send_fwlen (d : Dev) (m : OutMsg) : (d.send m).fwlen = d.fwlen := by unfold Dev.send; split <;> first | rfl | (simp only; split <;> rfl)
@[simp] theorem Dev_send_fwstat (d : Dev) (m : OutMsg) : (d.send m).fwstat = d.fwstat := by unfold Dev.send; split <;> first | rfl | (simp only; split <;> rfl)
@[simp] theorem Dev_send_rollback (d : Dev) (m : OutMsg) : (d.send m).rollback = d.rollback := by unfold Dev.send; split <;> first | rfl | (simp only; split <;> rfl)
@[simp] theorem Dev_send_fwSvn (d : Dev) (m : OutMsg) : (d.send m).fwSvn = d.fwSvn := by unfold Dev.send; split <;> first | rfl | (simp only; split <;> rfl)
@[simp] theorem Dev_send_fwAdvance (d : Dev) (m : OutMsg) : (d.send m).fwAdvance = d.fwAdvance := by unfold Dev.send; split <;> first | rfl | (simp only; split <;> rfl)
@[simp] theorem Dev_send_fwHash (d : Dev) (m : OutMsg) : (d.send m).fwHash = d.fwHash := by unfold Dev.send; split <;> first | rfl | (simp only; split <;> rfl)
@[simp] theorem Dev_send_powerLost (d : Dev) (m : OutMsg) : (d.send m).powerLost = d.powerLost := by unfold Dev.send; split <;> first | rfl | (simp only; split <;> rfl)
@[simp] theorem Dev_send_elogbase (d : Dev) (m : OutMsg) : (d.send m).elogbase = d.elogbase := by unfold Dev.send; split <;> first | rfl | (simp only; split <;> rfl)
@[simp] theorem Dev_send_eloghead (d : Dev) (m : OutMsg) : (d.send m).eloghead = d.eloghead := by unfold Dev.send; split <;> first | rfl | (simp only; split <;> rfl)
@[simp] theorem Dev_send_elogtail (d : Dev) (m : OutMsg) : (d.send m).elogtail = d.elogtail := by unfold Dev.send; split <;> first | rfl | (simp only; split <;> rfl)
@[simp] theorem Dev_send_elogCount (d : Dev) (m : OutMsg) : (d.send m).elogCount = d.elogCount := by unfold Dev.send; split <;> first | rfl | (simp only; split <;> rfl)
@[simp] theorem Dev_send_pgCount (d : Dev) (m : OutMsg) : (d.send m).pgCount = d.pgCount := by unfold Dev.send; split <;> first | rfl | (simp only; split <;> rfl)
@[simp] theorem Dev_send_seam (d : Dev) (m : OutMsg) : (d.send m).seam = d.seam := by unfold Dev.send; split <;> first | rfl | (simp only; split <;> rfl)
@[simp] theorem Dev_send_routes (d : Dev) (m : OutMsg) : (d.send m).routes = d.routes := by unfold Dev.send; split <;> first | rfl | (simp only; split <;> rfl)
@[simp] theorem Dev_send_lostRanks (d : Dev) (m : OutMsg) : (d.send m).lostRanks = d.lostRanks := by unfold Dev.send; split <;> first | rfl | (simp only; split <;> rfl)
@[simp] theorem Dev_send_iface (d : Dev) (m : OutMsg) : (d.send m).iface = d.iface := by unfold Dev.send; split <;> first | rfl | (simp only; split <;> rfl)
@[simp] theorem Dev_send_teardown (d : Dev) (m : OutMsg) : (d.send m).teardown = d.teardown := by unfold Dev.send; split <;> first | rfl | (simp only; split <;> rfl)
@[simp] theorem Dev_send_ide (d : Dev) (m : OutMsg) : (d.send m).ide = d.ide := by unfold Dev.send; split <;> first | rfl | (simp only; split <;> rfl)
@[simp] theorem Dev_send_xts (d : Dev) (m : OutMsg) : (d.send m).xts = d.xts := by unfold Dev.send; split <;> first | rfl | (simp only; split <;> rfl)
@[simp] theorem Dev_send_xtsDue (d : Dev) (m : OutMsg) : (d.send m).xtsDue = d.xtsDue := by unfold Dev.send; split <;> first | rfl | (simp only; split <;> rfl)
@[simp] theorem Dev_send_nextKey (d : Dev) (m : OutMsg) : (d.send m).nextKey = d.nextKey := by unfold Dev.send; split <;> first | rfl | (simp only; split <;> rfl)
@[simp] theorem Dev_send_farKey (d : Dev) (m : OutMsg) : (d.send m).farKey = d.farKey := by unfold Dev.send; split <;> first | rfl | (simp only; split <;> rfl)
@[simp] theorem Dev_send_bootCount (d : Dev) (m : OutMsg) : (d.send m).bootCount = d.bootCount := by unfold Dev.send; split <;> first | rfl | (simp only; split <;> rfl)
@[simp] theorem Dev_send_spdmLeaf (d : Dev) (m : OutMsg) : (d.send m).spdmLeaf = d.spdmLeaf := by unfold Dev.send; split <;> first | rfl | (simp only; split <;> rfl)
@[simp] theorem Dev_send_retention (d : Dev) (m : OutMsg) : (d.send m).retention = d.retention := by unfold Dev.send; split <;> first | rfl | (simp only; split <;> rfl)
@[simp] theorem Dev_send_hot (d : Dev) (m : OutMsg) : (d.send m).hot = d.hot := by unfold Dev.send; split <;> first | rfl | (simp only; split <;> rfl)
@[simp] theorem Dev_send_spareRows (d : Dev) (m : OutMsg) : (d.send m).spareRows = d.spareRows := by unfold Dev.send; split <;> first | rfl | (simp only; split <;> rfl)
@[simp] theorem Dev_send_cuffOut (d : Dev) (m : OutMsg) : (d.send m).cuffOut = d.cuffOut := by unfold Dev.send; split <;> first | rfl | (simp only; split <;> rfl)
@[simp] theorem Dev_send_columns (d : Dev) (m : OutMsg) : (d.send m).columns = d.columns := by unfold Dev.send; split <;> first | rfl | (simp only; split <;> rfl)
@[simp] theorem Dev_send_sramOut (d : Dev) (m : OutMsg) : (d.send m).sramOut = d.sramOut := by unfold Dev.send; split <;> first | rfl | (simp only; split <;> rfl)
@[simp] theorem Dev_send_throttle (d : Dev) (m : OutMsg) : (d.send m).throttle = d.throttle := by unfold Dev.send; split <;> first | rfl | (simp only; split <;> rfl)

end Sys2Proof.Machine
end

