-- ==== Sys2Proof/Laws/Ops.lean ====
section
/-! SUPPORT. What the shared operations do, said once: registers of X, sequencers, tokens, the outcomes of a word of X, and
the issue of an engine word. -/

namespace Sys2Proof.Machine

/-! ### Registers of X -/

@[simp] theorem xget_zero (s : State) : xget s 0#5 = 0#64 := rfl

@[simp] theorem xset_zero (s : State) (v : Word) : xset s 0#5 v = s := rfl

theorem xset_core_x (s : State) (r : BitVec 5) (v : Word) :
    (xset s r v).core.x = if r = 0 then s.core.x else s.core.x.set r.toNat v r.isLt := by
  unfold xset; split <;> rfl

theorem xget_xset (s : State) (r q : BitVec 5) (v : Word) :
    xget (xset s r v) q = if q = r ∧ r ≠ 0 then v else xget s q := by
  by_cases hr : r = 0
  · simp [hr]
  · have e : (xset s r v).core.x = s.core.x.set r.toNat v r.isLt := by rw [xset_core_x, if_neg hr]
    unfold xget
    rw [e]
    by_cases hq : q = 0
    · rw [if_pos hq, if_pos hq, if_neg (fun h : q = r ∧ r ≠ 0 => hr (h.1 ▸ hq))]
    · rw [if_neg hq, if_neg hq]
      by_cases h : q = r
      · subst h; rw [if_pos ⟨rfl, hr⟩]; simp
      · have : r.toNat ≠ q.toNat := fun e => h (BitVec.eq_of_toNat_eq e.symm)
        simp [h, this]

theorem advance_eq_wentOn (s : State) : advance s = Safety.wentOn s := rfl

theorem goto_eq_wentTo (s : State) (a : Word) : goto s a = Safety.wentTo s a := rfl

/-- A write of x[d] that goes on at the next word. -/
theorem advance_xset (s : State) (d : BitVec 5) (v : Word) : advance (xset s d v) = Safety.wroteX s d v := by
  unfold xset Safety.wroteX advance goto
  split <;> simp_all

/-! ### Outcomes of a word of X -/

@[simp] theorem nextX_eq (s : State) : nextX s = .next (Safety.wentOn s) := rfl

@[simp] theorem waitX_eq (s : State) (w : XWait) : waitX s w = .next { s with core := { s.core with xwait := w } } := rfl

@[simp] theorem stepX_ok (s t : State) : stepX s (.ok t) = .next (Safety.wentOn t) := rfl

theorem stopX_trap {c : CauseRec} (s : State) (h : c.await = none) : stopX s c = .next (trapX s c) := by
  simp [stopX, h]

/-- A word of X that stops traps, or waits for an access. -/
theorem stopX_next (s : State) (c : CauseRec) : ∃ t, stopX s c = .next t := by
  unfold stopX; split <;> exact ⟨_, rfl⟩

theorem stepX_error {c : CauseRec} (s : State) (h : c.await = none) : stepX s (.error c) = .next (trapX s c) :=
  stopX_trap s h

@[simp] theorem stepI_ok (i : Instr) (s t : State) : stepI i s (.ok t) = .next (Safety.wentOn t) := rfl

theorem stepI_error (i : Instr) {c : CauseRec} (s : State) (h : c.await = none) : stepI i s (.error c) =
    .next (trapX s (if causeClass c.cause == 0 then { c with info := BitVec.ofNat 64 (encode i) } else c)) := by
  refine stopX_trap s ?_
  split <;> exact h

/-- A word of X that goes on, waits or traps always answers a next state. -/
theorem stepI_next (i : Instr) (s : State) (r : Res State) : ∃ t, stepI i s r = .next t := by
  cases r with
  | ok t => exact ⟨_, rfl⟩
  | error c => exact stopX_next s _

theorem stepX_next (s : State) (r : Res State) : ∃ t, stepX s r = .next t := by
  cases r with
  | ok t => exact ⟨_, rfl⟩
  | error c => exact stopX_next s _

/-! ### Sequencers -/

theorem seqOf_setSeq (s : State) (u : SeqId) (q : Seq) (h : noUnit u = false) : seqOf (setSeq s u q) u = q := by
  cases u with
  | e m =>
    have hm : m < 48 := by simpa [noUnit] using h
    simp [seqOf, setSeq, hm]
  | _ => rfl

theorem seqOf_setSeq_ne (s : State) {u v : SeqId} (q : Seq) (h : v ≠ u) : seqOf (setSeq s u q) v = seqOf s v := by
  cases u <;> cases v <;> first
    | exact absurd rfl h
    | rfl
    | (simp only [seqOf, setSeq]; split <;> rfl)
    | skip
  rename_i m n
  have hmn : m ≠ n := fun e => h (by rw [e])
  by_cases hm : m < 48
  · by_cases hk : n < 48
    · simp [seqOf, setSeq, hm, hk, hmn]
    · simp [seqOf, hk]
  · simp [setSeq, hm]

theorem setSeq_setSeq (s : State) (u : SeqId) (q r : Seq) : setSeq (setSeq s u q) u r = setSeq s u r := by
  cases u <;> simp only [setSeq]
  split <;> simp_all

/-! ### Issue of an engine word -/

/-- What the machine keeps of an issued word is what its effect says of it. -/
theorem fly_eq_flown (s : State) (u : SeqId) (y : Sync) (i : Instr) (pc : Word) (r : Eng) :
    fly s u y i pc r = Safety.flown s u (r.pc.getD (pc + 8))
      { Safety.flight u y i pc with
        kind := r.kind, done := r.done, estop := r.estop, flags := r.flags, held := r.held, ends := r.ends, e := r.e, rank := r.rank
        late := r.late, stop := r.stop, descs := r.descs } := rfl

/-- Where a word may issue, the conditions of R24 hold. -/
theorem issueTests_none {s : State} {u : SeqId} {y : Sync} (h : Safety.issues s u y) : issueTests s u y = none := by
  obtain ⟨-, -, -, -, -, hsem, hpop, hpush⟩ := h
  have hn : ¬ (y.wthr ≠ 0 ∧ semVal s.core y.wsem < y.wthr.toNat) := by
    rintro ⟨h1, h2⟩; rcases hsem with h | h
    · exact h1 h
    · omega
  have push : ∀ k, tkoQueue u y.tko = some k → ¬ tokens s.core k ≥ Config.tokenSlots := fun k hk => by
    have := hpush k hk; simp only [Config.tokenSlots]; omega
  unfold issueTests
  simp only [hn, if_false]
  split
  · rename_i k hk
    have := hpop k hk
    simp only [beq_iff_eq, this, if_false]
    split
    · rename_i j hj; simp [push j hj]
    · rfl
  · split
    · rename_i j hj; simp [push j hj]
    · rfl

theorem foldl_add_map {α : Type} (f : α → Nat) (l : List α) (n : Nat) : l.foldl (fun n v => n + f v) n = n + (l.map f).sum := by
  induction l generalizing n with
  | nil => rfl
  | cons a l ih => simp [ih, Nat.add_assoc]

/-- Where a word may issue, nothing holds it back (R24, R26). -/
theorem issueWait_none {s : State} {u : SeqId} {y : Sync} (h : Safety.issues s u y) : issueWait s u y = none := by
  have hn : ¬ (y.wthr ≠ 0 ∧ semVal s.core y.wsem < Safety.claimed s u y.wsem + y.wthr.toNat) := by
    rintro ⟨h1, h2⟩; rcases h.2.2.2.2.2.1 with h | h
    · exact h1 h
    · omega
  simp only [Safety.claimed] at hn
  simp only [issueWait, issueTests_none h, foldl_add_map, Nat.zero_add, hn, if_false]

/-- An engine word whose conditions and checks hold takes its issue actions and its effect, and is in flight. -/
theorem issueWord_completes {i : Instr} {y : Sync} {v : Valid} {decode : State → SeqId → Res Unit}
    {ready : State → SeqId → Option SWait} {early : State → SeqId → Res Unit} {body : State → SeqId → Nat → Eng}
    {s : State} {u : SeqId} (h : Safety.issues s u y) (hv : v.ok u = true) (hd : decode s u = .ok ())
    (hr : ready s u = none) (he : early s u = .ok ())
    (hb : (body (issueTake s u y) u 0).err = none) (hw : (body (issueTake s u y) u 0).wait = none) :
    issueWord i y v decode ready early body s =
      .next (fly (body (issueTake s u y) u 0).s u y i (seqOf s u).pc (body (issueTake s u y) u 0)) := by
  obtain ⟨hu, hn, hf, hres, htok, -⟩ := id h
  have hc : (isCopy u && (y.tki != 0 || y.tko != 0)) = false := by
    cases hcp : isCopy u with
    | false => rfl
    | true => simp [(htok hcp).1, (htok hcp).2]
  simp only [issueWord, hu, hn, hf, hv, hc, hd, hres, issueWait_none h, hr, he, hb, hw, Option.isSome_none, Option.map_none,
    Option.getD_none, Bool.not_true, if_false, Bool.false_eq_true]

/-- An engine word always answers a next state at a sequencer that exists. -/
theorem issueWord_next {i : Instr} {y : Sync} {v : Valid} {decode : State → SeqId → Res Unit}
    {ready : State → SeqId → Option SWait} {early : State → SeqId → Res Unit} {body : State → SeqId → Nat → Eng}
    {s : State} {u : SeqId} (hu : s.unit = .seq u) (hn : noUnit u = false) :
    ∃ t, issueWord i y v decode ready early body s = .next t := by
  simp only [issueWord, hu, hn, Bool.false_eq_true, if_false]
  by_cases h1 : (seqOf s u).flight.isSome = true
  · exact ⟨_, if_pos h1⟩
  rw [if_neg h1]
  by_cases h2 : (!v.ok u) = true
  · exact ⟨_, if_pos h2⟩
  rw [if_neg h2]
  by_cases h3 : (isCopy u && (y.tki != 0 || y.tko != 0)) = true
  · exact ⟨_, if_pos h3⟩
  rw [if_neg h3]
  cases decode s u with
  | error c => exact ⟨_, rfl⟩
  | ok _ =>
    dsimp only
    split
    · exact ⟨_, rfl⟩
    · exact ⟨_, rfl⟩
    · cases early s u with
      | error c => exact ⟨_, rfl⟩
      | ok _ =>
        dsimp only
        split <;> split <;> exact ⟨_, rfl⟩

/-- A word of a sequencer that its opcode row does not name raises INSN.SEQ_MISMATCH. -/
theorem issueWord_mismatch {i : Instr} {y : Sync} {v : Valid} {decode : State → SeqId → Res Unit}
    {ready : State → SeqId → Option SWait} {early : State → SeqId → Res Unit} {body : State → SeqId → Nat → Eng}
    {s : State} {u : SeqId} (hu : s.unit = .seq u) (hn : noUnit u = false) (hf : (seqOf s u).flight = none)
    (hv : v.ok u = false) :
    issueWord i y v decode ready early body s = .next (stopWord s u i { cause := .seqMismatch }) := by
  simp [issueWord, hu, hn, hf, hv]

end Sys2Proof.Machine
end

