-- ==== Sys2Proof/Laws/PerInstr.lean ====
section
/-! SUPPORT. Per-instruction facts. `OneKind`: no instruction is both a scalar word and an engine word, so that the encoder
and the decoder of its kind are the only ones that concern it. -/

namespace Sys2Proof

/-- The instruction is not both a scalar word and an engine word. -/
def Laws.OneKind.Statement (i : Instr) : Prop := (i.isScalar && i.sync?.isSome) = false

theorem Laws.OneKind.add (x0 : BitVec 5) (x1 : BitVec 5) (x2 : BitVec 5) : Laws.OneKind.Statement (.add x0 x1 x2) := rfl
theorem Laws.OneKind.sub (x0 : BitVec 5) (x1 : BitVec 5) (x2 : BitVec 5) : Laws.OneKind.Statement (.sub x0 x1 x2) := rfl
theorem Laws.OneKind.mul (x0 : BitVec 5) (x1 : BitVec 5) (x2 : BitVec 5) : Laws.OneKind.Statement (.mul x0 x1 x2) := rfl
theorem Laws.OneKind.mulh (x0 : BitVec 5) (x1 : BitVec 5) (x2 : BitVec 5) : Laws.OneKind.Statement (.mulh x0 x1 x2) := rfl
theorem Laws.OneKind.mulhu (x0 : BitVec 5) (x1 : BitVec 5) (x2 : BitVec 5) : Laws.OneKind.Statement (.mulhu x0 x1 x2) := rfl
theorem Laws.OneKind.div (x0 : BitVec 5) (x1 : BitVec 5) (x2 : BitVec 5) : Laws.OneKind.Statement (.div x0 x1 x2) := rfl
theorem Laws.OneKind.divu (x0 : BitVec 5) (x1 : BitVec 5) (x2 : BitVec 5) : Laws.OneKind.Statement (.divu x0 x1 x2) := rfl
theorem Laws.OneKind.rem (x0 : BitVec 5) (x1 : BitVec 5) (x2 : BitVec 5) : Laws.OneKind.Statement (.rem x0 x1 x2) := rfl
theorem Laws.OneKind.remu (x0 : BitVec 5) (x1 : BitVec 5) (x2 : BitVec 5) : Laws.OneKind.Statement (.remu x0 x1 x2) := rfl
theorem Laws.OneKind.and (x0 : BitVec 5) (x1 : BitVec 5) (x2 : BitVec 5) : Laws.OneKind.Statement (.and x0 x1 x2) := rfl
theorem Laws.OneKind.or (x0 : BitVec 5) (x1 : BitVec 5) (x2 : BitVec 5) : Laws.OneKind.Statement (.or x0 x1 x2) := rfl
theorem Laws.OneKind.xor (x0 : BitVec 5) (x1 : BitVec 5) (x2 : BitVec 5) : Laws.OneKind.Statement (.xor x0 x1 x2) := rfl
theorem Laws.OneKind.sll (x0 : BitVec 5) (x1 : BitVec 5) (x2 : BitVec 5) : Laws.OneKind.Statement (.sll x0 x1 x2) := rfl
theorem Laws.OneKind.srl (x0 : BitVec 5) (x1 : BitVec 5) (x2 : BitVec 5) : Laws.OneKind.Statement (.srl x0 x1 x2) := rfl
theorem Laws.OneKind.sra (x0 : BitVec 5) (x1 : BitVec 5) (x2 : BitVec 5) : Laws.OneKind.Statement (.sra x0 x1 x2) := rfl
theorem Laws.OneKind.slt (x0 : BitVec 5) (x1 : BitVec 5) (x2 : BitVec 5) : Laws.OneKind.Statement (.slt x0 x1 x2) := rfl
theorem Laws.OneKind.sltu (x0 : BitVec 5) (x1 : BitVec 5) (x2 : BitVec 5) : Laws.OneKind.Statement (.sltu x0 x1 x2) := rfl
theorem Laws.OneKind.min (x0 : BitVec 5) (x1 : BitVec 5) (x2 : BitVec 5) : Laws.OneKind.Statement (.min x0 x1 x2) := rfl
theorem Laws.OneKind.max (x0 : BitVec 5) (x1 : BitVec 5) (x2 : BitVec 5) : Laws.OneKind.Statement (.max x0 x1 x2) := rfl
theorem Laws.OneKind.minu (x0 : BitVec 5) (x1 : BitVec 5) (x2 : BitVec 5) : Laws.OneKind.Statement (.minu x0 x1 x2) := rfl
theorem Laws.OneKind.maxu (x0 : BitVec 5) (x1 : BitVec 5) (x2 : BitVec 5) : Laws.OneKind.Statement (.maxu x0 x1 x2) := rfl
theorem Laws.OneKind.addi (x0 : BitVec 5) (x1 : BitVec 5) (x2 : BitVec 16) : Laws.OneKind.Statement (.addi x0 x1 x2) := rfl
theorem Laws.OneKind.andi (x0 : BitVec 5) (x1 : BitVec 5) (x2 : BitVec 16) : Laws.OneKind.Statement (.andi x0 x1 x2) := rfl
theorem Laws.OneKind.ori (x0 : BitVec 5) (x1 : BitVec 5) (x2 : BitVec 16) : Laws.OneKind.Statement (.ori x0 x1 x2) := rfl
theorem Laws.OneKind.xori (x0 : BitVec 5) (x1 : BitVec 5) (x2 : BitVec 16) : Laws.OneKind.Statement (.xori x0 x1 x2) := rfl
theorem Laws.OneKind.slti (x0 : BitVec 5) (x1 : BitVec 5) (x2 : BitVec 16) : Laws.OneKind.Statement (.slti x0 x1 x2) := rfl
theorem Laws.OneKind.slli (x0 : BitVec 5) (x1 : BitVec 5) (x2 : BitVec 6) : Laws.OneKind.Statement (.slli x0 x1 x2) := rfl
theorem Laws.OneKind.srli (x0 : BitVec 5) (x1 : BitVec 5) (x2 : BitVec 6) : Laws.OneKind.Statement (.srli x0 x1 x2) := rfl
theorem Laws.OneKind.srai (x0 : BitVec 5) (x1 : BitVec 5) (x2 : BitVec 6) : Laws.OneKind.Statement (.srai x0 x1 x2) := rfl
theorem Laws.OneKind.adpc (x0 : BitVec 5) (x1 : BitVec 21) : Laws.OneKind.Statement (.adpc x0 x1) := rfl
theorem Laws.OneKind.lih (x0 : BitVec 5) (x1 : BitVec 21) : Laws.OneKind.Statement (.lih x0 x1) := rfl
theorem Laws.OneKind.fadd (x0 : BitVec 5) (x1 : BitVec 5) (x2 : BitVec 5) (x3 : FP) (x4 : RmSel) : Laws.OneKind.Statement (.fadd x0 x1 x2 x3 x4) := rfl
theorem Laws.OneKind.fsub (x0 : BitVec 5) (x1 : BitVec 5) (x2 : BitVec 5) (x3 : FP) (x4 : RmSel) : Laws.OneKind.Statement (.fsub x0 x1 x2 x3 x4) := rfl
theorem Laws.OneKind.fmul (x0 : BitVec 5) (x1 : BitVec 5) (x2 : BitVec 5) (x3 : FP) (x4 : RmSel) : Laws.OneKind.Statement (.fmul x0 x1 x2 x3 x4) := rfl
theorem Laws.OneKind.fdiv (x0 : BitVec 5) (x1 : BitVec 5) (x2 : BitVec 5) (x3 : FP) (x4 : RmSel) : Laws.OneKind.Statement (.fdiv x0 x1 x2 x3 x4) := rfl
theorem Laws.OneKind.fsqrt (x0 : BitVec 5) (x1 : BitVec 5) (x2 : FP) (x3 : RmSel) : Laws.OneKind.Statement (.fsqrt x0 x1 x2 x3) := rfl
theorem Laws.OneKind.fmin (x0 : BitVec 5) (x1 : BitVec 5) (x2 : BitVec 5) (x3 : FP) : Laws.OneKind.Statement (.fmin x0 x1 x2 x3) := rfl
theorem Laws.OneKind.fmax (x0 : BitVec 5) (x1 : BitVec 5) (x2 : BitVec 5) (x3 : FP) : Laws.OneKind.Statement (.fmax x0 x1 x2 x3) := rfl
theorem Laws.OneKind.fcmp (x0 : BitVec 5) (x1 : BitVec 5) (x2 : BitVec 5) (x3 : FP) (x4 : FCond) : Laws.OneKind.Statement (.fcmp x0 x1 x2 x3 x4) := rfl
theorem Laws.OneKind.fcvt (x0 : BitVec 5) (x1 : BitVec 5) (x2 : STy) (x3 : STy) (x4 : RmSel) : Laws.OneKind.Statement (.fcvt x0 x1 x2 x3 x4) := rfl
theorem Laws.OneKind.fclass (x0 : BitVec 5) (x1 : BitVec 5) (x2 : FP) : Laws.OneKind.Statement (.fclass x0 x1 x2) := rfl
theorem Laws.OneKind.fma (x0 : BitVec 5) (x1 : BitVec 5) (x2 : BitVec 5) (x3 : BitVec 5) (x4 : FP) (x5 : RmSel) : Laws.OneKind.Statement (.fma x0 x1 x2 x3 x4 x5) := rfl
theorem Laws.OneKind.fms (x0 : BitVec 5) (x1 : BitVec 5) (x2 : BitVec 5) (x3 : BitVec 5) (x4 : FP) (x5 : RmSel) : Laws.OneKind.Statement (.fms x0 x1 x2 x3 x4 x5) := rfl
theorem Laws.OneKind.fnma (x0 : BitVec 5) (x1 : BitVec 5) (x2 : BitVec 5) (x3 : BitVec 5) (x4 : FP) (x5 : RmSel) : Laws.OneKind.Statement (.fnma x0 x1 x2 x3 x4 x5) := rfl
theorem Laws.OneKind.fnms (x0 : BitVec 5) (x1 : BitVec 5) (x2 : BitVec 5) (x3 : BitVec 5) (x4 : FP) (x5 : RmSel) : Laws.OneKind.Statement (.fnms x0 x1 x2 x3 x4 x5) := rfl
theorem Laws.OneKind.beq (x0 : BitVec 5) (x1 : BitVec 5) (x2 : BitVec 16) : Laws.OneKind.Statement (.beq x0 x1 x2) := rfl
theorem Laws.OneKind.bne (x0 : BitVec 5) (x1 : BitVec 5) (x2 : BitVec 16) : Laws.OneKind.Statement (.bne x0 x1 x2) := rfl
theorem Laws.OneKind.blt (x0 : BitVec 5) (x1 : BitVec 5) (x2 : BitVec 16) : Laws.OneKind.Statement (.blt x0 x1 x2) := rfl
theorem Laws.OneKind.bge (x0 : BitVec 5) (x1 : BitVec 5) (x2 : BitVec 16) : Laws.OneKind.Statement (.bge x0 x1 x2) := rfl
theorem Laws.OneKind.bltu (x0 : BitVec 5) (x1 : BitVec 5) (x2 : BitVec 16) : Laws.OneKind.Statement (.bltu x0 x1 x2) := rfl
theorem Laws.OneKind.bgeu (x0 : BitVec 5) (x1 : BitVec 5) (x2 : BitVec 16) : Laws.OneKind.Statement (.bgeu x0 x1 x2) := rfl
theorem Laws.OneKind.jal (x0 : BitVec 26) : Laws.OneKind.Statement (.jal x0) := rfl
theorem Laws.OneKind.jalr (x0 : BitVec 5) (x1 : BitVec 5) (x2 : BitVec 16) : Laws.OneKind.Statement (.jalr x0 x1 x2) := rfl
theorem Laws.OneKind.ld (x0 : BitVec 5) (x1 : BitVec 5) (x2 : MSize) (x3 : Policy) (x4 : BitVec 11) : Laws.OneKind.Statement (.ld x0 x1 x2 x3 x4) := rfl
theorem Laws.OneKind.ldz (x0 : BitVec 5) (x1 : BitVec 5) (x2 : MSize) (x3 : Policy) (x4 : BitVec 11) : Laws.OneKind.Statement (.ldz x0 x1 x2 x3 x4) := rfl
theorem Laws.OneKind.st (x0 : BitVec 5) (x1 : BitVec 5) (x2 : MSize) (x3 : Policy) (x4 : BitVec 11) : Laws.OneKind.Statement (.st x0 x1 x2 x3 x4) := rfl
theorem Laws.OneKind.cinv (x0 : BitVec 5) (x1 : BitVec 5) (x2 : BitVec 11) : Laws.OneKind.Statement (.cinv x0 x1 x2) := rfl
theorem Laws.OneKind.amo (x0 : AmoOp) (x1 : BitVec 5) (x2 : BitVec 5) (x3 : BitVec 5) (x4 : Bool) : Laws.OneKind.Statement (.amo x0 x1 x2 x3 x4) := rfl
theorem Laws.OneKind.cas (x0 : BitVec 5) (x1 : BitVec 5) (x2 : BitVec 5) (x3 : Bool) : Laws.OneKind.Statement (.cas x0 x1 x2 x3) := rfl
theorem Laws.OneKind.fence (x0 : Scope) : Laws.OneKind.Statement (.fence x0) := rfl
theorem Laws.OneKind.fencex (x0 : Path) (x1 : Path) (x2 : Scope) : Laws.OneKind.Statement (.fencex x0 x1 x2) := rfl
theorem Laws.OneKind.cbind (x0 : BitVec 5) (x1 : BitVec 5) (x2 : BitVec 5) : Laws.OneKind.Statement (.cbind x0 x1 x2) := rfl
theorem Laws.OneKind.cunb (x0 : BitVec 5) (x1 : BitVec 5) : Laws.OneKind.Statement (.cunb x0 x1) := rfl
theorem Laws.OneKind.cacq (x0 : BitVec 5) : Laws.OneKind.Statement (.cacq x0) := rfl
theorem Laws.OneKind.ctry (x0 : BitVec 5) (x1 : BitVec 5) : Laws.OneKind.Statement (.ctry x0 x1) := rfl
theorem Laws.OneKind.crel (x0 : BitVec 5) : Laws.OneKind.Statement (.crel x0) := rfl
theorem Laws.OneKind.rwin (x0 : BitVec 5) (x1 : BitVec 5) (x2 : BitVec 5) : Laws.OneKind.Statement (.rwin x0 x1 x2) := rfl
theorem Laws.OneKind.rwinCancel (x0 : BitVec 5) : Laws.OneKind.Statement (.rwinCancel x0) := rfl
theorem Laws.OneKind.redst (x0 : BitVec 5) (x1 : BitVec 5) (x2 : BitVec 5) (x3 : Ty) : Laws.OneKind.Statement (.redst x0 x1 x2 x3) := rfl
theorem Laws.OneKind.nmadd (x0 : BitVec 5) (x1 : BitVec 5) (x2 : Ty) : Laws.OneKind.Statement (.nmadd x0 x1 x2) := rfl
theorem Laws.OneKind.nmmin (x0 : BitVec 5) (x1 : BitVec 5) (x2 : Ty) : Laws.OneKind.Statement (.nmmin x0 x1 x2) := rfl
theorem Laws.OneKind.nmmax (x0 : BitVec 5) (x1 : BitVec 5) (x2 : Ty) : Laws.OneKind.Statement (.nmmax x0 x1 x2) := rfl
theorem Laws.OneKind.nmfen : Laws.OneKind.Statement (.nmfen) := rfl
theorem Laws.OneKind.ecmd (x0 : BitVec 5) (x1 : BitVec 5) (x2 : BitVec 5) : Laws.OneKind.Statement (.ecmd x0 x1 x2) := rfl
theorem Laws.OneKind.efen (x0 : BitVec 3) : Laws.OneKind.Statement (.efen x0) := rfl
theorem Laws.OneKind.eflush (x0 : BitVec 3) : Laws.OneKind.Statement (.eflush x0) := rfl
theorem Laws.OneKind.toks (x0 : BitVec 2) : Laws.OneKind.Statement (.toks x0) := rfl
theorem Laws.OneKind.tokr (x0 : BitVec 2) : Laws.OneKind.Statement (.tokr x0) := rfl
theorem Laws.OneKind.ssig (x0 : BitVec 5) (x1 : BitVec 8) (x2 : BitVec 8) : Laws.OneKind.Statement (.ssig x0 x1 x2) := rfl
theorem Laws.OneKind.swait (x0 : BitVec 8) (x1 : BitVec 8) : Laws.OneKind.Statement (.swait x0 x1) := rfl
theorem Laws.OneKind.srd (x0 : BitVec 5) (x1 : BitVec 8) : Laws.OneKind.Statement (.srd x0 x1) := rfl
theorem Laws.OneKind.sset (x0 : BitVec 5) (x1 : BitVec 8) : Laws.OneKind.Statement (.sset x0 x1) := rfl
theorem Laws.OneKind.semcfg (x0 : BitVec 5) (x1 : BitVec 8) : Laws.OneKind.Statement (.semcfg x0 x1) := rfl
theorem Laws.OneKind.wfe (x0 : BitVec 5) (x1 : BitVec 5) (x2 : BitVec 6) : Laws.OneKind.Statement (.wfe x0 x1 x2) := rfl
theorem Laws.OneKind.spawn (x0 : BitVec 5) : Laws.OneKind.Statement (.spawn x0) := rfl
theorem Laws.OneKind.join (x0 : BitVec 5) : Laws.OneKind.Statement (.join x0) := rfl
theorem Laws.OneKind.ndone (x0 : BitVec 5) (x1 : BitVec 5) : Laws.OneKind.Statement (.ndone x0 x1) := rfl
theorem Laws.OneKind.yield : Laws.OneKind.Statement (.yield) := rfl
theorem Laws.OneKind.texit : Laws.OneKind.Statement (.texit) := rfl
theorem Laws.OneKind.tbegin (x0 : BitVec 5) : Laws.OneKind.Statement (.tbegin x0) := rfl
theorem Laws.OneKind.tflag (x0 : BitVec 5) (x1 : BitVec 5) : Laws.OneKind.Statement (.tflag x0 x1) := rfl
theorem Laws.OneKind.pflush : Laws.OneKind.Statement (.pflush) := rfl
theorem Laws.OneKind.svote (x0 : BitVec 5) (x1 : BitVec 5) : Laws.OneKind.Statement (.svote x0 x1) := rfl
theorem Laws.OneKind.twait (x0 : BitVec 5) (x1 : BitVec 5) : Laws.OneKind.Statement (.twait x0 x1) := rfl
theorem Laws.OneKind.tstat (x0 : BitVec 5) : Laws.OneKind.Statement (.tstat x0) := rfl
theorem Laws.OneKind.csrr (x0 : BitVec 5) (x1 : BitVec 12) : Laws.OneKind.Statement (.csrr x0 x1) := rfl
theorem Laws.OneKind.csrw (x0 : BitVec 12) (x1 : BitVec 5) : Laws.OneKind.Statement (.csrw x0 x1) := rfl
theorem Laws.OneKind.trap (x0 : BitVec 8) : Laws.OneKind.Statement (.trap x0) := rfl
theorem Laws.OneKind.tret : Laws.OneKind.Statement (.tret) := rfl
theorem Laws.OneKind.tretSkip : Laws.OneKind.Statement (.tretSkip) := rfl
theorem Laws.OneKind.pgreq (x0 : BitVec 5) (x1 : BitVec 5) (x2 : BitVec 5) : Laws.OneKind.Statement (.pgreq x0 x1 x2) := rfl
theorem Laws.OneKind.enop (x0 : Sync) : Laws.OneKind.Statement (.enop x0) := rfl
theorem Laws.OneKind.estop (x0 : Sync) : Laws.OneKind.Statement (.estop x0) := rfl
theorem Laws.OneKind.ejmp (x0 : Sync) (x1 : BitVec 29) : Laws.OneKind.Statement (.ejmp x0 x1) := rfl
theorem Laws.OneKind.ebr (x0 : Sync) (x1 : ECond) (x2 : BitVec 4) (x3 : BitVec 4) (x4 : BitVec 18) : Laws.OneKind.Statement (.ebr x0 x1 x2 x3 x4) := rfl
theorem Laws.OneKind.eloop (x0 : Sync) (x1 : BitVec 4) (x2 : BitVec 25) : Laws.OneKind.Statement (.eloop x0 x1 x2) := rfl
theorem Laws.OneKind.loop (x0 : Sync) (x1 : BitVec 4) (x2 : BitVec 25) : Laws.OneKind.Statement (.loop x0 x1 x2) := rfl
theorem Laws.OneKind.iset (x0 : Sync) (x1 : BitVec 4) (x2 : BitVec 25) : Laws.OneKind.Statement (.iset x0 x1 x2) := rfl
theorem Laws.OneKind.iadd (x0 : Sync) (x1 : BitVec 4) (x2 : BitVec 25) : Laws.OneKind.Statement (.iadd x0 x1 x2) := rfl
theorem Laws.OneKind.ild (x0 : Sync) (x1 : BitVec 4) (x2 : BitVec 4) (x3 : BitVec 21) : Laws.OneKind.Statement (.ild x0 x1 x2 x3) := rfl
theorem Laws.OneKind.rbset (x0 : Sync) (x1 : BitVec 5) (x2 : BitVec 3) : Laws.OneKind.Statement (.rbset x0 x1 x2) := rfl
theorem Laws.OneKind.gcfg (x0 : Sync) (x1 : BitVec 4) (x2 : BitVec 4) (x3 : BitVec 21) : Laws.OneKind.Statement (.gcfg x0 x1 x2 x3) := rfl
theorem Laws.OneKind.gset (x0 : Sync) (x1 : BitVec 4) (x2 : GField) (x3 : BitVec 4) : Laws.OneKind.Statement (.gset x0 x1 x2 x3) := rfl
theorem Laws.OneKind.lds (x0 : Sync) (x1 : XOp) : Laws.OneKind.Statement (.lds x0 x1) := rfl
theorem Laws.OneKind.sts (x0 : Sync) (x1 : XOp) : Laws.OneKind.Statement (.sts x0 x1) := rfl
theorem Laws.OneKind.mcast (x0 : Sync) (x1 : XOp) : Laws.OneKind.Statement (.mcast x0 x1) := rfl
theorem Laws.OneKind.bcopy (x0 : Sync) (x1 : XOp) : Laws.OneKind.Statement (.bcopy x0 x1) := rfl
theorem Laws.OneKind.gath (x0 : Sync) (x1 : GOp) : Laws.OneKind.Statement (.gath x0 x1) := rfl
theorem Laws.OneKind.scat (x0 : Sync) (x1 : GOp) : Laws.OneKind.Statement (.scat x0 x1) := rfl
theorem Laws.OneKind.redstEngine (x0 : Sync) (x1 : XOp) (x2 : BitVec 4) : Laws.OneKind.Statement (.redstEngine x0 x1 x2) := rfl
theorem Laws.OneKind.nmaddEngine (x0 : Sync) (x1 : XOp) : Laws.OneKind.Statement (.nmaddEngine x0 x1) := rfl
theorem Laws.OneKind.nmminEngine (x0 : Sync) (x1 : XOp) : Laws.OneKind.Statement (.nmminEngine x0 x1) := rfl
theorem Laws.OneKind.nmmaxEngine (x0 : Sync) (x1 : XOp) : Laws.OneKind.Statement (.nmmaxEngine x0 x1) := rfl
theorem Laws.OneKind.nmfenEngine (x0 : Sync) : Laws.OneKind.Statement (.nmfenEngine x0) := rfl
theorem Laws.OneKind.fencexEngine (x0 : Sync) (x1 : Path) (x2 : Path) (x3 : Scope) : Laws.OneKind.Statement (.fencexEngine x0 x1 x2 x3) := rfl
theorem Laws.OneKind.mwld (x0 : Sync) (x1 : BitVec 4) (x2 : BitVec 4) (x3 : Bool) (x4 : Bool) : Laws.OneKind.Statement (.mwld x0 x1 x2 x3 x4) := rfl
theorem Laws.OneKind.mmaF (x0 : Sync) (x1 : MmaOp) : Laws.OneKind.Statement (.mmaF x0 x1) := rfl
theorem Laws.OneKind.mmaB (x0 : Sync) (x1 : MmaOp) : Laws.OneKind.Statement (.mmaB x0 x1) := rfl
theorem Laws.OneKind.mmaG (x0 : Sync) (x1 : MmaOp) : Laws.OneKind.Statement (.mmaG x0 x1) := rfl
theorem Laws.OneKind.mdrain (x0 : Sync) (x1 : DrainOp) : Laws.OneKind.Statement (.mdrain x0 x1) := rfl
theorem Laws.OneKind.mzero (x0 : Sync) (x1 : BitVec 5) (x2 : Bool) : Laws.OneKind.Statement (.mzero x0 x1 x2) := rfl
theorem Laws.OneKind.msave (x0 : Sync) (x1 : MTgt) (x2 : BitVec 7) : Laws.OneKind.Statement (.msave x0 x1 x2) := rfl
theorem Laws.OneKind.mrest (x0 : Sync) (x1 : MTgt) (x2 : BitVec 7) : Laws.OneKind.Statement (.mrest x0 x1 x2) := rfl
theorem Laws.OneKind.matrixWordComplete : Laws.OneKind.Statement (.matrixWordComplete) := rfl
theorem Laws.OneKind.vadd (x0 : Sync) (x1 : VOp) : Laws.OneKind.Statement (.vadd x0 x1) := rfl
theorem Laws.OneKind.vsub (x0 : Sync) (x1 : VOp) : Laws.OneKind.Statement (.vsub x0 x1) := rfl
theorem Laws.OneKind.vmul (x0 : Sync) (x1 : VOp) : Laws.OneKind.Statement (.vmul x0 x1) := rfl
theorem Laws.OneKind.vfma (x0 : Sync) (x1 : VOp) : Laws.OneKind.Statement (.vfma x0 x1) := rfl
theorem Laws.OneKind.vfms (x0 : Sync) (x1 : VOp) : Laws.OneKind.Statement (.vfms x0 x1) := rfl
theorem Laws.OneKind.vfnma (x0 : Sync) (x1 : VOp) : Laws.OneKind.Statement (.vfnma x0 x1) := rfl
theorem Laws.OneKind.vmin (x0 : Sync) (x1 : VOp) : Laws.OneKind.Statement (.vmin x0 x1) := rfl
theorem Laws.OneKind.vmax (x0 : Sync) (x1 : VOp) : Laws.OneKind.Statement (.vmax x0 x1) := rfl
theorem Laws.OneKind.vabs (x0 : Sync) (x1 : UOp) : Laws.OneKind.Statement (.vabs x0 x1) := rfl
theorem Laws.OneKind.vneg (x0 : Sync) (x1 : UOp) : Laws.OneKind.Statement (.vneg x0 x1) := rfl
theorem Laws.OneKind.vsadd (x0 : Sync) (x1 : VOp) : Laws.OneKind.Statement (.vsadd x0 x1) := rfl
theorem Laws.OneKind.vssub (x0 : Sync) (x1 : VOp) : Laws.OneKind.Statement (.vssub x0 x1) := rfl
theorem Laws.OneKind.vmulh (x0 : Sync) (x1 : VOp) : Laws.OneKind.Statement (.vmulh x0 x1) := rfl
theorem Laws.OneKind.vclamp (x0 : Sync) (x1 : VOp) : Laws.OneKind.Statement (.vclamp x0 x1) := rfl
theorem Laws.OneKind.vcpsgn (x0 : Sync) (x1 : VOp) : Laws.OneKind.Statement (.vcpsgn x0 x1) := rfl
theorem Laws.OneKind.vand (x0 : Sync) (x1 : VOp) : Laws.OneKind.Statement (.vand x0 x1) := rfl
theorem Laws.OneKind.vor (x0 : Sync) (x1 : VOp) : Laws.OneKind.Statement (.vor x0 x1) := rfl
theorem Laws.OneKind.vxor (x0 : Sync) (x1 : VOp) : Laws.OneKind.Statement (.vxor x0 x1) := rfl
theorem Laws.OneKind.vnot (x0 : Sync) (x1 : UOp) : Laws.OneKind.Statement (.vnot x0 x1) := rfl
theorem Laws.OneKind.vsll (x0 : Sync) (x1 : VOp) : Laws.OneKind.Statement (.vsll x0 x1) := rfl
theorem Laws.OneKind.vsrl (x0 : Sync) (x1 : VOp) : Laws.OneKind.Statement (.vsrl x0 x1) := rfl
theorem Laws.OneKind.vsra (x0 : Sync) (x1 : VOp) : Laws.OneKind.Statement (.vsra x0 x1) := rfl
theorem Laws.OneKind.vpopc (x0 : Sync) (x1 : UOp) : Laws.OneKind.Statement (.vpopc x0 x1) := rfl
theorem Laws.OneKind.vcmpeq (x0 : Sync) (x1 : COp) : Laws.OneKind.Statement (.vcmpeq x0 x1) := rfl
theorem Laws.OneKind.vcmpne (x0 : Sync) (x1 : COp) : Laws.OneKind.Statement (.vcmpne x0 x1) := rfl
theorem Laws.OneKind.vcmplt (x0 : Sync) (x1 : COp) : Laws.OneKind.Statement (.vcmplt x0 x1) := rfl
theorem Laws.OneKind.vcmple (x0 : Sync) (x1 : COp) : Laws.OneKind.Statement (.vcmple x0 x1) := rfl
theorem Laws.OneKind.vcmpun (x0 : Sync) (x1 : COp) : Laws.OneKind.Statement (.vcmpun x0 x1) := rfl
theorem Laws.OneKind.pand (x0 : Sync) (x1 : BitVec 4) (x2 : BitVec 4) (x3 : BitVec 4) : Laws.OneKind.Statement (.pand x0 x1 x2 x3) := rfl
theorem Laws.OneKind.por (x0 : Sync) (x1 : BitVec 4) (x2 : BitVec 4) (x3 : BitVec 4) : Laws.OneKind.Statement (.por x0 x1 x2 x3) := rfl
theorem Laws.OneKind.pxor (x0 : Sync) (x1 : BitVec 4) (x2 : BitVec 4) (x3 : BitVec 4) : Laws.OneKind.Statement (.pxor x0 x1 x2 x3) := rfl
theorem Laws.OneKind.pnot (x0 : Sync) (x1 : BitVec 4) (x2 : BitVec 4) : Laws.OneKind.Statement (.pnot x0 x1 x2) := rfl
theorem Laws.OneKind.pset (x0 : Sync) (x1 : Ty) (x2 : BitVec 4) (x3 : BitVec 4) : Laws.OneKind.Statement (.pset x0 x1 x2 x3) := rfl
theorem Laws.OneKind.pcnt (x0 : Sync) (x1 : Ty) (x2 : BitVec 4) (x3 : BitVec 4) (x4 : BitVec 4) : Laws.OneKind.Statement (.pcnt x0 x1 x2 x3 x4) := rfl
theorem Laws.OneKind.pfirst (x0 : Sync) (x1 : Ty) (x2 : BitVec 4) (x3 : BitVec 4) (x4 : BitVec 4) : Laws.OneKind.Statement (.pfirst x0 x1 x2 x3 x4) := rfl
theorem Laws.OneKind.vcvt (x0 : Sync) (x1 : CvtOp) : Laws.OneKind.Statement (.vcvt x0 x1) := rfl
theorem Laws.OneKind.vquant (x0 : Sync) (x1 : CvtOp) : Laws.OneKind.Statement (.vquant x0 x1) := rfl
theorem Laws.OneKind.vmov (x0 : Sync) (x1 : UOp) : Laws.OneKind.Statement (.vmov x0 x1) := rfl
theorem Laws.OneKind.vbcast (x0 : Sync) (x1 : UOp) (x2 : BitVec 4) : Laws.OneKind.Statement (.vbcast x0 x1 x2) := rfl
theorem Laws.OneKind.vperm (x0 : Sync) (x1 : VOp) : Laws.OneKind.Statement (.vperm x0 x1) := rfl
theorem Laws.OneKind.vslide (x0 : Sync) (x1 : VOp) : Laws.OneKind.Statement (.vslide x0 x1) := rfl
theorem Laws.OneKind.vsel (x0 : Sync) (x1 : VOp) : Laws.OneKind.Statement (.vsel x0 x1) := rfl
theorem Laws.OneKind.vredsum (x0 : Sync) (x1 : UOp) : Laws.OneKind.Statement (.vredsum x0 x1) := rfl
theorem Laws.OneKind.vredmax (x0 : Sync) (x1 : UOp) : Laws.OneKind.Statement (.vredmax x0 x1) := rfl
theorem Laws.OneKind.vredmin (x0 : Sync) (x1 : UOp) : Laws.OneKind.Statement (.vredmin x0 x1) := rfl
theorem Laws.OneKind.vscan (x0 : Sync) (x1 : UOp) : Laws.OneKind.Statement (.vscan x0 x1) := rfl
theorem Laws.OneKind.vsort (x0 : Sync) (x1 : VOp) : Laws.OneKind.Statement (.vsort x0 x1) := rfl
theorem Laws.OneKind.vtopk (x0 : Sync) (x1 : VOp) : Laws.OneKind.Statement (.vtopk x0 x1) := rfl
theorem Laws.OneKind.vcompact (x0 : Sync) (x1 : UOp) : Laws.OneKind.Statement (.vcompact x0 x1) := rfl
theorem Laws.OneKind.viota (x0 : Sync) (x1 : Ty) (x2 : BitVec 7) (x3 : BitVec 4) (x4 : BitVec 4) : Laws.OneKind.Statement (.viota x0 x1 x2 x3 x4) := rfl
theorem Laws.OneKind.vrand (x0 : Sync) (x1 : Ty) (x2 : BitVec 7) (x3 : BitVec 4) (x4 : BitVec 4) (x5 : BitVec 4) : Laws.OneKind.Statement (.vrand x0 x1 x2 x3 x4 x5) := rfl
theorem Laws.OneKind.vroute (x0 : Sync) (x1 : Ty) (x2 : BitVec 7) (x3 : BitVec 7) (x4 : BitVec 4) (x5 : BitVec 4) : Laws.OneKind.Statement (.vroute x0 x1 x2 x3 x4 x5) := rfl
theorem Laws.OneKind.vchk (x0 : Sync) (x1 : Ty) (x2 : BitVec 4) (x3 : BitVec 7) (x4 : BitVec 4) (x5 : BitVec 4) : Laws.OneKind.Statement (.vchk x0 x1 x2 x3 x4 x5) := rfl
theorem Laws.OneKind.vflg (x0 : Sync) (x1 : BitVec 4) (x2 : FlagSel) (x3 : BitVec 4) : Laws.OneKind.Statement (.vflg x0 x1 x2 x3) := rfl
theorem Laws.OneKind.vsmrg (x0 : Sync) (x1 : BitVec 7) (x2 : BitVec 7) (x3 : HeadDim) : Laws.OneKind.Statement (.vsmrg x0 x1 x2 x3) := rfl
theorem Laws.OneKind.vexp (x0 : Sync) (x1 : UOp) : Laws.OneKind.Statement (.vexp x0 x1) := rfl
theorem Laws.OneKind.vexp2 (x0 : Sync) (x1 : UOp) : Laws.OneKind.Statement (.vexp2 x0 x1) := rfl
theorem Laws.OneKind.vexpm1 (x0 : Sync) (x1 : UOp) : Laws.OneKind.Statement (.vexpm1 x0 x1) := rfl
theorem Laws.OneKind.vlog (x0 : Sync) (x1 : UOp) : Laws.OneKind.Statement (.vlog x0 x1) := rfl
theorem Laws.OneKind.vlog2 (x0 : Sync) (x1 : UOp) : Laws.OneKind.Statement (.vlog2 x0 x1) := rfl
theorem Laws.OneKind.vlog1p (x0 : Sync) (x1 : UOp) : Laws.OneKind.Statement (.vlog1p x0 x1) := rfl
theorem Laws.OneKind.vrcp (x0 : Sync) (x1 : UOp) : Laws.OneKind.Statement (.vrcp x0 x1) := rfl
theorem Laws.OneKind.vrsqrt (x0 : Sync) (x1 : UOp) : Laws.OneKind.Statement (.vrsqrt x0 x1) := rfl
theorem Laws.OneKind.vsqrt (x0 : Sync) (x1 : UOp) : Laws.OneKind.Statement (.vsqrt x0 x1) := rfl
theorem Laws.OneKind.vdiv (x0 : Sync) (x1 : VOp) : Laws.OneKind.Statement (.vdiv x0 x1) := rfl
theorem Laws.OneKind.vsin (x0 : Sync) (x1 : UOp) : Laws.OneKind.Statement (.vsin x0 x1) := rfl
theorem Laws.OneKind.vcos (x0 : Sync) (x1 : UOp) : Laws.OneKind.Statement (.vcos x0 x1) := rfl
theorem Laws.OneKind.vtanh (x0 : Sync) (x1 : UOp) : Laws.OneKind.Statement (.vtanh x0 x1) := rfl
theorem Laws.OneKind.verf (x0 : Sync) (x1 : UOp) : Laws.OneKind.Statement (.verf x0 x1) := rfl
theorem Laws.OneKind.vsigm (x0 : Sync) (x1 : UOp) : Laws.OneKind.Statement (.vsigm x0 x1) := rfl
theorem Laws.OneKind.vexpa (x0 : Sync) (x1 : UOp) : Laws.OneKind.Statement (.vexpa x0 x1) := rfl
theorem Laws.OneKind.vexp2a (x0 : Sync) (x1 : UOp) : Laws.OneKind.Statement (.vexp2a x0 x1) := rfl
theorem Laws.OneKind.vexpm1a (x0 : Sync) (x1 : UOp) : Laws.OneKind.Statement (.vexpm1a x0 x1) := rfl
theorem Laws.OneKind.vloga (x0 : Sync) (x1 : UOp) : Laws.OneKind.Statement (.vloga x0 x1) := rfl
theorem Laws.OneKind.vlog2a (x0 : Sync) (x1 : UOp) : Laws.OneKind.Statement (.vlog2a x0 x1) := rfl
theorem Laws.OneKind.vlog1pa (x0 : Sync) (x1 : UOp) : Laws.OneKind.Statement (.vlog1pa x0 x1) := rfl
theorem Laws.OneKind.vrcpa (x0 : Sync) (x1 : UOp) : Laws.OneKind.Statement (.vrcpa x0 x1) := rfl
theorem Laws.OneKind.vrsqrta (x0 : Sync) (x1 : UOp) : Laws.OneKind.Statement (.vrsqrta x0 x1) := rfl
theorem Laws.OneKind.vsqrta (x0 : Sync) (x1 : UOp) : Laws.OneKind.Statement (.vsqrta x0 x1) := rfl
theorem Laws.OneKind.vdiva (x0 : Sync) (x1 : VOp) : Laws.OneKind.Statement (.vdiva x0 x1) := rfl
theorem Laws.OneKind.vsina (x0 : Sync) (x1 : UOp) : Laws.OneKind.Statement (.vsina x0 x1) := rfl
theorem Laws.OneKind.vcosa (x0 : Sync) (x1 : UOp) : Laws.OneKind.Statement (.vcosa x0 x1) := rfl
theorem Laws.OneKind.vtanha (x0 : Sync) (x1 : UOp) : Laws.OneKind.Statement (.vtanha x0 x1) := rfl
theorem Laws.OneKind.verfa (x0 : Sync) (x1 : UOp) : Laws.OneKind.Statement (.verfa x0 x1) := rfl
theorem Laws.OneKind.vsigma (x0 : Sync) (x1 : UOp) : Laws.OneKind.Statement (.vsigma x0 x1) := rfl
theorem Laws.OneKind.hemPhaseEnd : Laws.OneKind.Statement (.hemPhaseEnd) := rfl
theorem Laws.OneKind.fusedSoftmaxGroup (x0 : FusedOp) : Laws.OneKind.Statement (.fusedSoftmaxGroup x0) := rfl
theorem Laws.OneKind.vaddF64 (x0 : Sync) (x1 : WOp) : Laws.OneKind.Statement (.vaddF64 x0 x1) := rfl
theorem Laws.OneKind.vsubF64 (x0 : Sync) (x1 : WOp) : Laws.OneKind.Statement (.vsubF64 x0 x1) := rfl
theorem Laws.OneKind.vmulF64 (x0 : Sync) (x1 : WOp) : Laws.OneKind.Statement (.vmulF64 x0 x1) := rfl
theorem Laws.OneKind.vfmaF64 (x0 : Sync) (x1 : WOp) : Laws.OneKind.Statement (.vfmaF64 x0 x1) := rfl
theorem Laws.OneKind.f64OtherArithmetic (x0 : Sync) (x1 : F64Op) (x2 : WOp) : Laws.OneKind.Statement (.f64OtherArithmetic x0 x1 x2) := rfl
theorem Laws.OneKind.vcvtF64 (x0 : Sync) (x1 : Cvt64) (x2 : BitVec 7) (x3 : BitVec 7) (x4 : RmSel) (x5 : BitVec 4) : Laws.OneKind.Statement (.vcvtF64 x0 x1 x2 x3 x4 x5) := rfl
theorem Laws.OneKind.f64Elementary (x0 : Sync) (x1 : Fn) (x2 : WOp) : Laws.OneKind.Statement (.f64Elementary x0 x1 x2) := rfl
theorem Laws.OneKind.i64Arithmetic (x0 : Sync) (x1 : I64Op) (x2 : WOp) : Laws.OneKind.Statement (.i64Arithmetic x0 x1 x2) := rfl
theorem Laws.OneKind.qpost (x0 : Sync) (x1 : BitVec 7) (x2 : BitVec 4) (x3 : BitVec 4) (x4 : BitVec 3) : Laws.OneKind.Statement (.qpost x0 x1 x2 x3 x4) := rfl
theorem Laws.OneKind.kapp (x0 : Sync) (x1 : XOp) (x2 : BitVec 4) : Laws.OneKind.Statement (.kapp x0 x1 x2) := rfl
theorem Laws.OneKind.xfer (x0 : Sync) (x1 : XOp) (x2 : BitVec 4) : Laws.OneKind.Statement (.xfer x0 x1 x2) := rfl
theorem Laws.OneKind.rsig (x0 : Sync) (x1 : BitVec 8) (x2 : BitVec 2) (x3 : BitVec 4) : Laws.OneKind.Statement (.rsig x0 x1 x2 x3) := rfl
theorem Laws.OneKind.wordRetire (x0 : SeqId) : Laws.OneKind.Statement (.wordRetire x0) := rfl
theorem Laws.OneKind.copyEngineStart (x0 : Nat) : Laws.OneKind.Statement (.copyEngineStart x0) := rfl
theorem Laws.OneKind.nOperationPerform (x0 : Nat) : Laws.OneKind.Statement (.nOperationPerform x0) := rfl
theorem Laws.OneKind.kappWriteThrough (x0 : Nat) : Laws.OneKind.Statement (.kappWriteThrough x0) := rfl
theorem Laws.OneKind.bankScanComplete (x0 : Nat) (x1 : Nat) (x2 : EccOutcome) : Laws.OneKind.Statement (.bankScanComplete x0 x1 x2) := rfl
theorem Laws.OneKind.triplePush (x0 : Nat) : Laws.OneKind.Statement (.triplePush x0) := rfl
theorem Laws.OneKind.pAccessReceive (x0 : PAccess) : Laws.OneKind.Statement (.pAccessReceive x0) := rfl
theorem Laws.OneKind.peerPageInstall (x0 : BitVec 12) (x1 : Word) (x2 : List Byte) (x3 : List Nat) : Laws.OneKind.Statement (.peerPageInstall x0 x1 x2 x3) := rfl
theorem Laws.OneKind.pinEnd (x0 : BitVec 12) (x1 : Word) : Laws.OneKind.Statement (.pinEnd x0 x1) := rfl
theorem Laws.OneKind.waitTimeout (x0 : UnitId) : Laws.OneKind.Statement (.waitTimeout x0) := rfl
theorem Laws.OneKind.wfeTimer : Laws.OneKind.Statement (.wfeTimer) := rfl
theorem Laws.OneKind.trapDelivery (x0 : SeqId) : Laws.OneKind.Statement (.trapDelivery x0) := rfl
theorem Laws.OneKind.launchRecordRead (x0 : Nat) : Laws.OneKind.Statement (.launchRecordRead x0) := rfl
theorem Laws.OneKind.taskDispatch (x0 : Nat) (x1 : Nat) : Laws.OneKind.Statement (.taskDispatch x0 x1) := rfl
theorem Laws.OneKind.cLaunchStart (x0 : Nat) : Laws.OneKind.Statement (.cLaunchStart x0) := rfl
theorem Laws.OneKind.checkStartDelay : Laws.OneKind.Statement (.checkStartDelay) := rfl
theorem Laws.OneKind.priorityPreemption : Laws.OneKind.Statement (.priorityPreemption) := rfl
theorem Laws.OneKind.contextSave : Laws.OneKind.Statement (.contextSave) := rfl
theorem Laws.OneKind.qtailWrite (x0 : Nat) (x1 : Word) : Laws.OneKind.Statement (.qtailWrite x0 x1) := rfl
theorem Laws.OneKind.registerWrite (x0 : Nat) (x1 : Word) (x2 : Bool) : Laws.OneKind.Statement (.registerWrite x0 x1 x2) := rfl
theorem Laws.OneKind.sealFrames (x0 : Word) (x1 : Bool) : Laws.OneKind.Statement (.sealFrames x0 x1) := rfl
theorem Laws.OneKind.unsealFrames (x0 : Word) (x1 : Bool) : Laws.OneKind.Statement (.unsealFrames x0 x1) := rfl
theorem Laws.OneKind.sealcmdDone : Laws.OneKind.Statement (.sealcmdDone) := rfl
theorem Laws.OneKind.tlbInvalidate (x0 : Word) : Laws.OneKind.Statement (.tlbInvalidate x0) := rfl
theorem Laws.OneKind.tlbInvalidateDone : Laws.OneKind.Statement (.tlbInvalidateDone) := rfl
theorem Laws.OneKind.swapPair (x0 : Word) (x1 : Bool) : Laws.OneKind.Statement (.swapPair x0 x1) := rfl
theorem Laws.OneKind.swapLineExchange : Laws.OneKind.Statement (.swapLineExchange) := rfl
theorem Laws.OneKind.swapPairDone : Laws.OneKind.Statement (.swapPairDone) := rfl
theorem Laws.OneKind.pgdone (x0 : Word) (x1 : Bool) : Laws.OneKind.Statement (.pgdone x0 x1) := rfl
theorem Laws.OneKind.elogtailWrite (x0 : Word) : Laws.OneKind.Statement (.elogtailWrite x0) := rfl
theorem Laws.OneKind.firmwareLoad (x0 : Word) (x1 : Bool) : Laws.OneKind.Statement (.firmwareLoad x0 x1) := rfl
theorem Laws.OneKind.firmwareVerifyDone (x0 : Nat) : Laws.OneKind.Statement (.firmwareVerifyDone x0) := rfl
theorem Laws.OneKind.seamcfgWrite (x0 : Word) (x1 : Bool) : Laws.OneKind.Statement (.seamcfgWrite x0 x1) := rfl
theorem Laws.OneKind.localAbortPassEnd : Laws.OneKind.Statement (.localAbortPassEnd) := rfl
theorem Laws.OneKind.seamres (x0 : Word) (x1 : Bool) : Laws.OneKind.Statement (.seamres x0 x1) := rfl
theorem Laws.OneKind.pleatcfgWrite (x0 : Nat) (x1 : Word) (x2 : Bool) : Laws.OneKind.Statement (.pleatcfgWrite x0 x1 x2) := rfl
theorem Laws.OneKind.pleatInitDone (x0 : Nat) : Laws.OneKind.Statement (.pleatInitDone x0) := rfl
theorem Laws.OneKind.pleatScrubPass (x0 : Nat) : Laws.OneKind.Statement (.pleatScrubPass x0) := rfl
theorem Laws.OneKind.opening (x0 : SeamMsg) : Laws.OneKind.Statement (.opening x0) := rfl
theorem Laws.OneKind.vote (x0 : SeamMsg) : Laws.OneKind.Statement (.vote x0) := rfl
theorem Laws.OneKind.decision (x0 : SeamMsg) : Laws.OneKind.Statement (.decision x0) := rfl
theorem Laws.OneKind.query (x0 : SeamMsg) : Laws.OneKind.Statement (.query x0) := rfl
theorem Laws.OneKind.seamVoteTimer : Laws.OneKind.Statement (.seamVoteTimer) := rfl
theorem Laws.OneKind.decisionTimeout : Laws.OneKind.Statement (.decisionTimeout) := rfl
theorem Laws.OneKind.twaitDeadline : Laws.OneKind.Statement (.twaitDeadline) := rfl
theorem Laws.OneKind.windowWrapTimer : Laws.OneKind.Statement (.windowWrapTimer) := rfl
theorem Laws.OneKind.flitReceive (x0 : Nat) (x1 : BitVec 12) (x2 : Bool) (x3 : LinkMsg) : Laws.OneKind.Statement (.flitReceive x0 x1 x2 x3) := rfl
theorem Laws.OneKind.flitReplay (x0 : Nat) (x1 : BitVec 12) : Laws.OneKind.Statement (.flitReplay x0 x1) := rfl
theorem Laws.OneKind.portRetrain (x0 : Nat) (x1 : Bool) : Laws.OneKind.Statement (.portRetrain x0 x1) := rfl
theorem Laws.OneKind.laneRetired (x0 : Nat) (x1 : Nat) : Laws.OneKind.Statement (.laneRetired x0 x1) := rfl
theorem Laws.OneKind.peerTimeout (x0 : UnitId) : Laws.OneKind.Statement (.peerTimeout x0) := rfl
theorem Laws.OneKind.peerLost (x0 : Nat) : Laws.OneKind.Statement (.peerLost x0) := rfl
theorem Laws.OneKind.keyUpdate (x0 : Nat) (x1 : Bool) : Laws.OneKind.Statement (.keyUpdate x0 x1) := rfl
theorem Laws.OneKind.spdmRequest (x0 : SpdmReq) : Laws.OneKind.Statement (.spdmRequest x0) := rfl
theorem Laws.OneKind.lockInterface : Laws.OneKind.Statement (.lockInterface) := rfl
theorem Laws.OneKind.getDeviceInterfaceReport : Laws.OneKind.Statement (.getDeviceInterfaceReport) := rfl
theorem Laws.OneKind.getDeviceInterfaceState : Laws.OneKind.Statement (.getDeviceInterfaceState) := rfl
theorem Laws.OneKind.startInterface : Laws.OneKind.Statement (.startInterface) := rfl
theorem Laws.OneKind.stopInterface : Laws.OneKind.Statement (.stopInterface) := rfl
theorem Laws.OneKind.sealedTeardownDone : Laws.OneKind.Statement (.sealedTeardownDone) := rfl
theorem Laws.OneKind.hostMemoryRead (x0 : HostAddr) (x1 : Nat) (x2 : Bool) : Laws.OneKind.Statement (.hostMemoryRead x0 x1 x2) := rfl
theorem Laws.OneKind.hostMemoryWrite (x0 : HostAddr) (x1 : List Byte) (x2 : Bool) : Laws.OneKind.Statement (.hostMemoryWrite x0 x1 x2) := rfl
theorem Laws.OneKind.refresh (x0 : Nat) (x1 : Nat) (x2 : Nat) : Laws.OneKind.Statement (.refresh x0 x1 x2) := rfl
theorem Laws.OneKind.patrolScrub (x0 : Nat) (x1 : EccOutcome) : Laws.OneKind.Statement (.patrolScrub x0 x1) := rfl
theorem Laws.OneKind.selfTest (x0 : TestUnit) (x1 : TestResult) : Laws.OneKind.Statement (.selfTest x0 x1) := rfl
theorem Laws.OneKind.thermal (x0 : Nat) : Laws.OneKind.Statement (.thermal x0) := rfl
theorem Laws.OneKind.power : Laws.OneKind.Statement (.power) := rfl
theorem Laws.OneKind.firmware : Laws.OneKind.Statement (.firmware) := rfl
theorem Laws.OneKind.reset : Laws.OneKind.Statement (.reset) := rfl
theorem Laws.OneKind.insnIllegal (x0 : UnitId) (x1 : Word) : Laws.OneKind.Statement (.insnIllegal x0 x1) := rfl
theorem Laws.OneKind.eviction (x0 : Bool) (x1 : Nat) : Laws.OneKind.Statement (.eviction x0 x1) := rfl
theorem Laws.OneKind.farTierWriteForward : Laws.OneKind.Statement (.farTierWriteForward) := rfl
theorem Laws.OneKind.stackTemperatureChange (x0 : Nat) (x1 : Bool) : Laws.OneKind.Statement (.stackTemperatureChange x0 x1) := rfl
theorem Laws.OneKind.firmwareReady : Laws.OneKind.Statement (.firmwareReady) := rfl
theorem Laws.OneKind.portLinkUp (x0 : Nat) : Laws.OneKind.Statement (.portLinkUp x0) := rfl
theorem Laws.OneKind.ideKmRequest (x0 : Nat) (x1 : Bool) : Laws.OneKind.Statement (.ideKmRequest x0 x1) := rfl

end Sys2Proof
end

