-- ==== Sys2Proof/Laws/Words.lean ====
section
/-! SUPPORT. What the shapes of the words of C do, said once: a vector word whose positions are legal, ready and readable
completes, and so does a word of the hem unit. -/

namespace Sys2Proof.Machine

theorem forM_ok {α : Type} (f : α → Res Unit) (l : List α) (h : ∀ a ∈ l, f a = .ok ()) : l.forM f = .ok () := by
  induction l with
  | nil => rfl
  | cons a l ih =>
    have : (a :: l).forM f = (f a >>= fun _ => l.forM f) := rfl
    rw [this, h a (by simp)]
    exact ih fun b hb => h b (by simp [hb])

theorem specsDecode_ok {own : State → Res Unit} {srcs : List Spec} {dst : Option Spec} {s : State} {u : SeqId}
    (h0 : own s = .ok ()) (h1 : ∀ p ∈ srcs, specDecode false p = .ok ()) (h2 : ∀ p ∈ dst.toList, specDecode true p = .ok ()) :
    specsDecode own srcs dst s u = .ok () := by
  unfold specsDecode
  rw [h0]
  simp only [forM_ok _ _ h1]
  cases dst with
  | none => rfl
  | some p => exact h2 p (by simp)

theorem specsEarly_ok {srcs : List Spec} {dst : Option Spec} {s : State} {u : SeqId}
    (h1 : ∀ p ∈ srcs, specEarly s false p = .ok ()) (h2 : ∀ p ∈ dst.toList, specEarly s true p = .ok ()) :
    specsEarly srcs dst s u = .ok () := by
  unfold specsEarly
  rw [forM_ok _ _ h1]
  cases dst with
  | none => rfl
  | some p => exact h2 p (by simp)

/-- The issue actions leave the flag controls alone. -/
theorem issueTake_vfctl (s : State) (u : SeqId) (y : Sync) : (issueTake s u y).core.vfctl = s.core.vfctl := by
  unfold issueTake; dsimp only
  split <;> split <;> simp

/-- No enabled flag raises no cause. -/
theorem arithCause_none {fl ten : FFlags} (h : fl &&& ten = 0) : arithCause fl ten = none := by
  unfold arithCause
  rw [h]
  rfl

/-- The effect of a vector word whose sources read, which meets no enabled trap and whose destination takes the result. -/
theorem vecBody_eq {srcs : List Spec} {dst : Option Spec} {f : State → List Src → VRes} {t s1 s2 : State} {rs : List Src}
    (hr : readSrcs srcs t = .ok (s1, rs))
    (hac : (if tenOf t.core.vfctl = 0 then none else arithCause (f t rs).flags (tenOf t.core.vfctl)) = none)
    (hw : Safety.delivered dst (f t rs) s1 = (s2, none)) :
    let c := match (f t rs).lanes with
      | some l => setLaneFlags s2.core l
      | none => s2.core
    let c := match (f t rs).pred with
      | some (n, v) => pset c n v
      | none => c
    let c := match (f t rs).idx with
      | some (n, v) => csetIdx c n v
      | none => c
    vecBody srcs dst f t = { s := { s2 with core := c }, flags := (f t rs).flags, held := heldBy t s2 srcs } := by
  intro c1 c2 c3
  unfold Safety.delivered at hw
  unfold vecBody
  simp only [hr]
  rw [hac]
  cases dst with
  | none => simp only at hw ⊢; cases hw; rfl
  | some p => simp only at hw ⊢; rw [hw]; try rfl

/-- A vector word completes as its result says. -/
theorem vecWord_completes {i : Instr} {y : Sync} {ownCheck : State → Res Unit} {own : State → Prop} {srcs : List Spec}
    {dst : Option Spec} {f : State → List Src → VRes} (hex : ∀ s, exec i s = vecWord i y ownCheck srcs dst f s)
    (hown : ∀ s, own s → ownCheck s = .ok ()) : Safety.vectorWord i y own srcs dst f := by
  intro s h t s1 rs hr r hf s2 hw c1 c2 c3 pc
  obtain ⟨hi, ho, h1, h2, h3, h4, h5⟩ := h
  have hfl : tenOf t.core.vfctl = tenOf s.core.vfctl := by rw [issueTake_vfctl]
  have hac : (if tenOf t.core.vfctl = 0 then none else arithCause r.flags (tenOf t.core.vfctl)) = none := by
    split
    · rfl
    · exact arithCause_none (by rw [hfl]; exact hf)
  have hb : vecBody srcs dst f t = { s := { s2 with core := c3 }, flags := r.flags, held := heldBy t s2 srcs } :=
    vecBody_eq hr hac hw
  rw [hex, vecWord, issueWord_completes hi rfl (specsDecode_ok (hown s ho) h1 h2) h3 (specsEarly_ok h4 h5) (by rw [hb]) (by rw [hb]),
    fly_eq_flown]
  rw [hb]
  rfl

/-! ### Words of the hem unit -/

/-- Registers written by number, as their vector. -/
theorem putRegs_v (c : Core) (l : List (Nat × VReg)) :
    (putRegs c l).v = l.foldl (fun v r => if h : r.1 < 64 then v.set r.1 r.2 h else v) c.v := by
  induction l generalizing c with
  | nil => rfl
  | cons r l ih =>
    simp only [putRegs, List.foldl_cons] at ih ⊢
    rw [ih]
    congr 1
    split <;> rfl

/-- The registers in which two vectors differ, put into the first from a place on, bring it to the second. -/
theorem putDiff_get (xs ys : List VReg) (n : Nat) (v : Vector VReg 64) (k : Nat) (hk : k < 64) (hl : xs.length = ys.length) :
    ((((List.range' n xs.length).zip (xs.zip ys)).filterMap fun x => if x.2.1 = x.2.2 then none else some (x.1, x.2.2)).foldl
      (fun v r => if h : r.1 < 64 then v.set r.1 r.2 h else v) v)[k] =
      if n ≤ k then (if xs[k - n]? = ys[k - n]? then v[k] else (ys[k - n]?).getD v[k]) else v[k] := by
  induction xs generalizing ys n v with
  | nil =>
    cases ys with
    | nil => simp
    | cons y ys => simp at hl
  | cons x xs ih =>
    cases ys with
    | nil => simp at hl
    | cons y ys =>
      simp only [List.length_cons, Nat.add_right_cancel_iff] at hl
      simp only [List.length_cons, List.range'_succ, List.zip_cons_cons, List.filterMap_cons]
      by_cases hxy : x = y
      · simp only [hxy, if_true]
        rw [ih ys (n + 1) v hl]
        by_cases h1 : n ≤ k
        · by_cases h2 : n = k
          · subst h2; simp
          · have h3 : n + 1 ≤ k := by omega
            have h4 : k - n = (k - (n + 1)) + 1 := by omega
            simp only [h1, h3, if_true, h4, List.getElem?_cons_succ]
        · have h3 : ¬ n + 1 ≤ k := by omega
          simp only [h1, h3, if_false]
      · simp only [hxy, if_false, List.foldl_cons]
        rw [ih ys (n + 1) _ hl]
        by_cases h1 : n ≤ k
        · by_cases h2 : n = k
          · subst h2
            have h3 : ¬ n + 1 ≤ n := by omega
            simp [h3, hk, hxy]
          · have h3 : n + 1 ≤ k := by omega
            have h4 : k - n = (k - (n + 1)) + 1 := by omega
            have h5 : (if h : n < 64 then v.set n y h else v)[k] = v[k] := by
              split
              · exact Vector.getElem_set_ne _ _ h2
              · rfl
            simp only [h1, h3, if_true, h4, List.getElem?_cons_succ, h5]
        · have h3 : ¬ n + 1 ≤ k := by omega
          have h5 : (if h : n < 64 then v.set n y h else v)[k] = v[k] := by
            split
            · exact Vector.getElem_set_ne _ _ (by omega)
            · rfl
          simp only [h1, h3, if_false, h5]

/-- What a word of the hem unit holds back of its registers brings them to its result. -/
theorem putRegs_regsOf (a b : Core) : (putRegs a (regsOf a b)).v = b.v := by
  apply Vector.ext
  intro k hk
  have h := putDiff_get a.v.toList b.v.toList 0 a.v k hk (by simp)
  rw [putRegs_v]
  unfold regsOf
  rw [List.range_eq_range']
  have hl : a.v.toList.length = 64 := by simp
  rw [hl] at h
  rw [h]
  simp only [Nat.zero_le, if_true, Nat.sub_zero]
  have ha : a.v.toList[k]? = some a.v[k] := by simp [hk]
  have hb : b.v.toList[k]? = some b.v[k] := by simp [hk]
  rw [ha, hb]
  split
  · rename_i h; simpa using h
  · rfl

/-- A code below 64 names a vector register, and a later one none. -/
theorem opdOf_v {c : BitVec 7} : c.toNat < 64 → ∃ n, opdOf c = .v n := by
  intro h
  simp only [opdOf, h, if_true]
  exact ⟨_, rfl⟩

/-- A word of the hem unit completes: it is in flight with what it writes when its phase ends. -/
theorem hemWord_completes {i : Instr} {y : Sync} {ownCheck : State → Res Unit} {own : State → Prop} {srcs : List Spec}
    {dst : Spec} {f : State → List Src → VRes} (hex : ∀ s, exec i s = hemWord i y ownCheck srcs (some dst) f s)
    (hown : ∀ s, own s → ownCheck s = .ok ()) : Safety.hemWord i y own srcs dst f := by
  intro s h t s1 rs hr r pc
  obtain ⟨hi, ho, h1, h2, h3, h4, h5⟩ := h
  have hten : tenOf t.core.vfctl = tenOf s.core.vfctl := by rw [issueTake_vfctl]
  obtain ⟨l, hb, hl⟩ : ∃ l : Late, hemBody srcs (some dst) f t =
      { s := { s1 with core := takePush s1.core dst r }, kind := .hem, done := false, held := heldBy t s1 srcs, late := some l } ∧
      l.flags = r.flags ∧ l.cause = arithCause r.flags (tenOf s.core.vfctl) ∧ l.info = r.flags.setWidth 64 ∧
      (∀ e, r.lanes = some e → l.lflags = (setLaneFlags t.core e).lflags) ∧
      (dst.code.toNat < 64 → l.push = none ∧
        (putRegs t.core l.regs).v = (writeVecs dst r.act r.scales [] 0 r.vecs s1).1.core.v) ∧
      (64 ≤ dst.code.toNat → l.regs = [] ∧ l.push = latePush s1.core dst r) := by
    have he : ∃ l, hemBody srcs (some dst) f t =
        { s := { s1 with core := takePush s1.core dst r }, kind := .hem, done := false, held := heldBy t s1 srcs, late := some l } ∧
        l = { regs := (match opdOf dst.code with
                | .v _ => regsOf t.core (writeVecs dst r.act r.scales [] 0 r.vecs s1).1.core
                | _ => []),
              push := latePush s1.core dst r, flags := r.flags, info := r.flags.setWidth 64,
              cause := arithCause r.flags (tenOf t.core.vfctl),
              lflags := (match r.lanes with
                | some e => (setLaneFlags t.core e).lflags
                | none => t.core.lflags),
              pos := posOf t.core (srcs ++ [dst]) } := by
      refine ⟨_, ?_, rfl⟩
      unfold hemBody; simp only [hr]; rfl
    obtain ⟨l, he, rfl⟩ := he
    refine ⟨_, he, rfl, ?_, rfl, ?_, ?_, ?_⟩
    · exact congrArg (arithCause r.flags) hten
    · intro e he; simp only [he]
    · intro hc
      obtain ⟨n, hn⟩ := opdOf_v hc
      refine ⟨by simp [latePush, hn], ?_⟩
      simp only [hn]
      exact putRegs_regsOf _ _
    · intro hc
      have hn : ∀ n, opdOf dst.code ≠ .v n := by
        intro n; simp only [opdOf]
        repeat' split
        all_goals first | omega | exact nofun
      refine ⟨?_, rfl⟩
      dsimp only
      split
      · rename_i n hv; exact absurd hv (hn n)
      · rfl
  refine ⟨l, ?_, hl⟩
  rw [hex, hemWord, issueWord_completes hi rfl (specsDecode_ok (hown s ho) h1 h2) h3 (specsEarly_ok h4 h5) (by rw [hb]) (by rw [hb]),
    fly_eq_flown, hb]
  rfl

/-- Rounding that is not SRD passes the check of the words that are no conversion. -/
theorem roundCheck_ok {s : State} (h : Safety.rounds s) : roundCheck s = .ok () := by
  simp only [Safety.rounds] at h
  simp [roundCheck, h]

end Sys2Proof.Machine
end

