-- ==== Sys2Proof/Tests/Slice0.lean ====
section
/-! SUPPORT. Tests: ill-formed terms are refused; words written out from the encodings of the spec decode as they say; and, for
every statement, states and operands that meet its hypotheses, with the result of one step where the spec fixes it. The
expected values come from the rules of the spec, worked by hand. -/

set_option maxRecDepth 100000
set_option Elab.async false

namespace Sys2Proof.Tests

open Sys2Proof Sys2Proof.Machine

/-- No synchronisation. -/
def quiet : Sync := { wthr := 0, wsem := 0, sinc := 0, ssem := 0, tki := 0, tko := 0 }

/-! ### Ill-formed terms -/

/-- A vector operand on a type. -/
def vop (t : Ty) : VOp := { ty := t, vd := 1, va := 2, vb := 3, pg := 0 }

/-- See `vop`. -/
def uop (t : Ty) : UOp := { ty := t, vd := 1, va := 2, pg := 0 }

/-- A term of each check of `Instr.wellFormed` that no word stands for, and its neighbour that one does. -/
theorem test_ill_formed_terms_are_refused : ([
    (.fadd 1 2 3 .f32 (.stat .srd), .fadd 1 2 3 .f32 .dyn), (.fsqrt 1 2 .f64 (.stat .srd), .fsqrt 1 2 .f64 (.stat .rna)),
    (.fcvt 1 2 .f32 .f64 (.stat .srd), .fcvt 1 2 .f32 .f64 .dyn), (.fma 1 2 3 4 .f32 (.stat .srd), .fma 1 2 3 4 .f32 .dyn),
    (.amo .fadd 1 2 3 true, .amo .fadd 1 2 3 false), (.redst 1 2 3 .f64, .redst 1 2 3 .f32), (.nmadd 1 2 .i64, .nmadd 1 2 .i32),
    (.gset quiet 1 .pos 2, .gset quiet 1 .pos 0),
    (.bcopy quiet { f := false, ac := 1, d := 0, src := 0 }, .bcopy quiet { f := false, ac := 0, d := 0, src := 0 }),
    (.mdrain quiet { t := .n64, as := 0, q := 0, ir := 0, z := false, d64 := false, rm := .dyn },
     .mdrain quiet { t := .f32, as := 0, q := 0, ir := 0, z := false, d64 := false, rm := .dyn }),
    (.vadd quiet (vop .f64), .vadd quiet (vop .f32)), (.vabs quiet (uop .i64), .vabs quiet (uop .i32)),
    (.vcmpeq quiet { ty := .n64, pd := 1, va := 0, vb := 0, pg := 0 }, .vcmpeq quiet { ty := .n32, pd := 1, va := 0, vb := 0, pg := 0 }),
    (.pset quiet .f64 1 0, .pset quiet .f32 1 0),
    (.vcvt quiet { d := .f64, vd := 0, va := 0, s := .f32, rm := .dyn, pg := 0 },
     .vcvt quiet { d := .f16, vd := 0, va := 0, s := .f32, rm := .dyn, pg := 0 }),
    (.viota quiet .i64 0 0 0, .viota quiet .i32 0 0 0),
    (.f64OtherArithmetic quiet .cmplt { vd := 16, va := 0, vb := 0, pg := 0 }, .f64OtherArithmetic quiet .cmplt { vd := 15, va := 0, vb := 0, pg := 0 }),
    (.f64OtherArithmetic quiet .abs { vd := 0, va := 0, vb := 1, pg := 0 }, .f64OtherArithmetic quiet .abs { vd := 0, va := 0, vb := 0, pg := 0 }),
    (.vcvtF64 quiet .i64i32 0 0 .dyn 0, .vcvtF64 quiet .f64f32 0 0 .dyn 0),
    (.f64Elementary quiet .exp { vd := 0, va := 0, vb := 1, pg := 0 }, .f64Elementary quiet .div { vd := 0, va := 0, vb := 1, pg := 0 }),
    (.i64Arithmetic quiet .cmpltu { vd := 16, va := 0, vb := 0, pg := 0 }, .i64Arithmetic quiet .add { vd := 16, va := 0, vb := 0, pg := 0 })
    ] : List (Instr × Instr)).all (fun p => !p.1.wellFormed && p.2.wellFormed) = true := by decide

/-! ### Words and what they decode to

Each word is written out from the fields that the manual gives it (R21 to R36 and the variant tables). -/

/-- Words written out from the encoding tables of spec/02_instruction_words.md: scalar integer. -/
theorem test_decode_scalar_integer : ([
    (0x00221800, .add 1 2 3), (0x00221801, .sub 1 2 3), (0x00221802, .mul 1 2 3), (0x00221803, .mulh 1 2 3),
    (0x00221804, .mulhu 1 2 3), (0x00221805, .div 1 2 3), (0x00221806, .divu 1 2 3), (0x00221807, .rem 1 2 3),
    (0x00221808, .remu 1 2 3), (0x00221809, .and 1 2 3), (0x0022180A, .or 1 2 3), (0x0022180B, .xor 1 2 3),
    (0x0022180C, .sll 1 2 3), (0x0022180D, .srl 1 2 3), (0x0022180E, .sra 1 2 3), (0x0022180F, .slt 1 2 3),
    (0x00221810, .sltu 1 2 3), (0x00221811, .min 1 2 3), (0x00221812, .max 1 2 3), (0x00221813, .minu 1 2 3),
    (0x00221814, .maxu 1 2 3)
    ] : List (Nat × Instr)).all (fun p => decide (decodeScalar p.1 = .ok p.2)) = true := by decide +kernel

/-- Words written out from the encoding tables of spec/02_instruction_words.md: scalar immediate. -/
theorem test_decode_scalar_immediate : ([
    (0x07DDFFF9, .addi 30 29 (-7)), (0x0BDDFFF9, .andi 30 29 (-7)), (0x0FDDFFF9, .ori 30 29 (-7)),
    (0x13DDFFF9, .xori 30 29 (-7)), (0x17DDFFF9, .slti 30 29 (-7)), (0x1864002D, .slli 3 4 45),
    (0x1864006D, .srli 3 4 45), (0x186400AD, .srai 3 4 45), (0x1D3FFFFE, .adpc 9 (-2)), (0x292FFFFF, .lih 9 0xFFFFF)
    ] : List (Nat × Instr)).all (fun p => decide (decodeScalar p.1 = .ok p.2)) = true := by decide +kernel

/-- Words written out from the encoding tables of spec/02_instruction_words.md: scalar float. -/
theorem test_decode_scalar_float : ([
    (0x20221801, .fadd 1 2 3 .f64 (.stat .rne)), (0x20221890, .fsub 1 2 3 .f32 (.stat .rtz)),
    (0x20221921, .fmul 1 2 3 .f64 (.stat .rup)), (0x202219F0, .fdiv 1 2 3 .f32 .dyn),
    (0x20220231, .fsqrt 1 2 .f64 (.stat .rdn)), (0x20221A80, .fmin 1 2 3 .f32), (0x20221B01, .fmax 1 2 3 .f64),
    (0x20221B87, .fcmp 1 2 3 .f64 .le), (0x20222441, .fcvt 1 2 .i32 .f64 (.stat .rna)), (0x20220480, .fclass 1 2 .f32),
    (0x2422190F, .fma 1 2 3 4 .f64 .dyn), (0x2422191F, .fms 1 2 3 4 .f64 .dyn), (0x2422192F, .fnma 1 2 3 4 .f64 .dyn),
    (0x2422193F, .fnms 1 2 3 4 .f64 .dyn)
    ] : List (Nat × Instr)).all (fun p => decide (decodeScalar p.1 = .ok p.2)) = true := by decide +kernel

/-- Words written out from the encoding tables of spec/02_instruction_words.md: scalar jumps. -/
theorem test_decode_scalar_jumps : ([
    (0x40A6FFFD, .beq 5 6 (-3)), (0x44A6FFFD, .bne 5 6 (-3)), (0x48A6FFFD, .blt 5 6 (-3)), (0x4CA6FFFD, .bge 5 6 (-3)),
    (0x50A6FFFD, .bltu 5 6 (-3)), (0x54A6FFFD, .bgeu 5 6 (-3)), (0x5BFFFFFF, .jal (-1)), (0x5C22FFFC, .jalr 1 2 (-4))
    ] : List (Nat × Instr)).all (fun p => decide (decodeScalar p.1 = .ok p.2)) = true := by decide +kernel

/-- Words written out from the encoding tables of spec/02_instruction_words.md: scalar memory. -/
theorem test_decode_scalar_memory : ([
    (0x602207FF, .ld 1 2 .b8 .d (-1)), (0x64223005, .ldz 1 2 .b16 .s 5), (0x68225C00, .st 1 2 .b32 .u (-1024)),
    (0x6C220040, .cinv 1 2 64)
    ] : List (Nat × Instr)).all (fun p => decide (decodeScalar p.1 = .ok p.2)) = true := by decide +kernel

/-- Words written out from the encoding tables of spec/02_instruction_words.md: atomics. -/
theorem test_decode_atomics : ([
    (0x80221840, .amo .swap 1 2 3 true), (0x802218C0, .amo .add 1 2 3 true), (0x80221940, .amo .and 1 2 3 true),
    (0x802219C0, .amo .or 1 2 3 true), (0x80221A40, .amo .xor 1 2 3 true), (0x80221AC0, .amo .min 1 2 3 true),
    (0x80221B40, .amo .max 1 2 3 true), (0x80221BC0, .amo .minu 1 2 3 true), (0x80221C40, .amo .maxu 1 2 3 true),
    (0x80221C80, .amo .fadd 1 2 3 false), (0x80221D00, .amo .fmin 1 2 3 false), (0x80221D80, .amo .fmax 1 2 3 false),
    (0x84221840, .cas 1 2 3 true)
    ] : List (Nat × Instr)).all (fun p => decide (decodeScalar p.1 = .ok p.2)) = true := by decide +kernel

/-- Words written out from the encoding tables of spec/02_instruction_words.md: fences clasps. -/
theorem test_decode_fences_clasps : ([
    (0x88000004, .fence .system), (0x8C00012A, .fencex .n .q .die), (0x90221800, .cbind 1 2 3), (0x90021900, .cunb 2 3),
    (0x90020200, .cacq 2), (0x90220300, .ctry 1 2), (0x90020400, .crel 2)
    ] : List (Nat × Instr)).all (fun p => decide (decodeScalar p.1 = .ok p.2)) = true := by decide +kernel

/-- Words written out from the encoding tables of spec/02_instruction_words.md: windows near memory. -/
theorem test_decode_windows_near_memory : ([
    (0x94221800, .rwin 1 2 3), (0x94020100, .rwinCancel 2), (0x9822180E, .redst 1 2 3 .bf16),
    (0x9C021806, .nmadd 2 3 .i32), (0x9C02190F, .nmmin 2 3 .f32), (0x9C021A06, .nmmax 2 3 .i32), (0x9C000300, .nmfen)
    ] : List (Nat × Instr)).all (fun p => decide (decodeScalar p.1 = .ok p.2)) = true := by decide +kernel

/-- Words written out from the encoding tables of spec/02_instruction_words.md: commands scheduler. -/
theorem test_decode_commands_scheduler : ([
    (0xA0432000, .ecmd 2 3 4), (0xA4000005, .efen 5), (0xA8000006, .eflush 6), (0xAC000003, .toks 3),
    (0xAC000101, .tokr 1), (0xB0090301, .ssig 9 3 1), (0xB4000804, .swait 8 4), (0xB900000A, .srd 8 10),
    (0xB8070102, .sset 7 2), (0xB80702FF, .semcfg 7 255), (0xBD090021, .wfe 8 9 0x21), (0xC0050000, .spawn 5),
    (0xC4050000, .join 5), (0xC80A5800, .ndone 10 11), (0xCC000000, .yield), (0xD0000000, .texit)
    ] : List (Nat × Instr)).all (fun p => decide (decodeScalar p.1 = .ok p.2)) = true := by decide +kernel

/-- Words written out from the encoding tables of spec/02_instruction_words.md: attempts system. -/
theorem test_decode_attempts_system : ([
    (0xE0A00000, .tbegin 5), (0xE40A5800, .tflag 10 11), (0xE8000000, .pflush), (0xEC063800, .svote 6 7),
    (0xED060100, .twait 8 6), (0xED200200, .tstat 9), (0xF0A00800, .csrr 5 0x800), (0xF4050801, .csrw 0x801 5),
    (0xF8000007, .trap 7), (0xF8000100, .tret), (0xF8000200, .tretSkip), (0xFCA63800, .pgreq 5 6 7)
    ] : List (Nat × Instr)).all (fun p => decide (decodeScalar p.1 = .ok p.2)) = true := by decide +kernel

/-- Words written out from the encoding tables of spec/02_instruction_words.md: sequencing. -/
theorem test_decode_sequencing : ([
    (0x00FE46C920000000, .enop { wthr := 31, wsem := 200, sinc := 3, ssem := 100, tki := 2, tko := 1 }),
    (0x0100000000000000, .estop quiet), (0x020000001FFFFFFB, .ejmp quiet (-5)),
    (0x03000000004BFFFD, .ebr quiet .eq 1 2 (-3)), (0x03000000044BFFFD, .ebr quiet .ne 1 2 (-3)),
    (0x03000000084BFFFD, .ebr quiet .lt 1 2 (-3)), (0x030000000C4BFFFD, .ebr quiet .ge 1 2 (-3)),
    (0x03000000104BFFFD, .ebr quiet .ltu 1 2 (-3)), (0x03000000144BFFFD, .ebr quiet .geu 1 2 (-3)),
    (0x0400000007FFFFFD, .eloop quiet 3 (-3)), (0x0500000007FFFFFD, .loop quiet 3 (-3)),
    (0x060000001FFFFFFF, .iset quiet 15 (-1)), (0x070000001E000007, .iadd quiet 15 7),
    (0x0800000008BFFFFF, .ild quiet 4 5 (-1)), (0x090000001FA00000, .rbset quiet 31 5)
    ] : List (Nat × Instr)).all (fun p => decide (decodeEngine p.1 = .ok p.2)) = true := by decide +kernel

/-- Words written out from the encoding tables of spec/02_instruction_words.md: transfers. -/
theorem test_decode_transfers : ([
    (0x20000000083FFFFE, .gcfg quiet 4 1 (-2)), (0x21000000080E0000, .gset quiet 4 .base 7),
    (0x21000000082E0000, .gset quiet 4 .sbase 7), (0x21000000084E0000, .gset quiet 4 .n0 7),
    (0x21000000086E0000, .gset quiet 4 .n1 7), (0x21000000088E0000, .gset quiet 4 .n2 7),
    (0x2100000008AE0000, .gset quiet 4 .n3 7), (0x2100000008CE0000, .gset quiet 4 .s0 7),
    (0x2100000008EE0000, .gset quiet 4 .s1 7), (0x21000000090E0000, .gset quiet 4 .s2 7),
    (0x21000000092E0000, .gset quiet 4 .s3 7), (0x21000000094E0000, .gset quiet 4 .sstr 7),
    (0x21000000096E0000, .gset quiet 4 .swz 7), (0x21000000098E0000, .gset quiet 4 .dir 7),
    (0x2100000009A00000, .gset quiet 4 .pos 0),
    (0x2200000019A98000, .lds quiet { f := true, ac := 9, d := 10, src := 0x13 }),
    (0x2300000019A98000, .sts quiet { f := true, ac := 9, d := 10, src := 0x13 }),
    (0x2400000019A98000, .mcast quiet { f := true, ac := 9, d := 10, src := 0x13 }),
    (0x2500000010A98000, .bcopy quiet { f := true, ac := 0, d := 10, src := 0x13 }),
    (0x2600000019ABC000, .gath quiet { f := true, ac := 9, d := 10, s := 11, x := 12 }),
    (0x2700000019ABC000, .scat quiet { f := true, ac := 9, d := 10, s := 11, x := 12 }),
    (0x2800000019A9A800, .redstEngine quiet { f := true, ac := 9, d := 10, src := 0x13 } 5),
    (0x2900000019A98000, .nmaddEngine quiet { f := true, ac := 9, d := 10, src := 0x13 }),
    (0x2900000019A9A000, .nmminEngine quiet { f := true, ac := 9, d := 10, src := 0x13 }),
    (0x2900000019A9C000, .nmmaxEngine quiet { f := true, ac := 9, d := 10, src := 0x13 }),
    (0x2A00000000000000, .nmfenEngine quiet), (0x2B0000000AA00000, .fencexEngine quiet .s .q .die)
    ] : List (Nat × Instr)).all (fun p => decide (decodeEngine p.1 = .ok p.2)) = true := by decide +kernel

/-- Words written out from the encoding tables of spec/02_instruction_words.md: matrix. -/
theorem test_decode_matrix : ([
    (0x6000000006900000, .mwld quiet 3 4 true false),
    (0x610000000456789A, .mmaF quiet { ad := 2, ch := false, sa := 5, sb := 6, im := 7, pr := 8, pd := 9, pc := 10 }),
    (0x610000000C56789A, .mmaB quiet { ad := 2, ch := false, sa := 5, sb := 6, im := 7, pr := 8, pd := 9, pc := 10 }),
    (0x610000001456789A, .mmaG quiet { ad := 2, ch := false, sa := 5, sb := 6, im := 7, pr := 8, pd := 9, pc := 10 }),
    (0x610000000580789A, .mmaF quiet { ad := 2, ch := true, sa := 8, sb := 0, im := 7, pr := 8, pd := 9, pc := 10 }),
    (0x620000001F56B800, .mdrain quiet { t := .f32, as := 2, q := 5, ir := 6, z := true, d64 := false, rm := .dyn }),
    (0x6300000011800000, .mzero quiet 0b10001 true), (0x6400000012180000, .msave quiet .gp 0x43),
    (0x6500000016200000, .mrest quiet .wp 0x44)
    ] : List (Nat × Instr)).all (fun p => decide (decodeEngine p.1 = .ok p.2)) = true := by decide +kernel

/-- Words written out from the encoding tables of spec/02_instruction_words.md: vector arithmetic. -/
theorem test_decode_vector_arithmetic : ([
    (0x80000000010E97F9, .vadd quiet { ty := .i4, vd := 0x43, va := 0x52, vb := 0x7F, pg := 9 }),
    (0x81000000030E97F9, .vsub quiet { ty := .n4, vd := 0x43, va := 0x52, vb := 0x7F, pg := 9 }),
    (0x82000000050E97F9, .vmul quiet { ty := .i8, vd := 0x43, va := 0x52, vb := 0x7F, pg := 9 }),
    (0x83000000070E97F9, .vfma quiet { ty := .n8, vd := 0x43, va := 0x52, vb := 0x7F, pg := 9 }),
    (0x84000000090E97F9, .vfms quiet { ty := .i16, vd := 0x43, va := 0x52, vb := 0x7F, pg := 9 }),
    (0x850000000B0E97F9, .vfnma quiet { ty := .n16, vd := 0x43, va := 0x52, vb := 0x7F, pg := 9 }),
    (0x860000000D0E97F9, .vmin quiet { ty := .i32, vd := 0x43, va := 0x52, vb := 0x7F, pg := 9 }),
    (0x870000000F0E97F9, .vmax quiet { ty := .n32, vd := 0x43, va := 0x52, vb := 0x7F, pg := 9 }),
    (0x88000000110E9009, .vabs quiet { ty := .e2m1, vd := 0x43, va := 0x52, pg := 9 }),
    (0x89000000130E9009, .vneg quiet { ty := .e3m2, vd := 0x43, va := 0x52, pg := 9 }),
    (0x8A000000150E97F9, .vsadd quiet { ty := .e2m3, vd := 0x43, va := 0x52, vb := 0x7F, pg := 9 }),
    (0x8B000000170E97F9, .vssub quiet { ty := .e4m3, vd := 0x43, va := 0x52, vb := 0x7F, pg := 9 }),
    (0x8C000000190E97F9, .vmulh quiet { ty := .e5m2, vd := 0x43, va := 0x52, vb := 0x7F, pg := 9 }),
    (0x8D0000001B0E97F9, .vclamp quiet { ty := .f16, vd := 0x43, va := 0x52, vb := 0x7F, pg := 9 }),
    (0x8E0000001D0E97F9, .vcpsgn quiet { ty := .bf16, vd := 0x43, va := 0x52, vb := 0x7F, pg := 9 }),
    (0x900000001F0E97F9, .vand quiet { ty := .f32, vd := 0x43, va := 0x52, vb := 0x7F, pg := 9 }),
    (0x91000000010E97F9, .vor quiet { ty := .i4, vd := 0x43, va := 0x52, vb := 0x7F, pg := 9 }),
    (0x92000000030E97F9, .vxor quiet { ty := .n4, vd := 0x43, va := 0x52, vb := 0x7F, pg := 9 }),
    (0x93000000050E9009, .vnot quiet { ty := .i8, vd := 0x43, va := 0x52, pg := 9 }),
    (0x94000000070E97F9, .vsll quiet { ty := .n8, vd := 0x43, va := 0x52, vb := 0x7F, pg := 9 }),
    (0x95000000090E97F9, .vsrl quiet { ty := .i16, vd := 0x43, va := 0x52, vb := 0x7F, pg := 9 }),
    (0x960000000B0E97F9, .vsra quiet { ty := .n16, vd := 0x43, va := 0x52, vb := 0x7F, pg := 9 }),
    (0x970000000D0E9009, .vpopc quiet { ty := .i32, vd := 0x43, va := 0x52, pg := 9 })
    ] : List (Nat × Instr)).all (fun p => decide (decodeEngine p.1 = .ok p.2)) = true := by decide +kernel

/-- Words written out from the encoding tables of spec/02_instruction_words.md: compares predicates. -/
theorem test_decode_compares_predicates : ([
    (0x98000000162E9419, .vcmpeq quiet { ty := .e4m3, pd := 11, va := 0x52, vb := 0x41, pg := 9 }),
    (0x99000000162E9419, .vcmpne quiet { ty := .e4m3, pd := 11, va := 0x52, vb := 0x41, pg := 9 }),
    (0x9A000000162E9419, .vcmplt quiet { ty := .e4m3, pd := 11, va := 0x52, vb := 0x41, pg := 9 }),
    (0x9B000000162E9419, .vcmple quiet { ty := .e4m3, pd := 11, va := 0x52, vb := 0x41, pg := 9 }),
    (0x9C000000162E9419, .vcmpun quiet { ty := .e4m3, pd := 11, va := 0x52, vb := 0x41, pg := 9 }),
    (0x9D00000000041030, .pand quiet 1 2 3), (0x9E00000000041030, .por quiet 1 2 3),
    (0x9F00000000041030, .pxor quiet 1 2 3), (0xA000000000041000, .pnot quiet 1 2),
    (0xA10000001C0C2000, .pset quiet .bf16 3 4), (0xA2000000020C2005, .pcnt quiet .n4 3 4 5),
    (0xA3000000040C2005, .pfirst quiet .i8 3 4 5)
    ] : List (Nat × Instr)).all (fun p => decide (decodeEngine p.1 = .ok p.2)) = true := by decide +kernel

/-- Words written out from the encoding tables of spec/02_instruction_words.md: conversions moves. -/
theorem test_decode_conversions_moves : ([
    (0xA400000010104753, .vcvt quiet { d := .e2m1, vd := 4, va := 8, s := .bf16, rm := (.stat .srd), pg := 3 }),
    (0xA5000000041047F3, .vquant quiet { d := .i8, vd := 4, va := 8, s := .f32, rm := .dyn, pg := 3 }),
    (0xA60000001F0E9009, .vmov quiet { ty := .f32, vd := 0x43, va := 0x52, pg := 9 }),
    (0xA7000000070E9069, .vbcast quiet { ty := .n8, vd := 0x43, va := 0x52, pg := 9 } 6),
    (0xA8000000090E97F9, .vperm quiet { ty := .i16, vd := 0x43, va := 0x52, vb := 0x7F, pg := 9 }),
    (0xA9000000090E97F9, .vslide quiet { ty := .i16, vd := 0x43, va := 0x52, vb := 0x7F, pg := 9 }),
    (0xAA000000090E97F9, .vsel quiet { ty := .i16, vd := 0x43, va := 0x52, vb := 0x7F, pg := 9 }),
    (0xAB0000001B0E9009, .vredsum quiet { ty := .f16, vd := 0x43, va := 0x52, pg := 9 }),
    (0xAC0000001B0E9009, .vredmax quiet { ty := .f16, vd := 0x43, va := 0x52, pg := 9 }),
    (0xAD0000001B0E9009, .vredmin quiet { ty := .f16, vd := 0x43, va := 0x52, pg := 9 }),
    (0xAE0000001B0E9009, .vscan quiet { ty := .f16, vd := 0x43, va := 0x52, pg := 9 }),
    (0xAF000000190E97F9, .vsort quiet { ty := .e5m2, vd := 0x43, va := 0x52, vb := 0x7F, pg := 9 }),
    (0xB00000000F0E97F9, .vtopk quiet { ty := .n32, vd := 0x43, va := 0x52, vb := 0x7F, pg := 9 }),
    (0xB1000000130E9009, .vcompact quiet { ty := .e3m2, vd := 0x43, va := 0x52, pg := 9 }),
    (0xB20000000D0C0069, .viota quiet .i32 0x43 6 9), (0xB30000001E201031, .vrand quiet .f32 8 2 3 1),
    (0xB40000000A204A86, .vroute quiet .n16 8 9 5 6), (0xB50000001C0C4856, .vchk quiet .bf16 3 9 5 6),
    (0xB6000000000C0006, .vflg quiet 3 .nx 6), (0xB6000000000C0806, .vflg quiet 3 .uf 6),
    (0xB6000000000C1006, .vflg quiet 3 .of 6), (0xB6000000000C1806, .vflg quiet 3 .dz 6),
    (0xB6000000000C2006, .vflg quiet 3 .nv 6), (0xB6000000000C2806, .vflg quiet 3 .any 6),
    (0xB70000001E229000, .vsmrg quiet 8 0x52 .d64), (0xB70000001E229200, .vsmrg quiet 8 0x52 .d128),
    (0xB70000001E229400, .vsmrg quiet 8 0x52 .d256)
    ] : List (Nat × Instr)).all (fun p => decide (decodeEngine p.1 = .ok p.2)) = true := by decide +kernel

/-- Words written out from the encoding tables of spec/02_instruction_words.md: elementary. -/
theorem test_decode_elementary : ([
    (0xB80000001D0E9009, .vexp quiet { ty := .bf16, vd := 0x43, va := 0x52, pg := 9 }),
    (0xB90000001D0E9009, .vexp2 quiet { ty := .bf16, vd := 0x43, va := 0x52, pg := 9 }),
    (0xBA0000001D0E9009, .vexpm1 quiet { ty := .bf16, vd := 0x43, va := 0x52, pg := 9 }),
    (0xBB0000001D0E9009, .vlog quiet { ty := .bf16, vd := 0x43, va := 0x52, pg := 9 }),
    (0xBC0000001D0E9009, .vlog2 quiet { ty := .bf16, vd := 0x43, va := 0x52, pg := 9 }),
    (0xBD0000001D0E9009, .vlog1p quiet { ty := .bf16, vd := 0x43, va := 0x52, pg := 9 }),
    (0xBE0000001D0E9009, .vrcp quiet { ty := .bf16, vd := 0x43, va := 0x52, pg := 9 }),
    (0xBF0000001D0E9009, .vrsqrt quiet { ty := .bf16, vd := 0x43, va := 0x52, pg := 9 }),
    (0xC00000001D0E9009, .vsqrt quiet { ty := .bf16, vd := 0x43, va := 0x52, pg := 9 }),
    (0xC10000001D0E97F9, .vdiv quiet { ty := .bf16, vd := 0x43, va := 0x52, vb := 0x7F, pg := 9 }),
    (0xC20000001D0E9009, .vsin quiet { ty := .bf16, vd := 0x43, va := 0x52, pg := 9 }),
    (0xC30000001D0E9009, .vcos quiet { ty := .bf16, vd := 0x43, va := 0x52, pg := 9 }),
    (0xC40000001D0E9009, .vtanh quiet { ty := .bf16, vd := 0x43, va := 0x52, pg := 9 }),
    (0xC50000001D0E9009, .verf quiet { ty := .bf16, vd := 0x43, va := 0x52, pg := 9 }),
    (0xC60000001D0E9009, .vsigm quiet { ty := .bf16, vd := 0x43, va := 0x52, pg := 9 })
    ] : List (Nat × Instr)).all (fun p => decide (decodeEngine p.1 = .ok p.2)) = true := by decide +kernel

/-- Words written out from the encoding tables of spec/02_instruction_words.md: elementary approximate. -/
theorem test_decode_elementary_approximate : ([
    (0xC80000001D0E9009, .vexpa quiet { ty := .bf16, vd := 0x43, va := 0x52, pg := 9 }),
    (0xC90000001D0E9009, .vexp2a quiet { ty := .bf16, vd := 0x43, va := 0x52, pg := 9 }),
    (0xCA0000001D0E9009, .vexpm1a quiet { ty := .bf16, vd := 0x43, va := 0x52, pg := 9 }),
    (0xCB0000001D0E9009, .vloga quiet { ty := .bf16, vd := 0x43, va := 0x52, pg := 9 }),
    (0xCC0000001D0E9009, .vlog2a quiet { ty := .bf16, vd := 0x43, va := 0x52, pg := 9 }),
    (0xCD0000001D0E9009, .vlog1pa quiet { ty := .bf16, vd := 0x43, va := 0x52, pg := 9 }),
    (0xCE0000001D0E9009, .vrcpa quiet { ty := .bf16, vd := 0x43, va := 0x52, pg := 9 }),
    (0xCF0000001D0E9009, .vrsqrta quiet { ty := .bf16, vd := 0x43, va := 0x52, pg := 9 }),
    (0xD00000001D0E9009, .vsqrta quiet { ty := .bf16, vd := 0x43, va := 0x52, pg := 9 }),
    (0xD10000001D0E97F9, .vdiva quiet { ty := .bf16, vd := 0x43, va := 0x52, vb := 0x7F, pg := 9 }),
    (0xD20000001D0E9009, .vsina quiet { ty := .bf16, vd := 0x43, va := 0x52, pg := 9 }),
    (0xD30000001D0E9009, .vcosa quiet { ty := .bf16, vd := 0x43, va := 0x52, pg := 9 }),
    (0xD40000001D0E9009, .vtanha quiet { ty := .bf16, vd := 0x43, va := 0x52, pg := 9 }),
    (0xD50000001D0E9009, .verfa quiet { ty := .bf16, vd := 0x43, va := 0x52, pg := 9 }),
    (0xD60000001D0E9009, .vsigma quiet { ty := .bf16, vd := 0x43, va := 0x52, pg := 9 })
    ] : List (Nat × Instr)).all (fun p => decide (decodeEngine p.1 = .ok p.2)) = true := by decide +kernel

/-- Words written out from the encoding tables of spec/02_instruction_words.md: wide float. -/
theorem test_decode_wide_float : ([
    (0xD8000000000C2056, .vaddF64 quiet { vd := 3, va := 4, vb := 5, pg := 6 }),
    (0xD9000000000C2056, .vsubF64 quiet { vd := 3, va := 4, vb := 5, pg := 6 }),
    (0xDA000000000C2056, .vmulF64 quiet { vd := 3, va := 4, vb := 5, pg := 6 }),
    (0xDB000000000C2056, .vfmaF64 quiet { vd := 3, va := 4, vb := 5, pg := 6 }),
    (0xDC000000000C2056, .f64OtherArithmetic quiet .min { vd := 3, va := 4, vb := 5, pg := 6 }),
    (0xDC000000020C2056, .f64OtherArithmetic quiet .max { vd := 3, va := 4, vb := 5, pg := 6 }),
    (0xDC000000040C2006, .f64OtherArithmetic quiet .abs { vd := 3, va := 4, vb := 0, pg := 6 }),
    (0xDC000000060C2006, .f64OtherArithmetic quiet .neg { vd := 3, va := 4, vb := 0, pg := 6 }),
    (0xDC000000080C2056, .f64OtherArithmetic quiet .cmpeq { vd := 3, va := 4, vb := 5, pg := 6 }),
    (0xDC0000000A0C2056, .f64OtherArithmetic quiet .cmpne { vd := 3, va := 4, vb := 5, pg := 6 }),
    (0xDC0000000C0C2056, .f64OtherArithmetic quiet .cmplt { vd := 3, va := 4, vb := 5, pg := 6 }),
    (0xDC0000000E0C2056, .f64OtherArithmetic quiet .cmple { vd := 3, va := 4, vb := 5, pg := 6 }),
    (0xDC000000100C2056, .f64OtherArithmetic quiet .cmpun { vd := 3, va := 4, vb := 5, pg := 6 }),
    (0xDC000000120C2006, .f64OtherArithmetic quiet .redsum { vd := 3, va := 4, vb := 0, pg := 6 }),
    (0xDC000000140C2006, .f64OtherArithmetic quiet .redmax { vd := 3, va := 4, vb := 0, pg := 6 }),
    (0xDC000000160C2006, .f64OtherArithmetic quiet .redmin { vd := 3, va := 4, vb := 0, pg := 6 }),
    (0xDC000000180C2006, .f64OtherArithmetic quiet .scan { vd := 3, va := 4, vb := 0, pg := 6 })
    ] : List (Nat × Instr)).all (fun p => decide (decodeEngine p.1 = .ok p.2)) = true := by decide +kernel

/-- Words written out from the encoding tables of spec/02_instruction_words.md: wide conversions elementary. -/
theorem test_decode_wide_conversions_elementary : ([
    (0xDD000000000C2036, .vcvtF64 quiet .f64f32 3 4 (.stat .rdn) 6),
    (0xDD000000020C2036, .vcvtF64 quiet .f32f64 3 4 (.stat .rdn) 6),
    (0xDD000000040C2036, .vcvtF64 quiet .f64i64 3 4 (.stat .rdn) 6),
    (0xDD000000060C2036, .vcvtF64 quiet .f64n64 3 4 (.stat .rdn) 6),
    (0xDD000000080C2036, .vcvtF64 quiet .i64f64 3 4 (.stat .rdn) 6),
    (0xDD0000000A0C2036, .vcvtF64 quiet .n64f64 3 4 (.stat .rdn) 6),
    (0xDD0000000C0C2006, .vcvtF64 quiet .i64i32 3 4 (.stat .rne) 6),
    (0xDD0000000E0C2006, .vcvtF64 quiet .n64n32 3 4 (.stat .rne) 6),
    (0xDD000000100C2006, .vcvtF64 quiet .i32i64 3 4 (.stat .rne) 6),
    (0xDD000000120C2006, .vcvtF64 quiet .n32n64 3 4 (.stat .rne) 6),
    (0xDE000000000C2006, .f64Elementary quiet .exp { vd := 3, va := 4, vb := 0, pg := 6 }),
    (0xDE000000020C2006, .f64Elementary quiet .exp2 { vd := 3, va := 4, vb := 0, pg := 6 }),
    (0xDE000000040C2006, .f64Elementary quiet .expm1 { vd := 3, va := 4, vb := 0, pg := 6 }),
    (0xDE000000060C2006, .f64Elementary quiet .log { vd := 3, va := 4, vb := 0, pg := 6 }),
    (0xDE000000080C2006, .f64Elementary quiet .log2 { vd := 3, va := 4, vb := 0, pg := 6 }),
    (0xDE0000000A0C2006, .f64Elementary quiet .log1p { vd := 3, va := 4, vb := 0, pg := 6 }),
    (0xDE0000000C0C2006, .f64Elementary quiet .rcp { vd := 3, va := 4, vb := 0, pg := 6 }),
    (0xDE0000000E0C2006, .f64Elementary quiet .rsqrt { vd := 3, va := 4, vb := 0, pg := 6 }),
    (0xDE000000100C2006, .f64Elementary quiet .sqrt { vd := 3, va := 4, vb := 0, pg := 6 }),
    (0xDE000000120C2056, .f64Elementary quiet .div { vd := 3, va := 4, vb := 5, pg := 6 }),
    (0xDE000000140C2006, .f64Elementary quiet .sin { vd := 3, va := 4, vb := 0, pg := 6 }),
    (0xDE000000160C2006, .f64Elementary quiet .cos { vd := 3, va := 4, vb := 0, pg := 6 }),
    (0xDE000000180C2006, .f64Elementary quiet .tanh { vd := 3, va := 4, vb := 0, pg := 6 }),
    (0xDE0000001A0C2006, .f64Elementary quiet .erf { vd := 3, va := 4, vb := 0, pg := 6 }),
    (0xDE0000001C0C2006, .f64Elementary quiet .sigm { vd := 3, va := 4, vb := 0, pg := 6 })
    ] : List (Nat × Instr)).all (fun p => decide (decodeEngine p.1 = .ok p.2)) = true := by decide +kernel

/-- Words written out from the encoding tables of spec/02_instruction_words.md: wide integer. -/
theorem test_decode_wide_integer : ([
    (0xDF000000000C2056, .i64Arithmetic quiet .add { vd := 3, va := 4, vb := 5, pg := 6 }),
    (0xDF000000020C2056, .i64Arithmetic quiet .sub { vd := 3, va := 4, vb := 5, pg := 6 }),
    (0xDF000000040C2056, .i64Arithmetic quiet .mul { vd := 3, va := 4, vb := 5, pg := 6 }),
    (0xDF000000060C2056, .i64Arithmetic quiet .min { vd := 3, va := 4, vb := 5, pg := 6 }),
    (0xDF000000080C2056, .i64Arithmetic quiet .max { vd := 3, va := 4, vb := 5, pg := 6 }),
    (0xDF0000000A0C2056, .i64Arithmetic quiet .minu { vd := 3, va := 4, vb := 5, pg := 6 }),
    (0xDF0000000C0C2056, .i64Arithmetic quiet .maxu { vd := 3, va := 4, vb := 5, pg := 6 }),
    (0xDF0000000E0C2056, .i64Arithmetic quiet .and { vd := 3, va := 4, vb := 5, pg := 6 }),
    (0xDF000000100C2056, .i64Arithmetic quiet .or { vd := 3, va := 4, vb := 5, pg := 6 }),
    (0xDF000000120C2056, .i64Arithmetic quiet .xor { vd := 3, va := 4, vb := 5, pg := 6 }),
    (0xDF000000140C2056, .i64Arithmetic quiet .sll { vd := 3, va := 4, vb := 5, pg := 6 }),
    (0xDF000000160C2056, .i64Arithmetic quiet .srl { vd := 3, va := 4, vb := 5, pg := 6 }),
    (0xDF000000180C2056, .i64Arithmetic quiet .sra { vd := 3, va := 4, vb := 5, pg := 6 }),
    (0xDF0000001A0C2056, .i64Arithmetic quiet .cmplt { vd := 3, va := 4, vb := 5, pg := 6 }),
    (0xDF0000001C0C2056, .i64Arithmetic quiet .cmpltu { vd := 3, va := 4, vb := 5, pg := 6 }),
    (0xDF0000001E0C2056, .i64Arithmetic quiet .cmpeq { vd := 3, va := 4, vb := 5, pg := 6 })
    ] : List (Nat × Instr)).all (fun p => decide (decodeEngine p.1 = .ok p.2)) = true := by decide +kernel

/-- Words written out from the encoding tables of spec/02_instruction_words.md: attention peers. -/
theorem test_decode_attention_peers : ([
    (0xE000000001049000, .qpost quiet 4 1 2 2),
    (0xE100000019A9B000, .kapp quiet { f := true, ac := 9, d := 10, src := 0x13 } 6),
    (0xE200000019A9A000, .xfer quiet { f := true, ac := 9, d := 10, src := 0x13 } 4),
    (0xE300000000B18000, .rsig quiet 5 2 3)
    ] : List (Nat × Instr)).all (fun p => decide (decodeEngine p.1 = .ok p.2)) = true := by decide +kernel

/-- Unassigned opcodes of both sizes, from R37. -/
theorem test_unassigned_opcodes_are_refused :
    ([0x0B, 0x0F, 0x1C, 0x1F, 0x35, 0x37].all fun op => decide (decodeScalar (op * 2 ^ 26) = .error .opcode)) = true ∧
    ([0x0A, 0x1F, 0x2C, 0x5F, 0x66, 0x7F, 0x8F, 0xC7, 0xD7, 0xE4, 0xEF, 0xF0, 0xFF].all
      fun op => decide (decodeEngine (op * 2 ^ 56) = .error .opcode)) = true := by decide +kernel

/-- Unlisted fn values, sub-codes and field values: ADD's fn 21, AMO op 12, AMO FADD at 64 bits, CAS with an op, scope 5, access
size 4, shift code 3, FCMP condition 5, FMIN with a rounding mode, mode 5 of FADD, clasp code 5, SRD's fn 3, TRAP's fn 3. -/
theorem test_unlisted_codes_of_scalar_words_are_refused :
    ([0x00000015, 0x80000600, 0x800004C0, 0x84000080, 0x88000005, 0x60008000, 0x180000C0, 0x2000038A, 0x20000290, 0x20000050,
      0x90000500, 0xB8000300, 0xF8000300].all fun w => decodeTableWord 32 w == none) = true := by decide +kernel

/-- EBR condition 6, GSET field 14, GSET pos with a register, NMADD selector 3, fence scope 5, MMA mode 3, MSAVE target 6, VCVT
mode 6, VFLG selector 6, VSMRG code 3, VSMRG of another type, sub-code 13 at 0xDC, 10 at 0xDD, 15 at 0xDE, a mode on a
conversion that never rounds. -/
theorem test_unlisted_codes_of_engine_words_are_refused :
    ([0x0300000018000000, 0x2100000001C00000, 0x2100000001A20000, 0x2900000000006000, 0x2B00000000500000, 0x6100000018000000,
      0x6400000018000000, 0xA400000000000060, 0xB600000000003000, 0xB70000001E000600, 0xB700000000000000, 0xDC0000001A000000,
      0xDD00000014000000, 0xDE0000001E000000, 0xDD0000000C000070].all fun w => decodeTableWord 64 w == none) = true := by
  decide +kernel

/-- Reserved bits: ESTOP's operand, a unary vector word's vb, MDRAIN's low bits, TEXIT's register field, FENCE's immediate. -/
theorem test_reserved_bits_are_refused :
    decodeEngine 0x0100000000000001 = .error .reserved ∧ decodeEngine 0x8800000000000010 = .error .reserved ∧
    decodeEngine 0x6200000000000001 = .error .reserved ∧ decodeScalar 0xD0200000 = .error .reserved ∧
    decodeScalar 0x88000008 = .error .reserved := by decide +kernel

/-! ### Small states -/

/-- Core 0 with a task of ASID 1 whose one page of memory, at 0x400000, can be read, written and executed. -/
def placed : State := State.reset.withFetchWord 32 0

/-- `placed` with some x registers set. -/
def withX (l : List (Fin 32 × Nat)) : State :=
  { placed with core := { placed.core with x := l.foldl (fun v e => v.set e.1 (BitVec.ofNat 64 e.2)) placed.core.x } }

/-- `placed` with the turn at a sequencer. -/
def atSeq (u : SeqId) : State := { placed with unit := .seq u }

/-- What a next state holds. -/
def after {α : Type} (o : Out) (f : State → α) : Option α :=
  match o with
  | .next t => some (f t)
  | _ => none

/-- The outcome is a next state in which something holds. -/
def holdsAfter (o : Out) (f : State → Bool) : Bool := (after o f).getD false

/-- An access succeeds. -/
def okB {α : Type} (r : Res α) : Bool :=
  match r with
  | .ok _ => true
  | .error _ => false

theorem ok_of_okB {α : Type} {r : Res α} (h : okB r = true) : ∃ a, r = .ok a := by
  cases r with
  | ok a => exact ⟨a, rfl⟩
  | error c => cases h

/-- `placed` where X may take a cause: the frame is the task's page. -/
def trapReady : State := { placed with core := { placed.core with trapVec := 0x400100, taskFrame := 0x400001 } }

theorem raiseFlags_trapReady (c : Cause) : raiseFlags trapReady { cause := c } = trapReady := by
  have h1 : seamEn trapReady.dev = false := by decide +kernel
  have h2 : flagAttempt trapReady.dev flFault = trapReady.dev := by
    rfl
  simp [raiseFlags, causeLeaves, correctWords, h1, h2, State.onDev]

/-- The hypothesis of the trap statements: X may take a cause. -/
theorem test_a_state_may_trap (c : Cause) : Safety.mayTrap trapReady { cause := c } := by
  refine ⟨by decide +kernel, by decide +kernel, ?_⟩
  rw [raiseFlags_trapReady]
  exact ok_of_okB (by decide +kernel)

/-! ### Scalar words: one step each, and the hypotheses of the statements about them -/

/-- -1 + 1 wraps to 0 and -1 × -1 has the high half 0 signed and 2^64 - 2 unsigned (R124). -/
theorem test_integer_words :
    let s := withX [(2, 2 ^ 64 - 1), (3, 1)]
    holdsAfter (exec (.add 1 2 3) s) (fun t => xget t 1 == 0 && t.core.pc == 0x400004) = true ∧
    holdsAfter (exec (.mulh 1 2 2) s) (fun t => xget t 1 == 0) = true ∧
    holdsAfter (exec (.mulhu 1 2 2) s) (fun t => xget t 1 == 0xFFFFFFFFFFFFFFFE) = true ∧
    holdsAfter (exec (.slt 1 2 3) s) (fun t => xget t 1 == 1) = true ∧
    holdsAfter (exec (.sltu 1 2 3) s) (fun t => xget t 1 == 0) = true ∧
    holdsAfter (exec (.sra 1 2 3) s) (fun t => xget t 1 == 0xFFFFFFFFFFFFFFFF) = true ∧
    holdsAfter (exec (.add 0 2 3) s) (fun t => xget t 0 == 0) = true := by decide +kernel

/-- -7 / 2 = -3 with remainder -1 (R125). -/
theorem test_division_truncates :
    let s := withX [(2, 2 ^ 64 - 7), (3, 2)]
    xget s 3 ≠ 0 ∧ holdsAfter (exec (.div 1 2 3) s) (fun t => xget t 1 == 0xFFFFFFFFFFFFFFFD) = true ∧
    holdsAfter (exec (.rem 1 2 3) s) (fun t => xget t 1 == 0xFFFFFFFFFFFFFFFF) = true := by decide +kernel

/-- -2^63 / -1 = -2^63 (R125). -/
theorem test_division_of_the_least_number :
    let s := withX [(2, 2 ^ 63), (3, 2 ^ 64 - 1)]
    xget s 2 = BitVec.intMin 64 ∧ xget s 3 = -1 ∧
    holdsAfter (exec (.div 1 2 3) s) (fun t => xget t 1 == 0x8000000000000000) = true ∧
    holdsAfter (exec (.rem 1 2 3) s) (fun t => xget t 1 == 0) = true := by decide +kernel

/-- A divisor of 0 is cause 0x085 at the word, and the handler is entered (R125, R366). -/
theorem test_division_by_zero_traps :
    xget trapReady 3 = 0 ∧ holdsAfter (exec (.div 1 2 3) trapReady) (fun t =>
      t.core.trapCause == 0x085 && t.core.trapPc == 0x400000 && t.core.pc == 0x400100 && t.core.handler) = true := by
  decide +kernel

/-- LIH and ORI at the two ends of their range (R128). -/
theorem test_lih_and_ori_at_the_ends :
    ((1 : BitVec 5) ≠ 0 ∧ (-2 ^ 36 : Int) ≤ -2 ^ 36 ∧ (2 ^ 36 - 1 : Int) < 2 ^ 36) ∧
    holdsAfter (exec (.lih 1 0x100000) placed) (fun t => xget t 1 == BitVec.ofInt 64 (-2 ^ 36)) = true ∧
    holdsAfter (exec (.lih 1 0x0FFFFF) placed) (fun t =>
      holdsAfter (exec (.ori 1 1 0xFFFF) t) fun u => xget u 1 == BitVec.ofInt 64 (2 ^ 36 - 1)) = true := by decide +kernel

/-- A branch back by three words, a link and a misaligned JALR (R42, R43). -/
theorem test_branches_and_jumps :
    let s := withX [(5, 1), (6, 0x400002)]
    holdsAfter (exec (.bne 5 0 (-3)) s) (fun t => t.core.pc == 0x3FFFF4) = true ∧
    holdsAfter (exec (.jal 2) s) (fun t => t.core.pc == 0x400008 && xget t 1 == 0x400004) = true ∧
    (xget s 6 + BitVec.ofInt 64 (2 : BitVec 16).toInt).toNat % 4 = 0 ∧
    holdsAfter (exec (.jalr 6 6 2) s) (fun t => t.core.pc == 0x400004 && xget t 6 == 0x400004) = true ∧
    (xget s 6 + BitVec.ofInt 64 (1 : BitVec 16).toInt).toNat % 4 ≠ 0 := by decide +kernel

/-- 1.5 × 2 + 0.25 = 3.25 in F32, and 1 / 3 is inexact: 0x3EAAAAAB to nearest (R130, R132). -/
theorem test_scalar_floats :
    let s := withX [(1, 0x3FC00000), (2, 0x40000000), (3, 0x3E800000), (4, 0x3F800000), (5, 0x40400000)]
    holdsAfter (exec (.fma 6 1 2 3 .f32 .dyn) s) (fun t => xget t 6 == 0x40500000 && t.core.fstat == 0) = true ∧
    holdsAfter (exec (.fdiv 6 4 5 .f32 (.stat .rne)) s) (fun t => xget t 6 == 0x3EAAAAAB && t.core.fstat == 1) = true := by
  decide +kernel

/-- The two outcomes of a rounded scalar word: no enabled flag, and an enabled NX. -/
theorem test_scalar_float_hypotheses :
    let v := deliverRes .f32 { mode := .rne } (divVal (.num false 1 0) (.num false 3 0))
    v.2 = 1 ∧ v.2 &&& tenOf 0 = 0 ∧ arithCause v.2 (tenOf 0x100) = some .inexact := by decide +kernel

/-- A NaN makes NE and UN true; 1 < 2 (R138). -/
theorem test_scalar_compares :
    let s := withX [(1, 0x7FC00000), (2, 0x3F800000), (3, 0x40000000)]
    (fread s .f32 1).isNan = true ∧ ((fread s .f32 2).isNan || (fread s .f32 3).isNan) = false ∧
    holdsAfter (exec (.fcmp 4 1 2 .f32 .ne) s) (fun t => xget t 4 == 1) = true ∧
    holdsAfter (exec (.fcmp 4 2 3 .f32 .lt) s) (fun t => xget t 4 == 1) = true ∧
    holdsAfter (exec (.fcmp 4 1 2 .f32 .le) s) (fun t => xget t 4 == 0) = true := by decide +kernel

/-- A magnitude halfway between two multiples rounds to the even one: 3 × 2^-1 to 2, 1 × 2^-1 to 0. -/
theorem test_halfway_rounds_to_even :
    let c : RCtx := { mode := .rne }
    c.mode = .rne ∧ (0 : Int) = -1 + (1 : Nat) ∧ 0 < 1 ∧ roundAt c false 3 (-1) 0 = (2, true) ∧ roundAt c true 1 (-1) 0 = (0, true) := by
  decide +kernel

/-- TRAP enters the handler, and TRET leaves it where TRAP_PC says (R369). -/
theorem test_trap_and_return :
    holdsAfter (exec (.trap 7) trapReady) (fun t =>
      t.core.handler && t.core.trapCause == 5 && t.core.trapInfo == 7 && t.core.trapPc == 0x400004 &&
      (match t.core.delivered with | some (.x, _) => true | _ => false) &&
      holdsAfter (exec .tret t) (fun u => u.core.pc == 0x400004 && !u.core.handler)) = true ∧
    trapReady.core.handler = false := by decide +kernel

/-- A delivered cause of a sequencer: its TRET resumes X at TRAP_PC, or at TRAP_ADDR for a word's cause. -/
theorem test_return_from_a_sequencer_cause :
    let s : State := { trapReady with core := { trapReady.core with
      handler := true, delivered := some (.seq .c, { cause := .queueUnf }), trapPc := 0x400010 } }
    s.core.handler = true ∧ noUnit .c = false ∧ holdsAfter (exec .tret s) (fun t => t.core.pc == 0x400010) = true := by
  decide +kernel

/-- CSRs: a read of CORE_ID, the privileged TRAP_VEC in and out of handler mode, and a number that no CSR has (R39). -/
theorem test_csr_hypotheses :
    let h : State := { placed with core := { placed.core with handler := true } }
    (csrRead placed 0x400).isSome = true ∧ csrPrivileged 0x400 = false ∧ (csrRead h 0x804).isSome = true ∧ h.core.handler = true ∧
    csrPrivileged 0x804 = true ∧ placed.core.handler = false ∧ csrRead placed 0x004 = none ∧ csrRead placed 0x806 = none ∧
    (0x7FF : Nat) / 1024 = 1 := by decide +kernel

/-- A free slot of the page-request ring, with the spare bits zero; a spare bit set. -/
theorem test_page_request_hypotheses :
    let h : State := { placed with core := { placed.core with handler := true }, dev := sysWrite placed.dev 64 [] }
    let full : State := { h with dev := sysWrite h.dev 24 [1] }
    h.core.handler = true ∧ (5 : Word) &&& pgreqSpare = 0 ∧ (0x400 : Word) &&& pgreqSpare ≠ 0 ∧
    (match pageSlot h with
      | .ok (pa, _, _) => (sysRead h.dev [] (pa + 24) 8).map ofBytesLE == some 0 && (sysRead full.dev [] (pa + 24) 8).map ofBytesLE == some 1
      | .error _ => false) = true ∧
    holdsAfter (exec (.pgreq 1 2 3) h) (fun t => xget t 1 == 0 && t.core.task.any (·.pagePending)) = true ∧
    holdsAfter (exec (.pgreq 1 2 3) full) (fun t => xget t 1 == 1) = true := by decide +kernel

/-- A store and a load of the task's page under each policy, and misaligned ones. -/
theorem test_loads_and_stores :
    let s := withX [(2, 0x400800), (3, 0xFFFFFFFFFFFFFF85)]
    (0x400800 : Nat) % 8 = 0 ∧ (0x400801 : Nat) % 8 ≠ 0 ∧
    okB (xread s .d 0x400800 8) = true ∧ okB (xread s .b 0x400800 8) = true ∧ okB (xwrite s .d 0x400800 (toBytesLE 8 1)) = true ∧
    okB (xwrite s .u 0x400800 (toBytesLE 8 1)) = true ∧
    holdsAfter (exec (.st 3 2 .b8 .d 1) s) (fun t =>
      holdsAfter (exec (.ld 4 2 .b8 .d 1) t) (fun u => xget u 4 == 0xFFFFFFFFFFFFFF85) &&
      holdsAfter (exec (.ldz 4 2 .b16 .b 0) t) (fun u => xget u 4 == 0x8500)) = true ∧
    Safety.rising s.dev.l2 ∧ Safety.rising s.core.l1 := by
  refine ⟨by decide, by decide, by decide +kernel, by decide +kernel, by decide +kernel, by decide +kernel, by decide +kernel, ?_, ?_⟩
  · simp only [Safety.rising]; decide +kernel
  · simp only [Safety.rising]; decide +kernel

/-- An atomic add, a compare-and-swap that succeeds, and the two refusals of the statement. -/
theorem test_atomics :
    let s := withX [(2, 0x400800), (3, 5), (4, 0)]
    let det : State := { s with core := { s.core with regionId := 0x200000000 } }
    detStrict s = false ∧ detStrict det = true ∧ okB (xatomic s 0x400800 8 (.amo .add 5)) = true ∧
    holdsAfter (exec (.amo .add 1 2 3 true) s) (fun t => xget t 1 == 0 &&
      holdsAfter (exec (.cas 3 2 4 true) t) (fun u => xget u 3 == 5) && holdsAfter (exec (.amo .swap 1 2 4 true) t) (fun u => xget u 1 == 5)) = true ∧
    (0x400801 : Nat) % 4 ≠ 0 := by decide +kernel

/-- A state with a number written to the task's page, at a virtual address. -/
def poke (s : State) (va n v : Nat) : State := s.onDev fun d => homeWrite d (placePa + 0x5000 - placeVa + va) (toBytesLE n v)

/-- A free clasp at 0x400800 whose list is at 0x400900, with a free register pair, in `trapReady`. -/
def clasp (owner : Nat) : State :=
  let s := poke (poke trapReady 0x400810 8 0x400900) 0x400800 8 owner
  { s with core := { s.core with x := (s.core.x.set 2 0x400800).set 3 64 } }

/-- The owner, the binding count and the waiters of a clasp. -/
def viewOf (s : State) : Option (Nat × Nat) :=
  match claspView s 0x400800 .read with
  | .ok (_, c) => some (c.owner, c.nbind)
  | .error _ => none

/-- The cases of the clasp statement: a free clasp, one of the task, one of another task. -/
theorem test_clasps :
    frameId (clasp 0) = 0x400001 ∧ viewOf (clasp 0) = some (0, 0) ∧ viewOf (clasp 0x400001) = some (0x400001, 0) ∧ viewOf (clasp 9) = some (9, 0) ∧
    holdsAfter (exec (.ctry 1 2) (clasp 0)) (fun t => xget t 1 == 1 && viewOf t == some (0x400001, 0)) = true ∧
    holdsAfter (exec (.ctry 1 2) (clasp 9)) (fun t => xget t 1 == 0) = true ∧
    holdsAfter (exec (.cacq 2) (clasp 0)) (fun t => viewOf t == some (0x400001, 0) && t.core.pc == 0x400004) = true ∧
    holdsAfter (exec (.cacq 2) (clasp 9)) (fun t => t.core.pc == 0x400000 && t.dev.claspWait.length == 1) = true := by
  decide +kernel

/-- The owner binds a region, unbinds it and releases. -/
theorem test_clasp_owner :
    holdsAfter (exec (.cbind 3 2 3) (clasp 0x400001)) (fun t => viewOf t == some (0x400001, 1) &&
      holdsAfter (exec (.cunb 2 3) t) (fun u => viewOf u == some (0x400001, 0)) &&
      holdsAfter (exec (.crel 2) t) (fun u => viewOf u == some (0, 1))) = true := by decide +kernel

/-- A fence of X that has nothing to wait for, and one that waits for an accepted near-memory operation. -/
theorem test_fences :
    fencePending (fenceActions placed .x .q .package) .x .x .package = false ∧
    (let s := withX [(2, 0x400800), (3, 7)]
     holdsAfter (exec (.nmadd 2 3 .i32) s) (fun t => fencePending (fenceActions t .n .x .core) .x .n .core && nopsPending t .x &&
       holdsAfter (exec .nmfen t) (fun u => u.core.pc == 0x400004)) = true ∧
     nopsPending s .x = false ∧ okB (nopAccept s .x 1 true 0x400800 7) = true ∧ (0x400802 : Nat) % 4 ≠ 0) := by
  decide +kernel

/-- A window of two keys of F32 on one line (R237): opening, the next key, a later key, cancelling. -/
theorem test_reduction_window :
    let s := withX [(1, 0x1F), (2, 0x400800), (3, 128), (4, 0), (5, 1), (6, 0x3F800000)]
    (0x400800 : Nat) % 128 = 0 ∧ (128 : Nat) % 128 = 0 ∧ fld 0x1F 38 26 = 0 ∧ windowType (tyOf (fld 0x1F 0 4)) = true ∧ fld 0x1F 20 9 ≤ 287 ∧
    (match windowLines s 0x400800 128 258 0x400800 with
      | .ok l => decide (lineTaken s.dev 0 l = none) && !diesFull s.dev l
      | .error _ => false) = true ∧ fld (287 * 2 ^ 20) 20 9 ≤ 287 ∧
    holdsAfter (exec (.rwin 1 2 3) s) (fun t =>
      t.dev.rwins.length == 1 && holdsAfter (exec (.redst 4 2 6 .f32) t) (fun u => u.core.pc == 0x400008) &&
      okB (redstElem t .f32 0 0x400804 0x3F800000 none false) &&
      holdsAfter (exec (.rwinCancel 2) t) (fun u => u.dev.rwins.isEmpty)) = true ∧
    s.dev.rwins.any (fun w => w.base == 0x400800 && w.asid == 1) = false := by decide +kernel

/-- ECMD to an idle, a running and a full sequencer; EFEN and EFLUSH of an idle and a running one (R45, R47, R300). -/
theorem test_commands :
    let s := withX [(5, 0x400100), (6, 77), (7, 0x400104)]
    let busy : State := { s with core := { s.core with s := { s.core.s with running := true, flight := none } } }
    let full : State := { s with core := { s.core with s := { s.core.s with running := true, queue := List.replicate 4 (0, 0) } } }
    let fly : State := { s with core := { s.core with s := { s.core.s with
      running := true, flight := some (Safety.flight .s quiet (.enop quiet) 0) } } }
    (0x400100 : Nat) % 8 = 0 ∧ (0x400104 : Nat) % 8 ≠ 0 ∧ (seqOf s .s).queue = [] ∧ (seqOf s .s).running = false ∧
    (seqOf busy .s).queue.length < 4 ∧ (seqOf busy .s).running = true ∧ 4 ≤ (seqOf full .s).queue.length ∧ maskSeqs 4 = [.s] ∧
    (seqOf fly .s).flight ≠ none ∧ (seqOf busy .s).flight = none ∧
    holdsAfter (exec (.ecmd 3 5 6) s) (fun t => t.core.s.running && t.core.s.pc == 0x400100 && t.core.s.idx[0] == 77) = true ∧
    holdsAfter (exec (.efen 4) busy) (fun t => t.core.pc == 0x400000) = true ∧
    holdsAfter (exec (.eflush 4) busy) (fun t => !t.core.s.running && t.core.pc == 0x400004) = true ∧
    holdsAfter (exec (.eflush 4) fly) (fun t => t.core.pc == 0x400000) = true := by decide +kernel

/-- Token queues at 0, 15 and 16 tokens; semaphores at their bounds (R48, R292 to R298). -/
theorem test_tokens_and_semaphores :
    let tok (n : Nat) : State := { placed with core := setTokens (setTokens placed.core 2 n) 9 n }
    let sem (n : Nat) : State := { placed with core := semSet placed.core 255 n }
    tokens (tok 15).core 2 < 16 ∧ 16 ≤ tokens (tok 16).core 2 ∧ 0 < tokens (tok 1).core 9 ∧ tokens (tok 0).core 9 = 0 ∧
    holdsAfter (exec (.toks 3) (tok 15)) (fun t => tokens t.core 2 == 16) = true ∧
    holdsAfter (exec (.tokr 3) (tok 1)) (fun t => tokens t.core 9 == 0) = true ∧
    holdsAfter (exec (.toks 3) (tok 16)) (fun t => t.core.pc == 0x400000) = true ∧
    semVal (sem 255).core 255 = 255 ∧ holdsAfter (exec (.swait 255 255) (sem 255)) (fun t => semVal t.core 255 == 0) = true ∧
    holdsAfter (exec (.swait 255 255) (sem 254)) (fun t => t.core.pc == 0x400000 && semVal t.core 255 == 254) = true ∧
    ((sem 0).core.semMask[255]).getLsbD 0 = true ∧
    holdsAfter (exec (.ssig 0 255 1) (sem 65534)) (fun t => semVal t.core 255 == 65535) = true := by decide +kernel

/-- WFE with and without a latched event, SSET at 65,535 and 65,536, SEMCFG at 127 and 128. -/
theorem test_events_and_sets :
    let s := withX [(1, 65535), (2, 65536), (3, 127), (4, 128)]
    let e : State := { s with core := { s.core with ev := 2 } }
    (e.core.ev ||| 0) &&& 2 ≠ 0 ∧ (s.core.ev ||| (if s.core.wfeHit = true ∨ xget s 1 = 0 then 0x20 else 0)) &&& 0x3F = 0 ∧
    holdsAfter (exec (.wfe 5 1 0x3F) e) (fun t => xget t 5 == 2 && t.core.ev == 0) = true ∧
    holdsAfter (exec (.wfe 5 0 0x20) s) (fun t => xget t 5 == 0x20) = true ∧
    holdsAfter (exec (.wfe 5 1 0x3F) s) (fun t => t.core.pc == 0x400000) = true ∧
    holdsAfter (exec (.sset 1 9) s) (fun t => semVal t.core 9 == 65535 && t.core.ev == 1) = true ∧
    holdsAfter (exec (.sset 2 9) s) (fun t => semVal t.core 9 == 0) = true ∧
    holdsAfter (exec (.semcfg 3 9) s) (fun t => t.core.pc == 0x400004) = true ∧
    holdsAfter (exec (.semcfg 4 9) s) (fun t => t.core.pc == 0x400000) = true := by decide +kernel

/-- A state whose slice has no free parking line: 512 windows reserve them all. -/
def crowdedWin : RWin :=
  { asid := 1, base := 0x400800, lines := [(placePa + 0x5800) / 128], n := 2, ty := .f32, note := false, sem := 0, core := 0,
    next := 0, claimed := [], acc := [], parked := [] }

/-- See `crowdedWin`. -/
def crowded : State := placed.onDev fun d => { d with rwins := List.replicate 512 crowdedWin }

theorem canPark_crowded (d : Dev) (n : Nat) (w : RWin) :
    canPark { d with rwins := List.replicate n crowdedWin } w 1 ((placePa + 0x5800) / 128) = decide (n < 512) := by
  have hf : ∀ (p : RWin → Bool), p crowdedWin = true → (List.replicate n crowdedWin).filter p = List.replicate n crowdedWin := by
    intro p hp; simp [hp]
  have hm : (List.replicate n crowdedWin).map (fun w => (w.parked.filter fun p => sliceOf (p.2.1 / 128) == sliceOf ((placePa + 0x5800) / 128)).map
      fun p => (w.base.toNat, p.1, p.2.1 / 128)) = List.replicate n [] := by simp [crowdedWin]
  have hz : ((List.replicate n ([] : List (Nat × Nat × Nat))).flatten).eraseDups = [] := by simp
  have hp : parkedAt { d with rwins := List.replicate n crowdedWin } ((placePa + 0x5800) / 128) = [] := by
    unfold parkedAt
    exact (congrArg (fun l => (List.flatten l).eraseDups) hm).trans hz
  have hr := congrArg List.length (hf (fun x => x.lines.any fun m => sliceOf m == sliceOf ((placePa + 0x5800) / 128)) (by simp [crowdedWin]))
  rw [List.length_replicate] at hr
  unfold canPark
  simp only [hp, hr, List.contains_nil, List.length_nil, Nat.zero_add, Bool.false_or, Config.parkingLines]

/-- A contribution that finds no parking line waits (R242). -/
theorem test_redst_waits : redstElem crowded .f32 1 0x400800 0 none false = .ok .full := by
  have h2 : okB (translate crowded.dev (accOf crowded) .both 0x400800) = true := by decide +kernel
  obtain ⟨x, hx⟩ := ok_of_okB h2
  have hp : (match translate crowded.dev (accOf crowded) .both 0x400800 with
    | .ok x => decide (x.pa = placePa + 0x5800 ∧ x.remote = none ∧ x.attr = 0) | .error _ => false) = true := by decide +kernel
  rw [hx] at hp
  obtain ⟨h3, h4, h5⟩ := of_decide_eq_true hp
  have h1 : (accOf crowded).run = 0 := by decide +kernel
  have hr : regionOf 0x400800 = .mem := by decide +kernel
  have hw : windowOf crowded.dev (placePa + 0x5800) = some crowdedWin := by decide +kernel
  have hc : canPark crowded.dev crowdedWin 1 ((placePa + 0x5800) / 128) = false := canPark_crowded placed.dev 512 crowdedWin
  have hl : crowdedWin.claimed = [] ∧ crowdedWin.ty = .f32 ∧ crowdedWin.n = 2 ∧ crowdedWin.next = 0 := ⟨rfl, rfl, rfl, rfl⟩
  have hb : l2Read crowded.dev (placePa + 0x5800) (groupBytes .f32) ≠ none := by decide +kernel
  simp [redstElem, h1, hr, hx, h3, h4, h5, hw, hc, hl, hb, bind, Except.bind, pure, Except.pure]

/-- `placed` with a ready ring of four records in its region, a continuation record at 0x400840 that names the join counter at
0x400880, a count there, and the addresses in x1 to x3. -/
def tasked (join count : Nat) : State :=
  let s := poke (poke (poke placed 0x400840 8 0x400200) 0x400850 8 join) 0x400880 8 count
  { s with
    core := { s.core with x := ((s.core.x.set 1 0x400840).set 2 0x400880).set 3 1, taskFrame := 0x400001 }
    dev := { s.dev with launches := s.dev.launches.map fun l => { l with path := [{ placeEff with qslots := 4 }] } } }

/-- SPAWN without a join counter and with one (R288). -/
theorem test_spawn :
    holdsAfter (exec (.spawn 1) (tasked 0 0)) (fun t => t.dev.ready.length == 1 && t.core.pc == 0x400004) = true ∧
    holdsAfter (exec (.spawn 1) (tasked 0x400880 3)) (fun t => t.dev.ready.length == 1 &&
      (sysRead t.dev [] (placePa + 0x5880) 8).map ofBytesLE == some 4) = true := by decide +kernel

/-- The hypotheses of the SPAWN statement hold in `tasked`. -/
theorem test_spawn_hypotheses :
    let s := tasked 0x400880 3
    checking s = false ∧ (ownLaunch s).any (fun l => ((s.core.task.bind fun t => ownSubtree l t 0).bind headEff).any
      (fun e => decide (ringCount s.dev e.rqbase < e.qslots))) = true ∧ (xget s 1).toNat % 32 = 0 ∧
    (match xread s .b 0x400840 32 with
      | .ok (_, bs) => (contOf (ofBytesLE bs)).1.code.toNat % 4 == 0 && decide ((contOf (ofBytesLE bs)).2 < 2 ^ 20) &&
        (contOf (ofBytesLE bs)).1.join == 0x400880
      | .error _ => false) = true ∧
    (match readCounter s 0x400880 with
      | .ok (r, x, n, w) => n == 3 && w == 0 && okB (objPut r x 0x400880 0 8 4)
      | .error _ => false) = true := by decide +kernel

/-- JOIN at a count of 0, of 3, and in a C launch. -/
theorem test_join :
    let c (s : State) : State := { s with dev := { s.dev with launches := s.dev.launches.map fun l => { l with cls := 2 } } }
    holdsAfter (exec (.join 2) (tasked 0 0)) (fun t => t.core.pc == 0x400004 && t.core.saving.isNone) = true ∧
    holdsAfter (exec (.join 2) (tasked 0 3)) (fun t => t.core.pc == 0x400004 && t.core.saving.isSome &&
      (match readCounter t 0x400880 with | .ok (_, _, n, w) => n == 3 && w == 0x400001 | .error _ => false)) = true ∧
    holdsAfter (exec (.join 2) (c (tasked 0 3))) (fun t => t.core.pc == 0x400000 && decide (t.core.xwait = .join)) = true := by
  decide +kernel

/-- A live graph of two nodes at 0x400880 whose node 0 has one predecessor left, node 1 none. -/
theorem test_ndone :
    let s := tasked 0 0
    let g : Graph := { table := 0x400880, die := 0, sram := 2, counters := [2, 1], ended := 0 }
    let live : State := { s with dev := { s.dev with launches := s.dev.launches.map fun l => { l with total := 2, graph := some g } } }
    (s.dev.launches.find? fun l => launchAsid l == s.core.asid && ((liveGraph l).map (·.table)) == some (xget s 2)) = none ∧
    (live.dev.launches.find? fun l => launchAsid l == live.core.asid && ((liveGraph l).map (·.table)) == some (xget live 2)).isSome = true ∧
    holdsAfter (exec (.ndone 2 0) live) (fun t => (t.dev.launches.map fun l => (l.graph.map (·.counters)).getD []) == [[1, 1]]) = true ∧
    holdsAfter (exec (.ndone 2 3) live) (fun t => (t.dev.launches.map fun l => (l.graph.map (·.counters)).getD []) == [[2, 0]] &&
      t.core.pc == 0x400004) = true := by decide +kernel

/-- YIELD with nothing else to run and with a task that is page-pending; TEXIT of an idle core and of a busy one. -/
theorem test_yield_and_texit :
    let pend : State := { placed with core := { placed.core with task := placed.core.task.map fun t => { t with pagePending := true } } }
    let busy : State := { placed with core := { placed.core with l := { placed.core.l with running := true } } }
    placed.core.task.any (fun t => !otherWork placed t && t.join == 0) = true ∧ (ownLaunch placed).any (fun l => l.cls == 0) = true ∧
    holdsAfter (exec .yield placed) (fun t => t.core.saving.isNone && t.core.pc == 0x400004) = true ∧
    holdsAfter (exec .yield pend) (fun t => t.core.saving.isSome) = true ∧
    exitPending placed = false ∧ (flushL1 placed).dev.nops = [] ∧ exitPending busy = true ∧
    holdsAfter (exec .texit placed) (fun t => t.core.task.isNone) = true ∧
    holdsAfter (exec .texit busy) (fun t => t.core.task.isSome) = true := by decide +kernel

/-- A Seam ASID with an open attempt 6 that the task has joined. -/
def seamed (st : SeamState) (joined : Bool) : State :=
  { placed with
    core := { placed.core with txnAid := if joined then some 6 else none, x := (placed.core.x.set 1 6).set 2 1 }
    dev := { placed.dev with seam := { placed.dev.seam with cfg := 0x8000100000000000, state := st, aid := 6, lAid := 4, lOut := 1 } } }

/-- The cases of the attempt statements: open and idle, joined or not, of another ASID. -/
theorem test_attempts :
    (seamEn (seamed .opened false).dev = true ∧ (seamed .opened false).core.asid = seamAsid (seamed .opened false).dev ∧
     inCheck (seamed .opened false) = false) ∧ seamEn placed.dev = false ∧
    scrubHold (seamed .idle false).dev = false ∧
    holdsAfter (exec (.tbegin 5) (seamed .opened false)) (fun t => xget t 5 == 6 && decide (t.core.txnAid = some 6)) = true ∧
    holdsAfter (exec (.tbegin 5) (seamed .idle false)) (fun t => decide (t.dev.seam.state = .opened)) = true ∧
    holdsAfter (exec (.tbegin 5) (seamed .voted false)) (fun t => t.core.pc == 0x400000) = true ∧
    (isOpen (seamed .opened true) = true ∧ joinedA (seamed .opened true) = true ∧ isOpen (seamed .idle true) = false) ∧
    holdsAfter (exec (.tflag 2 0) (seamed .opened true)) (fun t => t.dev.seam.flags == 1) = true ∧
    flushPending placed = false ∧ holdsAfter (exec .pflush placed) (fun t => t.core.pc == 0x400004) = true := by decide +kernel

/-- The flush of a task with an accepted near-memory operation is pending. -/
theorem test_flush_waits :
    holdsAfter (exec (.nmadd 2 3 .i32) (withX [(2, 0x400800), (3, 7)])) (fun t => flushPending t) = true := by decide +kernel

/-- SVOTE of the open attempt, TWAIT of the decided one, of the running one, and of none (R354, R355). -/
theorem test_votes :
    let s := seamed .opened true
    (6 : Word).toNat < 2 ^ 16 ∧ (xget s 2).toNat < 64 ∧ txnValid s = true ∧ checkOutstanding s.dev = false ∧ flushPending s = false ∧
    s.core.xwait ≠ .svote ∧ inTwait s.core = false ∧ s.dev.seam.aid ≠ s.dev.seam.lAid ∧ attemptLive s.dev = true ∧
    holdsAfter (exec (.svote 1 2) s) (fun t => t.core.pc == 0x400004 && decide (t.dev.seam.state ≠ .opened)) = true ∧
    holdsAfter (exec (.svote 2 2) s) (fun t => t.core.pc == 0x400000) = true ∧
    holdsAfter (exec (.twait 5 1) s) (fun t => decide (t.core.xwait = .twait 5 6)) = true ∧
    (let l : State := { s with core := { s.core with x := s.core.x.set 1 4, txnAid := some 4, snapshot := some (Vector.replicate 8 9) },
                               dev := { s.dev with seam := { s.dev.seam with lOut := 2 } } }
     holdsAfter (exec (.twait 5 1) l) (fun t => xget t 5 == 0x20004 && t.core.seqno[3] == 9 && t.core.snapshot.isNone) = true) ∧
    holdsAfter (exec (.tstat 5) s) (fun t => xget t 5 == seamst s.dev.seam) = true := by decide +kernel

/-! ### Engine words: when they issue, and the hypotheses of the statements about them -/

/-- A word with no synchronisation may issue at a sequencer of the core with nothing in flight. -/
theorem issues_of_idle {s : State} {u : SeqId} (hu : s.unit = .seq u) (hn : noUnit u = false) (hf : (seqOf s u).flight = none)
    (hr : (seqOf s u).resume = none) : Safety.issues s u quiet := by
  refine ⟨hu, hn, hf, hr, fun _ => ⟨rfl, rfl⟩, .inl rfl, ?_, ?_⟩
  · intro k h; cases u <;> simp [tkiQueue, quiet] at h
  · intro k h; cases u <;> simp [tkoQueue, quiet] at h

/-- L, C, S and a copy engine may issue in a small state. -/
theorem test_words_may_issue : Safety.issues (atSeq .l) .l quiet ∧ Safety.issues (atSeq .c) .c quiet ∧
    Safety.issues (atSeq .s) .s quiet ∧ Safety.issues (atSeq (.e 47)) (.e 47) quiet := by
  refine ⟨issues_of_idle rfl ?_ ?_ ?_, issues_of_idle rfl ?_ ?_ ?_, issues_of_idle rfl ?_ ?_ ?_, issues_of_idle rfl ?_ ?_ ?_⟩ <;>
    decide +kernel

/-- A word of L that takes 31 from a semaphore, a token of X and a slot of its queue to X. -/
def busySync : Sync := { wthr := 31, wsem := 255, sinc := 3, ssem := 7, tki := 1, tko := 1 }

/-- L with the counts that `busySync` needs, or fewer. -/
def counted (sem tin tout : Nat) : State :=
  let s := atSeq .l
  { s with core := setTokens (setTokens (semSet s.core 255 sem) 0 tin) 3 tout }

/-- `busySync` may issue at its bounds: 31 in the count, one token in and 15 out. -/
theorem test_a_counted_word_may_issue : Safety.issues (counted 31 1 15) .l busySync := by
  refine ⟨by decide +kernel, by decide, by decide +kernel, by decide +kernel, by decide, .inr (by decide +kernel), ?_, ?_⟩
  · intro k h
    have : k = 0 := by revert h; simp only [tkiQueue, busySync]; intro h; revert h; simp; omega
    subst this; decide +kernel
  · intro k h
    have : k = 3 := by revert h; simp only [tkoQueue, busySync]; intro h; revert h; simp; omega
    subst this; decide +kernel

/-- The waits of `busySync` one short of its bounds, each in the order of the statement (R24). -/
theorem test_waits_at_issue :
    issueWait (counted 31 1 15) .l busySync = none ∧ issueWait (counted 30 0 16) .l busySync = some (.sem 255 31) ∧
    issueWait (counted 31 0 16) .l busySync = some (.pop 0 1) ∧ issueWait (counted 31 1 16) .l busySync = some (.push 1 0) ∧
    (tkiQueue .l 1 = some 0 ∧ tkoQueue .l 1 = some 3) ∧
    holdsAfter (exec (.enop busySync) (counted 30 1 15)) (fun t => semVal t.core 255 == 30 && t.core.l.flight.isNone) = true ∧
    holdsAfter (exec (.enop busySync) (counted 31 1 15)) (fun t => semVal t.core 255 == 0 && tokens t.core 0 == 0 &&
      t.core.l.flight.isSome) = true := by decide +kernel

/-- A word of C at L raises INSN.SEQ_MISMATCH and takes nothing. -/
theorem test_a_word_at_the_wrong_sequencer :
    (Instr.loop quiet 1 0).sync? = some quiet ∧ noUnit .l = false ∧ (seqOf (atSeq .l) .l).flight = none ∧ (SeqId.l ≠ .c) ∧
    holdsAfter (exec (.loop quiet 1 0) (atSeq .l)) (fun t => t.core.l.cause.any fun c => decide (c.cause = .seqMismatch)) = true := by
  decide +kernel

/-- An ESTOP with a signal retires: its semaphore, its token; the same with its count at 65,532 (R25, R27). -/
theorem test_retirement :
    let at_ (sem : Nat) : State := { counted sem 0 0 with core := { (counted sem 0 0).core with l := { (counted sem 0 0).core.l with
      running := true, flight := some { Safety.flight .l busySync (.enop busySync) 0x400000 with ssem := 255 } } } }
    noUnit .l = false ∧ (seqOf (at_ 65531) .l).flight.any (fun f => mayRetire (at_ 65531) .l f && f.held.isEmpty && !f.estop && f.sinc == 3) = true ∧
    ownSeq (at_ 65531) .l = true ∧ ((at_ 0).core.semMask[255]).getLsbD (sourceBit .l) = true ∧
    holdsAfter (exec (.wordRetire .l) (at_ 65531)) (fun t => semVal t.core 255 == 65535 && tokens t.core 3 == 1) = true ∧
    holdsAfter (exec (.wordRetire .l) (at_ 65532)) (fun t => semVal t.core 255 == 65532 && t.core.l.cause.any fun c => decide (c.cause = .semOvf)) = true := by
  decide +kernel

/-- EBR with its condition true and false, LOOP at 1 and at 2, ILD of an aligned address (R50, R51, R53, R55). -/
theorem test_sequencing :
    let s : State := { atSeq .c with core := { placed.core with c := { placed.core.c with idx := (placed.core.c.idx.set 1 2).set 2 0x400800 }, vrb := 0 } }
    iget (seqOf s .c) 1 ≠ iget (seqOf s .c) 2 ∧ (0x400800 : Nat) % 8 = 0 ∧ okB (vread64 s (accOf s) 0x400800) = true ∧
    holdsAfter (exec (.ebr quiet .lt 1 2 (-1)) s) (fun t => t.core.c.pc == s.core.c.pc - 8) = true ∧
    holdsAfter (exec (.ebr quiet .eq 1 2 (-1)) s) (fun t => t.core.c.pc == s.core.c.pc + 8) = true ∧
    holdsAfter (exec (.loop quiet 1 (-3)) s) (fun t => t.core.c.idx[1] == 1 && t.core.c.pc == s.core.c.pc - 24 && t.core.vrb == 31 && t.core.prb == 7) = true ∧
    holdsAfter (exec (.ild quiet 3 2 0) s) (fun t => t.core.c.flight.isSome && t.core.c.idx[3] == 0) = true := by decide +kernel

/-- A descriptor (R96): type, space, direction, base, groups of the inner loop and their distance. -/
def desc (ty space dir base n0 s0 : Nat) : Nat := base + dir * 2 ^ 122 + space * 2 ^ 123 + ty * 2 ^ 124 + s0 * 2 ^ 128 + (n0 - 1) * 2 ^ 176

/-- Four F32 elements: g1 in memory, popped; g2 in the window, pushed; g3 in the window, popped; g4 in memory, pushed; two N32 row
numbers in the window: g5; a table of rows of two elements: g6 popped, g7 pushed; g8 and g9 as g3 and g4 with I32. -/
def streams (u : SeqId) : State :=
  let s := atSeq u
  let r (n : Nat) : StreamReg := { desc := BitVec.ofNat 512 n, pos := 0 }
  { s with core := { s.core with
      task := s.core.task.map fun t => { t with spsize := 65536 }
      g := (((((((((s.core.g.set 1 (r (desc 15 1 0 0x400800 4 4))).set 2 (r (desc 15 0 1 0x100 4 4))).set 3 (r (desc 15 0 0 0x200 4 4))).set 4
        (r (desc 15 1 1 0x400900 4 4))).set 5 (r (desc 7 0 0 0x300 2 4))).set 6 (r (desc 15 1 0 0x400800 2 4))).set 7
        (r (desc 15 1 1 0x400A00 2 4))).set 8 (r (desc 6 0 0 0x200 4 4))).set 9 (r (desc 6 1 1 0x400900 4 4))) } }

/-- The hypotheses of the transfer statement. -/
def moveMeets (m : Move) (o : XOp) (s : State) (u : SeqId) : Bool :=
  let t := issueTake s u quiet
  okB (moveDecode m o s u) && okB (moveEarly m o s u) &&
    match fetchEnds noOwn m o t u with
    | .error _ => false
    | .ok (s0, e) =>
      let p := pull s0 u e none 0
      let plan := (p.grps.map (planGroup e.dd)).flatten
      let sides := if m.multi then castSides t u e.dd else [sideOf t u e.dd]
      decide (p.halt = .done) && s.part.isNone &&
        (writePlan (.seq u) (accOf t) sides e.dd.ty plan plan (if e.dd.mem then markDest p.s (accOf t) e.dd else p.s)).2.isNone

/-- LDS, STS, MCAST and BCOPY of four elements. -/
theorem test_transfers :
    moveMeets { srcMem := true } { f := false, ac := 0, d := 2, src := 1 } (streams .l) .l = true ∧
    moveMeets { srcWin := true, dstMem := true, queue := true } { f := false, ac := 0, d := 4, src := 3 } (streams .s) .s = true ∧
    moveMeets { srcWin := true } { f := false, ac := 0, d := 2, src := 3 } (streams .l) .l = true ∧
    moveMeets { srcMem := true, multi := true } { f := false, ac := 0, d := 2, src := 1 }
      { streams .l with core := gsetReg (streams .l).core 2 { desc := BitVec.ofNat 512 (desc 15 0 1 0x100 4 4 + 2 ^ 107), pos := 0 } } .l = true := by
  decide +kernel

/-- LDS moves bytes 0x400800 to 0x40080F to window offset 0x100 and nothing past it. -/
theorem test_lds_moves_its_bytes :
    holdsAfter (exec (.lds quiet { f := false, ac := 0, d := 2, src := 1 }) (poke (streams .l) 0x40080C 8 0x1122334455667788)) (fun t =>
      winByte t.dev 0 0x10C == 0x88 && winByte t.dev 0 0x10F == 0x55 && winByte t.dev 0 0x110 == 0 && t.core.l.flight.isSome) = true := by
  decide +kernel

/-- Two bytes for window offset 0x100, and what writing them leaves. -/
def twoBytes : Wr := { e := 0, addr := 0x100, mode := 0, bytes := [(1, 0xFF), (2, 0xFF)] }

/-- See `twoBytes`. -/
def written : State × Option CauseRec := writePlan (.seq .l) (accOf (streams .l)) [.win 0] .f32 [twoBytes] [twoBytes] (streams .l)

/-- A plan with a full mask is written whole; the byte before it is outside. -/
theorem test_window_write :
    written.2.isNone = true ∧ twoBytes.bytes.all (fun b => b.2 == 0xFF) = true ∧ (0xFF : Int) < twoBytes.addr ∧
    winByte written.1.dev 0 0xFF = 0 ∧ winByte written.1.dev 0 0x101 = 2 := by decide +kernel

/-- L with an address or value in i1, over a page that holds a static-valid descriptor at 0x400800 and another at 0x400840. -/
def configured (n : Nat) : State :=
  let s := poke (poke (streams .l) 0x400816 1 3) 0x40087F 1 0x80
  { s with core := { s.core with l := { s.core.l with idx := s.core.l.idx.set 1 (BitVec.ofNat 64 n) } } }

/-- GCFG of a static-valid descriptor, of one that is not, and a misaligned one. -/
theorem test_gcfg :
    (match vread (configured 0) (accOf (configured 0)) .l2 0x400800 64 with | .ok (_, bs) => staticValid (ofBytesLE bs) | .error _ => false) = true ∧
    (match vread (configured 0) (accOf (configured 0)) .l2 0x400840 64 with | .ok (_, bs) => !staticValid (ofBytesLE bs) | .error _ => false) = true ∧
    holdsAfter (exec (.gcfg quiet 4 1 0) (configured 0x400800)) (fun t => t.core.l.flight.isSome && (descOf t.core.g[4].desc.toNat).n0 == 4) = true ∧
    holdsAfter (exec (.gcfg quiet 4 1 1) (configured 0x400800)) (fun t => t.core.l.cause.isSome) = true ∧
    holdsAfter (exec (.gcfg quiet 4 1 0) (configured 0x400801)) (fun t => t.core.l.cause.any fun c => decide (c.cause = .align)) = true := by
  decide +kernel

/-- GSET at the two ends of the ranges of N0 and BASE, and past them. -/
theorem test_gset :
    (gsetResult (configured 65536) .l 1 .n0 1).isSome = true ∧ (gsetResult (configured 1) .l 1 .n0 1).isSome = true ∧
    (gsetResult (configured 65537) .l 1 .n0 1).isNone = true ∧ (gsetResult (configured 0) .l 1 .n0 1).isNone = true ∧
    (gsetResult (configured 0x1FFFFFFFFFFFFFF) .l 1 .base 1).isSome = true ∧
    (gsetResult (configured 0x200000000000000) .l 1 .base 1).isNone = true := by decide +kernel

/-- The hypotheses of the gather and scatter statement. -/
def rowsMeet (gath : Bool) (g : GOp) (s : State) (u : SeqId) : Bool :=
  okB (rowsDecode g s u) && okB (rowsEarly gath g s u) &&
    match fetchRows gath g (issueTake s u quiet) u with
    | .error _ => false
    | .ok (s0, l) =>
      let r := rowsIn gath l
      if gath then
        let x := gatherGrps u r r.wd.groups 0 s0
        let plan := (x.2.1.map (planGroup r.wd)).flatten
        x.2.2.isNone && (writePlan (.seq u) (accOf s0) [sideOf s0 u r.wd] r.wd.ty plan plan x.1).2.isNone
      else
        let x := readPass (.seq u) (accOf s0) (sideOf s0 u r.wd) r.wd r.wd.groups 0 s0
        x.2.2.isNone && (scatterGrps u r x.2.1 x.1).2.isNone

/-- GATH and SCAT of two rows of two elements. -/
theorem test_gather_and_scatter :
    rowsMeet true { f := false, ac := 0, d := 2, s := 6, x := 5 } (streams .l) .l = true ∧
    rowsMeet false { f := false, ac := 0, d := 7, s := 3, x := 5 } (streams .s) .s = true := by decide +kernel

/-- The hypotheses of the elementwise statement for one destination word. -/
def putMeets (m : Move) (o : XOp) (f : Ends → State → Grp → Nat → Res (Option State)) (s : State) : Bool :=
  let t := issueTake s .s quiet
  okB (moveDecode m o s .s) && okB (moveEarly m o s .s) &&
    match fetchEnds noOwn m o t .s with
    | .error _ => false
    | .ok (s0, e) =>
      let p := pull s0 .s e none 0
      decide (p.halt = .done) && decide ((putElems (f e) e.dd p.grps (markDest p.s (accOf t) e.dd)).2 = .done)

/-- REDST of key 0 into an open window, and NMADD of four I32 elements. -/
theorem test_engine_contributions :
    let win : State := { streams .s with dev := { placed.dev with rwins := [{ crowdedWin with lines := [(placePa + 0x5900) / 128], base := 0x400900 }] } }
    putMeets redstMove { f := false, ac := 0, d := 4, src := 3 } (fun e => redstPut e.dd 0) win = true ∧
    putMeets nopMove { f := false, ac := 0, d := 9, src := 8 } (nopPut 0 .s) (streams .s) = true ∧
    holdsAfter (exec (.nmminEngine quiet { f := false, ac := 0, d := 9, src := 8 }) (streams .s)) (fun t => t.dev.nops.length == 4) = true ∧
    detStrict (streams .s) = false := by decide +kernel

/-- An engine fence and NMFEN may retire with nothing accepted, and not before an accepted operation is performed. -/
theorem test_engine_fences :
    holdsAfter (exec (.fencexEngine quiet .s .q .system) (streams .s)) (fun t => t.core.s.flight.any fun f => f.done && mayRetire t .s f) = true ∧
    holdsAfter (exec (.nmminEngine quiet { f := false, ac := 0, d := 9, src := 8 }) (streams .s)) (fun t =>
      !mayRetire t .s { Safety.flight .s quiet (.nmfenEngine quiet) 0 with kind := .nmfen }) = true := by decide +kernel

/-- C with a panel of BF16 in the window at g1, rows of BF16 at g3 and g4, and image streams g5 and g6. -/
def matrixC : State :=
  let s := atSeq .c
  let r (n : Nat) : StreamReg := { desc := BitVec.ofNat 512 n, pos := 0 }
  { s with core := { s.core with
      task := s.core.task.map fun t => { t with spsize := 2 ^ 20 }
      g := (((((s.core.g.set 1 (r (desc 14 0 0 0 16384 2))).set 2 (r (desc 14 0 0 0 128 2))).set 3 (r (desc 14 0 0 0 128 2))).set 4
        (r (desc 14 0 0 0 128 2))).set 5 (r (desc 3 0 1 0 65536 1 + 2 ^ 116))).set 6 (r (desc 3 0 0 0 65536 1 + 2 ^ 116)) } }

/-- MZERO of two tiles and of the gradient plane. -/
theorem test_mzero :
    (0b10001 : BitVec 5) ≠ 0 ∧ ¬ (false = true ∧ (0b10001 : BitVec 5).getLsbD 4 = true) ∧
    holdsAfter (exec (.mzero quiet 0b00011 true) matrixC) (fun t => t.core.a[0].f64 && t.core.a[1].f64 && !t.core.a[2].f64) = true := by
  decide +kernel

/-- MWLD of a BF16 panel may issue, and its rows can be popped: the first two stand for all 128, whose addresses differ only. -/
theorem test_mwld :
    okB (mwldEarly 1 0 false false matrixC) = true ∧
    (mwldDepth matrixC 1 false).any (fun kt => okB (popRows ((mwldPops 1 0 false false kt).take 2) matrixC)) = true := by decide +kernel

/-- `matrixC` with an empty BF16 panel loaded. -/
def panelled : State := { matrixC with core := { matrixC.core with wp := some (panelOf .bf16 false false false []) } }

/-- MMA.F and MMA.B of one row, MMA.G, and MMA.F with a chained tile. -/
theorem test_mma :
    let o : MmaOp := { ad := 2, ch := false, sa := 3, sb := 0, im := 7, pr := 0, pd := 0, pc := 0 }
    let og : MmaOp := { ad := 0, ch := false, sa := 3, sb := 4, im := 7, pr := 0, pd := 0, pc := 0 }
    let chained : State := { panelled with core := csetIdx panelled.core 7 0xE00 }
    let oc : MmaOp := { ad := 2, ch := true, sa := 4, sb := 0, im := 7, pr := 0, pd := 0, pc := 0 }
    (okB (mmaDecode .f o) && okB (mmaEarly .f o panelled) && okB (popRows (mmaPops panelled.core .f o 1) panelled)) = true ∧
    (okB (mmaDecode .b o) && okB (mmaEarly .b o panelled) && okB (popRows (mmaPops panelled.core .b o 1) panelled)) = true ∧
    (okB (mmaDecode .g og) && okB (mmaEarly .g og panelled) && okB (popRows (mmaPops panelled.core .g og 1) panelled)) = true ∧
    (okB (mmaDecode .f oc) && okB (mmaEarly .f oc chained)) = true ∧
    ((chainRows chained (tileGet chained.core 1) .bf16 1).2 &&& tenOf chained.core.vfctl) = 0 ∧
    arithCause fNX (tenOf 0x100) = some .inexact := by decide +kernel

/-- MDRAIN of one row in F32: it fits, and pushes one vector. -/
theorem test_mdrain :
    let o : DrainOp := { t := .f32, as := 1, q := 5, ir := 7, z := true, d64 := false, rm := .dyn }
    type24 o.t = true ∧ okB (drainEarly o matrixC) = true ∧
    holdsAfter (exec (.mdrain quiet o) matrixC) (fun t => t.core.q[5].vecs.length == 1 &&
      t.core.c.flight.any fun f => !f.done && f.flags == 0 && decide (f.kind = .matrix)) = true := by decide +kernel

/-- The streams of MSAVE and MREST have room for an image; a matrix word in flight is completed by its event. -/
theorem test_matrix_images :
    okB (imageDecode 0x45) = true ∧ okB (imageEarly true .a0 0x45 matrixC) = true ∧ okB (imageEarly false .wp 0x46 matrixC) = true ∧
    holdsAfter (exec (.mzero quiet 1 false) matrixC) (fun t => t.core.c.flight.any (fun f => decide (f.kind = .matrix) && !f.done) &&
      holdsAfter (exec .matrixWordComplete t) fun u => u.core.c.flight.any (·.done)) = true := by decide +kernel

/-! ### Vector words -/

/-- A vector register whose lanes of n bits hold some numbers. -/
def lanesOf (n : Nat) (l : List Nat) : VReg := BitVec.ofNat 4096 (l.foldr (fun x a => x + 2 ^ n * a) 0)

/-- C with contents of v1 to v5, and index registers. -/
def vec (l : List VReg) (idx : List (Fin 16 × Nat)) : State :=
  let s := atSeq .c
  { s with core := { s.core with
      v := (l.zip (List.range 64)).foldl (fun v e => if h : e.2 + 1 < 64 then v.set (e.2 + 1) e.1 h else v) s.core.v
      c := { s.core.c with idx := idx.foldl (fun v e => v.set e.1 (BitVec.ofNat 64 e.2)) s.core.c.idx } } }

/-- The hypotheses that `Safety.vectorWord` puts on a state, its positions and its result. -/
def vecMeets (srcs : List Spec) (dst : Option Spec) (f : State → List Src → VRes) (s : State) : Bool :=
  let t := issueTake s .c quiet
  srcs.all (fun p => okB (specDecode false p) && okB (specEarly s false p)) &&
    dst.toList.all (fun p => okB (specDecode true p) && okB (specEarly s true p)) && (specsReady s srcs).isNone &&
    match readSrcs srcs t with
    | .error _ => false
    | .ok (s1, rs) => (f t rs).flags &&& tenOf s.core.vfctl == 0 && (Safety.delivered dst (f t rs) s1).2.isNone

/-- Lane k of a vector register after a word. -/
def laneAfter (o : Out) (r : Fin 64) (n k : Nat) : Option Nat := after o fun t => t.core.v[r].toNat / 2 ^ (n * k) % 2 ^ n

/-- I32 lanes: a wrapped sum, a saturated one, a shift by 33, a divided shift, a high product (R134, R137). -/
theorem test_integer_lanes :
    let s := vec [lanesOf 32 [0x7FFFFFFF, 5], lanesOf 32 [1, 33], lanesOf 32 [0x80000000]] []
    let o : VOp := { ty := .i32, vd := 4, va := 1, vb := 2, pg := 0 }
    vecMeets [Safety.one .i32 1, Safety.one .i32 2] (some (Safety.one .i32 4))
      (Safety.byLane .i32 0 fun xs => Safety.wrap .i32 (Safety.laneInt .i32 ((xs[0]?).getD 0) + Safety.laneInt .i32 ((xs[1]?).getD 0))) s = true ∧
    laneAfter (exec (.vadd quiet o) s) 4 32 0 = some 0x80000000 ∧ laneAfter (exec (.vsadd quiet o) s) 4 32 0 = some 0x7FFFFFFF ∧
    laneAfter (exec (.vsll quiet o) s) 4 32 1 = some 10 ∧ laneAfter (exec (.vmulh quiet o) s) 4 32 1 = some 0 ∧
    laneAfter (exec (.vabs quiet { ty := .i32, vd := 4, va := 3, pg := 0 }) s) 4 32 0 = some 0x80000000 := by decide +kernel

/-- F32 lanes: 1.5 × 2 + 0.25 with the destination as the addend; 1 + 2^-24 is a tie and rounds to 1 with NX (R78, R134). -/
theorem test_floating_lanes :
    let s := vec [lanesOf 32 [0x3FC00000, 0x3F800000], lanesOf 32 [0x40000000, 0x33800000], lanesOf 32 [0x3E800000]] []
    rmodeOf (fld s.core.vfctl.toNat 0 3) ≠ .srd ∧ numOf .f32 = .flt .f32 ∧
    vecMeets [Safety.one .f32 1, Safety.one .f32 2] (some (Safety.one .f32 4)) (laneBody .f32 true 0 fun s xs =>
      deliverRes .f32 (vctx s) (addVal .rne (FKind.f32.read false ((xs[0]?).getD 0)) (FKind.f32.read false ((xs[1]?).getD 0)))) s = true ∧
    laneAfter (exec (.vfma quiet { ty := .f32, vd := 3, va := 1, vb := 2, pg := 0 }) s) 3 32 0 = some 0x40500000 ∧
    laneAfter (exec (.vadd quiet { ty := .f32, vd := 4, va := 1, vb := 2, pg := 0 }) s) 4 32 1 = some 0x3F800000 ∧
    holdsAfter (exec (.vadd quiet { ty := .f32, vd := 4, va := 1, vb := 2, pg := 0 }) s) (fun t =>
      t.core.c.flight.any fun f => f.flags == 1 && f.done) = true := by decide +kernel

/-- Compares of F32 with a NaN and of ±0; PSET beyond the lanes; PFIRST of nothing (R138 to R140). -/
theorem test_predicates :
    let s := vec [lanesOf 32 [0x7FC00000, 0x80000000, 0x3F800000], lanesOf 32 [0x7FC00000]] [(2, 200)]
    let o : COp := { ty := .f32, pd := 3, va := 1, vb := 2, pg := 0 }
    vecMeets [Safety.one .f32 1, Safety.one .f32 2] none (fun s rs =>
      { pred := some (3, predOf ((List.range 128).map fun k => cmpLane .f32 .eq s ((srcAt rs 0).lane .f32 k) ((srcAt rs 1).lane .f32 k))) }) s = true ∧
    holdsAfter (exec (.vcmpeq quiet o) s) (fun t => (pget t.core 3).toNat % 8 == 0b010) = true ∧
    holdsAfter (exec (.vcmpun quiet o) s) (fun t => (pget t.core 3).toNat % 8 == 0b001) = true ∧
    holdsAfter (exec (.pset quiet .f32 3 2) s) (fun t => (pget t.core 3).toNat == 2 ^ 128 - 1) = true ∧
    holdsAfter (exec (.pfirst quiet .f32 1 5 0) s) (fun t => t.core.c.idx[1] == 128) = true := by decide +kernel

/-- The elements of the manual's example of VCVT.E2M1.BF16: 7.0, a NaN, 1.0 and -0.5 with their flags (R141, R80, R82). -/
theorem test_conversion_example :
    [0x40E0, 0x7FC0, 0x3F80, 0xBF00].map (convert (numOf .bf16) (numOf .e2m1) { mode := .rne }) = [(7, 5), (0, 16), (2, 0), (9, 0)] ∧
    ratioOf .e2m1 .bf16 = some (4, 1) := by decide +kernel

/-- VCVT.F32.BF16 widens: element 1 becomes lane 0 of the second register (R123). -/
theorem test_widening :
    let s := vec [0, 0, 0, 0, lanesOf 16 [0x3F80, 0x4000]] []
    let o : CvtOp := { d := .f32, vd := 2, va := 5, s := .bf16, rm := .dyn, pg := 0 }
    ratioOf .f32 .bf16 = some (1, 2) ∧
    holdsAfter (exec (.vcvt quiet o) s) (fun t => t.core.v[2].toNat % 2 ^ 32 == 0x3F800000 && t.core.v[3].toNat % 2 ^ 32 == 0x40000000) = true := by
  decide +kernel

/-- VQUANT of 32 BF16 ones into E4M3: a block scale of 2^-8 and codes of 2^8 (R87, R143). -/
theorem test_quantise :
    let s := vec [0, 0, 0, lanesOf 16 (List.replicate 16 0x3F80), lanesOf 16 (List.replicate 16 0x3F80)] []
    let o : CvtOp := { d := .e4m3, vd := 2, va := 4, s := .bf16, rm := .dyn, pg := 0 }
    quantType .e4m3 = true ∧ ratioOf .e4m3 .bf16 = some (2, 1) ∧ Ty.bf16.isFlt = true ∧
    holdsAfter (exec (.vquant quiet o) s) (fun t => t.core.c.flight.isSome) = true ∧
    laneAfter (exec (.vquant quiet o) s) 3 8 0 = some (127 - 8) ∧ laneAfter (exec (.vquant quiet o) s) 2 8 31 = some 0x78 := by
  decide +kernel

/-- The shared vector of VRAND.F32 (R154) and the words of Philox (R153). -/
theorem test_random_example :
    philoxWords 0 0 = [0x6627E8D5, 0xE169C58D, 0xBC57AC4C, 0x9B00DBD8] ∧
    laneAfter (exec (.vrand quiet .f32 8 2 3 0) (vec [] [])) 8 32 0 = some 0x3ECC4FD0 ∧
    laneAfter (exec (.vrand quiet .f32 8 2 3 0) (vec [] [])) 8 32 3 = some 0x3F1B00DB := by decide +kernel

/-- VROUTE of 2, 0, 2, 2, 0, 1 at capacity 2 gives 0, 0, 1, all ones, 1, 0 and drops lane 3 (R152). -/
theorem test_route_example :
    let s := vec [lanesOf 32 ([2, 0, 2, 2, 0, 1] ++ List.replicate 122 0xFFFFFFFF)] [(5, 2)]
    let o := exec (.vroute quiet .n32 4 1 5 6) s
    ((List.range 6).map fun k => laneAfter o 4 32 k) = [some 0, some 0, some 1, some 0xFFFFFFFF, some 1, some 0] ∧
    holdsAfter o (fun t => (pget t.core 6).toNat == 8) = true := by decide +kernel

/-- VSLIDE by 127, VPERM, VSEL, VIOTA and VCOMPACT on F32 or I32 lanes (R145 to R151). -/
theorem test_moves :
    let s := vec [lanesOf 32 [10, 11, 12], lanesOf 32 [20, 21], lanesOf 16 [2, 0, 1]] [(3, 127)]
    laneAfter (exec (.vslide quiet { ty := .i32, vd := 5, va := 1, vb := 2, pg := 3 }) s) 5 32 1 = some 20 ∧
    laneAfter (exec (.vperm quiet { ty := .i32, vd := 5, va := 1, vb := 3, pg := 0 }) s) 5 32 0 = some 12 ∧
    laneAfter (exec (.vsel quiet { ty := .i32, vd := 5, va := 1, vb := 2, pg := 1 }) s) 5 32 1 = some 21 ∧
    laneAfter (exec (.viota quiet .i32 5 3 0) s) 5 32 2 = some 129 ∧
    laneAfter (exec (.vbcast quiet { ty := .i32, vd := 5, va := 1, pg := 0 } 4) s) 5 32 9 = some 10 ∧
    vecMeets [Safety.one .i32 1, Safety.one .i32 2] (some (Safety.one .i32 5)) (fun _ rs =>
      { vecs := [packLanes .i32 ((List.range 128).map fun k => (srcAt rs 0).lane .i32 k)] }) s = true := by decide +kernel

/-- VREDSUM of I32, VSORT with equal keys, VTOPK, VCHK and a prefix sum (R148 to R150, R157). -/
theorem test_reductions :
    let s := vec [lanesOf 32 [3, 1, 3, 0xFFFFFFFF], lanesOf 32 [7, 8, 9, 6], lanesOf 32 [0x7F800000, 0x7FC00000]] [(4, 2)]
    let top : VOp := { ty := .i32, vd := 10, va := 1, vb := 2, pg := 4 }
    laneAfter (exec (.vredsum quiet { ty := .i32, vd := 5, va := 1, pg := 0 }) s) 5 32 127 = some 6 ∧
    laneAfter (exec (.vscan quiet { ty := .i32, vd := 5, va := 1, pg := 0 }) s) 5 32 2 = some 7 ∧
    laneAfter (exec (.vtopk quiet top) s) 10 32 1 = some 3 ∧ laneAfter (exec (.vtopk quiet top) s) 11 32 0 = some 7 ∧
    holdsAfter (exec (.vchk quiet .f32 3 3 2 0) s) (fun t => t.core.c.idx[2] == 2) = true ∧ sortType .i32 = true := by decide +kernel

/-- The exact values of the statement on elementary functions at its operands: ln 1 and 1 / 0. -/
theorem test_elementary_values :
    (elemVal .log (.num false 1 0)).fl = 0 ∧ elemVal .rcp (.num true 0 0) = ⟨.inf true, fDZ⟩ ∧ (1 : Nat) ≠ 0 ∧ Fn.exp ≠ .div := by
  decide +kernel

/-- The end of the hem phase after a word. -/
def hemEnded (o : Out) : Out :=
  match o with
  | .next t => exec .hemPhaseEnd t
  | r => r

/-- VRCP.BF16 of 3 is 0x3EAB, of 0 an infinity with DZ; its register and its flags are written as HEM_PHASE_END comes, and
not before (R160, R171, R172). -/
theorem test_elementary_word :
    let s := vec [lanesOf 16 [0x4040]] []
    let o := exec (.vrcp quiet { ty := .bf16, vd := 4, va := 1, pg := 0 }) s
    laneAfter o 4 16 0 = some 0 ∧ laneAfter (hemEnded o) 4 16 0 = some 0x3EAB ∧ laneAfter (hemEnded o) 4 16 1 = some 0x7F80 ∧
    holdsAfter o (fun t => t.core.vfstat == 0 && t.core.c.flight.any (fun f => decide (f.kind = .hem) && !f.done)) = true ∧
    holdsAfter (hemEnded o) (fun u => u.core.vfstat != 0 && u.core.c.flight.any (·.done)) = true := by decide +kernel

/-- F64 and I64 lanes: 1 + 2 = 3, a compare, a conversion to I64 (R159). -/
theorem test_wide_lanes :
    let s := vec [lanesOf 64 [0x3FF0000000000000, 5], lanesOf 64 [0x4000000000000000, 0xFFFFFFFFFFFFFFFF]] []
    let o : WOp := { vd := 4, va := 1, vb := 2, pg := 0 }
    laneAfter (exec (.vaddF64 quiet o) s) 4 64 0 = some 0x4008000000000000 ∧
    laneAfter (exec (.i64Arithmetic quiet .max o) s) 4 64 1 = some 5 ∧ laneAfter (exec (.i64Arithmetic quiet .maxu o) s) 4 64 1 = some 0xFFFFFFFFFFFFFFFF ∧
    laneAfter (exec (.vcvtF64 quiet .i64f64 4 2 (.stat .rne) 0) s) 4 64 0 = some 2 ∧ ratioOf .i64 .f64 = some (1, 1) ∧
    holdsAfter (exec (.f64OtherArithmetic quiet .cmplt o) s) (fun t => (pget t.core 4).toNat % 2 == 1) = true ∧ o.vd.setWidth 4 ≠ 0#4 := by
  decide +kernel

/-! ### Merges, attention and peers -/

/-- A unit of the core with a KV cache of one CUFF page at 0x600000: its descriptor (d = 64, BF16) at 0x400800, its list at
0x400840, i1 naming the descriptor and i2 holding L = 1. -/
def cached (u : SeqId) : State :=
  let s := poke (poke (atSeq u) 0x400800 16 (0x400840 + 2 ^ 64 + 0xE * 2 ^ 96)) 0x400840 16 0x600000
  let s := s.onDev fun d => homeWrite d (placePa + 0x3018) (toBytesLE 8 (0x600006F + 2 * 2 ^ 56))
  let q (x : Seq) : Seq := { x with idx := (x.idx.set 1 0x400800).set 2 1 }
  { s with core := { s.core with c := q s.core.c, s := q s.core.s, task := s.core.task.map fun t => { t with spsize := 65536 }
                                 g := s.core.g.set 3 { desc := BitVec.ofNat 512 (desc 14 0 0 0x200 128 2), pos := 0 } } }

/-- QPOST of v4: its checks, its cache and its query. -/
theorem test_qpost :
    (4 : BitVec 7).toNat < 0x50 ∧ (postReady 4 1 2 3 (cached .c)).isNone = true ∧ okB (specEarly (cached .c) false (querySpec 4)) = true ∧
    (match readCache (cached .c) 1 2 with | .ok (s, k, _, _) => k.dim == 64 && okB (readOne s (querySpec 4) 0) | .error _ => false) = true ∧
    holdsAfter (exec (.qpost quiet 4 1 2 3) (cached .c)) (fun t => t.dev.qposts.length == 1 && t.core.q[3].rsvd == 2) = true := by
  decide +kernel

/-- After a QPOST of an empty cache line, bank 0 is scanned and its triple pushed. -/
theorem test_scan_and_push :
    holdsAfter (exec (.qpost quiet 4 1 2 3) (cached .c)) (fun t =>
      t.dev.qposts.all (fun p => p.next == 0 && p.banks == 64 && decide (p.core < 288) && (slook p.ready 0).isNone && !scanBefore t.dev p 0 && !bankHeld p 0) &&
      holdsAfter (exec (.bankScanComplete 0 0 .uncorrectable) t) (fun u =>
        u.dev.qposts.all (fun p => (slook p.ready 0).isSome) &&
        holdsAfter (exec (.triplePush 0) u) fun v => v.core.q[3].vecs.length == 2 && v.core.ev == 16)) = true := by decide +kernel

/-- The fields of a KAPP of entry 0 from the window, and its early checks. -/
def kappOp : XOp := { f := false, ac := 0, d := 1, src := 3 }

/-- The checks of KAPP before it issues. -/
theorem test_kapp_checks :
    okB (moveDecode kappMove kappOp (cached .s) .s) = true ∧ (kappReady kappOp 4 (cached .s) .s).isNone = true ∧
    okB (sourceEarly true false false kappOp (cached .s) .s) = true ∧ checking (cached .s) = false := by decide +kernel

/-- KAPP writes an entry of 256 bytes as 128 elements; the first of them are written. -/
theorem test_kapp_entry :
    (match kappEnds kappOp 4 (cached .s) .s with
      | .ok (s0, e, ap) =>
        let p := pull (s0.onDev fun d => { d with appends := d.appends ++ [ap] }) .s e none 0
        let plan := (p.grps.map (planGroup e.dd)).flatten
        let part := plan.take 4
        ap.len == 256 && decide (p.halt = .done) && plan.length == 128 &&
          (writePlan (.seq .s) (accOf (cached .s)) [.mem] e.dd.ty part part (cached .s)).2.isNone
      | .error _ => false) = true := by decide +kernel

/-- A pending append is written through. -/
theorem test_kapp_write_through :
    let s := (cached .s).onDev fun d => { d with appends := [{ stack := 0, pa := 0x6000000, len := 256 }] }
    holdsAfter (exec (.kappWriteThrough 0) s) (fun u => u.dev.appends.isEmpty) = true := by decide +kernel

/-- XFER to rank 5 from the window, with the remote descriptor at 0x400800, and RSIG to it and to the own rank 0. -/
def peered (n : Nat) : State :=
  let s := poke (streams .s) 0x400800 64 (desc 15 1 1 0x400900 4 4)
  { s with core := { s.core with s := { s.core.s with idx := ((s.core.s.idx.set 1 0x400800).set 4 5).set 6 (BitVec.ofNat 64 n) } }
           dev := { s.dev with ports := Vector.replicate 24 { Port.init with up := true, keyed := true } } }

/-- The hypotheses of the statement on peers; an RSIG to a core of this device. -/
theorem test_peer_words :
    let o : XOp := { f := false, ac := 0, d := 1, src := 3 }
    okB (moveDecode xferMove o (peered 0) .s) = true ∧ okB (sourceEarly true true true o (peered 0) .s) = true ∧ writesPending (peered 0) .s = false ∧
    (match xferRank 4 (peered 0) .s with | .ok r => r == 5 && hasRoute (peered 0).dev r | .error _ => false) = true ∧
    (match fetchEnds noOwn xferMove o (peered 0) .s with
      | .ok (s0, e) => decide ((pullXfer s0 .s e none 0).halt = .done) &&
        (pullXfer s0 .s e none 0).grps.all fun g => okB (alignCheck e.dd.ty (e.dd.addr (g.e / groupElems e.dd.ty)) true)
      | .error _ => false) = true ∧
    (match rsigTarget 1 6 (peered 5) .s with | .ok (r, c) => r == 5 && c == 0 && r != ownRank (peered 5).dev | .error _ => false) = true ∧
    (match rsigTarget 1 6 (peered 0) .s with
      | .ok (r, c) => r == ownRank (peered 0).dev && c == 0 && okB (signalCore (peered 0) c (sourceBit .s) 7 1) | .error _ => false) = true ∧
    holdsAfter (exec (.rsig quiet 7 1 6) (peered 0)) (fun t => semVal t.core 7 == 1) = true := by decide +kernel

/-- A VSMRG of two empty triples at d = 64, and d = 256 in one half of the file. -/
theorem test_merge :
    (8 : BitVec 7).toNat < 64 ∧ thirdsOk 29 = true ∧ thirdsOk 30 = false ∧
    vecMeets [tripleSpec 2 .d64, tripleSpec 8 .d64] (some (tripleSpec 8 .d64)) (mergeRes .d64) (vec [] []) = true := by decide +kernel

/-- Four words that form a fused group in F32. -/
def fusedF32 : FusedOp :=
  { ty := .f32, pg := 0, vx := 1, vm := 2, vy := 3, ve := 4, vs := 5, two := false, wthr := 0, wsem := 0, tki := 0, sinc := 1, ssem := 9, tko := 0 }

/-- A fused group may issue, and none of its words raises a cause. -/
theorem test_fused_group :
    fusedOk fusedF32 (vec [] []) = true ∧
    holdsAfter (hemEnded (exec (.fusedSoftmaxGroup fusedF32) (vec [] []))) (fun t => t.core.c.pc == (vec [] []).core.c.pc + 32 &&
      t.core.v[4].toNat % 2 ^ 32 == 0x3F800000 && t.core.c.flight.any fun f => f.sinc == 1) = true := by decide +kernel

/-! ### Events of units and of the scheduler -/

/-- `placed` with what X waits for and what L is. -/
def waitsAt (x : XWait) (l : Seq → Seq) : State :=
  { placed with core := { placed.core with xwait := x, l := l placed.core.l } }

/-- The watchdog of X and of L, a timed WFE, the delivery of a cause, and a word that nothing assigns. -/
theorem test_unit_events :
    let s := waitsAt .swait fun q => { q with wait := .sem 4 1 }
    let h := waitsAt .none fun q => { q with cause := some { cause := .intDivzero } }
    s.core.wdogLimit &&& 0xFFFFFFFF ≠ 0 ∧ countedSeq (seqOf s .l).wait = true ∧ (seqOf s .l).cause = none ∧
    holdsAfter (exec (.waitTimeout (.seq .l)) s) (fun t => (seqOf t .l).cause.any fun c => decide (c.cause = .waitTimeout)) = true ∧
    takesCause h.core = true ∧ (seqOf h .l).delivered = false ∧ ownSeq h .l = true ∧
    decodes .x 0x2C000000 = false ∧ decodes (.seq .l) (0x5C00000000000000) = false ∧
    holdsAfter (exec (.insnIllegal (.seq .l) (0x5C00000000000000)) s) (fun t => (seqOf t .l).cause.any fun c =>
      decide (c.cause = .illegal) && c.info == 0x5C00000000000000) = true ∧
    holdsAfter (exec .wfeTimer (waitsAt (.wfe true) id)) (fun t => t.core.wfeHit) = true := by decide +kernel

/-- A copy engine with a post whose record at 0x400800 names entry 0x400100. -/
def posted : State :=
  let s := poke placed 0x400800 16 (0x400100 + 2 ^ 64 * 77)
  { s with dev := { s.dev with ce := s.dev.ce.set 2 { s.dev.ce[2] with posts := [{ core := 0, addr := 0x400800 }] } } }

/-- An idle engine starts its post; a near-memory operation that no other precedes is performed. -/
theorem test_post_and_operation :
    recordBusy (focus posted 0) 2 { core := 0, addr := 0x400800 } = false ∧
    (match readRecordOf posted 2 { core := 0, addr := 0x400800 } with
      | .ok (_, e, par) => e == 0x400100 && par == 77 && e.toNat % 8 == 0 | .error _ => false) = true ∧
    holdsAfter (exec (.copyEngineStart 2) posted) (fun t => decide (t.dev.ce[2].prog = some 0) && t.dev.ce[2].seq.pc == 0x400100 &&
      t.dev.ce[2].seq.idx[0] == 77) = true ∧
    holdsAfter (exec (.nmadd 2 3 .i32) (withX [(2, 0x400800), (3, 7)])) (fun t =>
      holdsAfter (exec (.nOperationPerform 0) t) fun u => u.dev.nops.isEmpty &&
        (sysRead u.dev [] (placePa + 0x5800) 4).map ofBytesLE == some 7) = true := by decide +kernel

/-- Queue 0 with a record at 0x400800 for region 0, whose RCB the table at PA 0x4005900 names: one core, one context slot, ASID 1. -/
def queued (rec : Nat) : State :=
  let rcb := 2 ^ 128 * 0x400000 + 2 ^ 192 + 2 ^ 224 + 2 ^ 325 + 2 ^ 344
  let s := poke (poke (poke placed 0x400800 64 rec) 0x400900 8 (placePa + 0x5A00)) 0x400A00 128 rcb
  { s with dev := { s.dev with rtbase := BitVec.ofNat 64 (placePa + 0x5900)
                               queues := [(0, { qbase := 0x400800, qctl := 0x1001, qhead := 0, qtail := 1 })] } }

/-- A record of one WP task with entry 0x400200 is read, accepted, and its task dispatched to core 1. -/
theorem test_launch_and_dispatch :
    let s := queued (0x400200 + 2 ^ 64 * 0x400C00)
    nextQueue s.dev = some 0 ∧
    holdsAfter (exec (.launchRecordRead 0) s) (fun t => t.dev.launches.length == 2 && t.dev.ready.length == 1 &&
      (queueAt t.dev 0).qhead == 1 && idleCore t 1 && (dispatchable t 1 0).isSome &&
      holdsAfter (exec (.taskDispatch 1 0) t) fun u => (coreAt u 1).pc == 0x400200 && (coreAt u 1).x[2] == 0x400C00 &&
        (coreAt u 1).asid == 1 && (coreAt u 1).taskFrame == 0x400001) = true := by decide +kernel

/-- A record that cannot be read, and one that breaks a rule. -/
theorem test_launch_errors :
    let s := queued 0x400202
    let e : State := { s with dev := { s.dev with queues := [(0, { qbase := 0x500000, qctl := 0x1001, qhead := 0, qtail := 1 })] } }
    nextQueue e.dev = some 0 ∧ (readRecord e (queueAt e.dev 0)).isNone = true ∧
    holdsAfter (exec (.launchRecordRead 0) e) (fun t => (queueAt t.dev 0).qctl == 0x1009) = true ∧
    holdsAfter (exec (.launchRecordRead 0) s) (fun t => t.dev.launches.length == 1 &&
      (sysRead t.dev [] (placePa + 0x5838) 1).map ofBytesLE == some 0x10) = true := by decide +kernel

/-- A C launch of one task starts. -/
theorem test_c_launch :
    holdsAfter (exec (.launchRecordRead 0) (queued (0x400200 + 2 ^ 177))) (fun t => (cStart t 1).isSome &&
      holdsAfter (exec (.cLaunchStart 1) t) fun u => (coreAt u 1).pc == 0x400200 && u.dev.ready.isEmpty) = true := by decide +kernel

/-- Work of priority 3 that no core may take, a task that holds its start, and a task whose save may take place. -/
theorem test_scheduler_states :
    let k : Cont := { code := 0x400200, frame := 0, join := 0, region := 0, prio := 3 }
    let w : Work := { launch := 0, region := 0, prio := 3, first := false, kind := .spawned k }
    let s : State := { placed with dev := { placed.dev with
      ready := [w], launches := placed.dev.launches.map fun l => { l with path := [{ placeEff with cores := 0 }] } } }
    let save : State := { placed with core := { placed.core with saving := some .yield } }
    let hold : State := { placed with core := { placed.core with task := placed.core.task.map fun t => { t with hold := true } } }
    stuckPrio s = some 3 ∧ (victim s 3).any (fun c => !c.handler && c.saving.isNone) = true ∧
    holdsAfter (exec .priorityPreemption s) (fun t => t.core.saving.isSome) = true ∧ saveReady save = true ∧
    holdsAfter (exec .checkStartDelay hold) (fun t => t.core.task.any fun k => !k.hold) = true := by decide +kernel

/-! ### Events of the host -/

/-- `placed` with the interface in a state. -/
def atIface (i : Iface) (f : Dev → Dev) : State := { placed with dev := { f placed.dev with iface := i } }

/-- A queue tail that fits and one that does not; a guarded register, barred and not. -/
theorem test_host_registers :
    let q : State := atIface .unlocked fun d => { d with queues := [(3, { qbase := 0, qctl := 0x2001, qhead := 5, qtail := 5 })] }
    holdsAfter (exec (.qtailWrite 3 9) q) (fun t => (queueAt t.dev 3).qtail == 9 && (queueAt t.dev 3).qctl == 0x2001) = true ∧
    holdsAfter (exec (.qtailWrite 3 10) q) (fun t => (queueAt t.dev 3).qtail == 5 && (queueAt t.dev 3).qctl == 0x2005) = true ∧
    ownStep 0x10000 = false ∧ guarded 0x10000 = true ∧ barred (atIface .locked id).dev false = true ∧ barred placed.dev false = false ∧
    holdsAfter (exec (.registerWrite 0x10000 0x1237 false) (atIface .locked id)) (fun t => t.dev.rtbase == 0) = true ∧
    holdsAfter (exec (.registerWrite 0x10000 0x1237 false) placed) (fun t => t.dev.rtbase == 0x1230) = true := by decide +kernel

/-- SEAL and UNSEAL of the frame of the task's page by a trusted request, and their end. -/
theorem test_sealing :
    let s := atIface .run id
    let done := atIface .run fun d => { d with sealcmd := 0x8000000000000000 }
    isTrusted s.dev true = true ∧ s.dev.sealcmd.getLsbD 63 = false ∧ done.dev.sealcmd.getLsbD 63 = true ∧
    (0x4005 : Word).getLsbD 62 = false ∧ (0x4000000000004005 : Word).getLsbD 62 = true ∧
    holdsAfter (exec (.sealFrames 0x4005 true) s) (fun t => frameSealed t.dev 0x4005 && !frameSealed t.dev 0x4006 && t.dev.sealcmd.getLsbD 63) = true ∧
    holdsAfter (exec (.unsealFrames 0x4000000000004005 true) s) (fun t => !frameSealed t.dev 0x4005) = true ∧
    holdsAfter (exec .sealcmdDone done) (fun t => !t.dev.sealcmd.getLsbD 63) = true := by decide +kernel

/-- An ASID whose pages at 0x400000 and 0x401000 are a near and a far page, with a number in the near one; `n` exchanges are done. -/
def swapping (n : Nat) (on : Bool) : State :=
  let s := (poke placed 0x400800 8 99).onDev fun d => homeWrite d (placePa + 0x4008) (toBytesLE 8 (farBase + 0x7F))
  let w : Swap := { asid := 1, near := placePa + 0x5000, far := farBase, leafA := placePa + 0x4000, leafB := placePa + 0x4008, done := n }
  { s with dev := { s.dev with miga := 0x400000, migb := 0x401000, swap := if on then some w else none } }

/-- A swap pair begins, exchanges a line, and ends. -/
theorem test_swap_pair :
    (match swapOf (swapping 0 false).dev 1 with
      | .ok w => w.near == placePa + 0x5000 && w.far == farBase && w.done == 0
      | .error _ => false) = true ∧
    holdsAfter (exec (.swapPair 1 false) (swapping 0 false)) (fun t => t.dev.swap.isSome && t.dev.migc == 0x8000000000000001) = true ∧
    (l2Read (swapping 32 true).dev (placePa + 0x5800) 64).isSome = true ∧
    holdsAfter (exec .swapLineExchange (swapping 32 true)) (fun t => farByte t.dev (farBase + 0x800) == 99 &&
      hbmByte t.dev (placePa + 0x5800) == 0) = true ∧
    holdsAfter (exec .swapPairDone (swapping 64 true)) (fun t => t.dev.swap.isNone &&
      (sysRead t.dev [] (placePa + 0x4000) 8).map ofBytesLE == some (farBase + 0x7F)) = true := by decide +kernel

/-- Invalidation of translations, and the firmware states. -/
theorem test_invalidation_and_firmware :
    let busy := atIface .unlocked fun d => { d with tlbinvc := 0x8000000000000000 }
    let rom (n : Word) := atIface .unlocked fun d => { d with fwstat := n }
    placed.dev.tlbinvc.getLsbD 63 = false ∧ busy.dev.tlbinvc.getLsbD 63 = true ∧ usesDropped busy = false ∧
    holdsAfter (exec .tlbInvalidateDone busy) (fun t => t.dev.tlbinvc == 0) = true ∧
    holdsAfter (exec (.firmwareLoad 1 false) (rom 0)) (fun t => t.dev.fwstat == 1) = true ∧
    verifyMay (rom 1).dev 0x10 = true ∧
    holdsAfter (exec (.firmwareVerifyDone 0x10) (rom 1)) (fun t => t.dev.fwstat == 0x10) = true ∧
    holdsAfter (exec .firmwareReady (rom 2)) (fun t => t.dev.rollback == 0) = true := by decide +kernel

/-- The messages of the interface, and reads and writes of the task's frame, sealed and not. -/
theorem test_host_messages_and_memory :
    let s := (poke placed 0x400800 4 0xAB).onDev fun d => { d with iface := .run, teardown := true }
    let z := s.onDev fun d => putSeal d 0x4005 0x4006 true
    let at8 := placePa + 0x5800
    s.dev.teardown = true ∧ canSign s.dev = true ∧ canSign ({ s.dev with spdmLeaf := 2 ^ 15 }) = false ∧
    at8 + 4 ≤ 2 ^ 40 ∧ at8 % 4096 + 4 ≤ 4096 ∧ frameSealed s.dev (at8 / 4096) = false ∧ frameSealed z.dev (at8 / 4096) = true ∧
    isTrusted z.dev false = false ∧ isSecondary s.dev at8 = false ∧ isPrimary s.dev at8 = false ∧ s.dev.rwins = [] ∧
    holdsAfter (exec (.hostMemoryRead (.bar2 at8) 4 false) s) (fun t => decide (t.dev.outbox = [.hostRead [0xAB, 0, 0, 0]])) = true ∧
    holdsAfter (exec (.hostMemoryRead (.bar2 at8) 4 false) z) (fun t =>
      decide (t.dev.outbox.getLast? = some (.hostRead [0xFF, 0xFF, 0xFF, 0xFF]))) = true ∧
    hostWaits s.dev at8 4 = false ∧ l2Bad s.dev at8 4 = false ∧ s.dev.softWords = [] ∧ (l2Read s.dev at8 4).isSome = true ∧
    holdsAfter (exec (.hostMemoryRead (.bar0 0x40008) 8 false) s) (fun t =>
      decide (t.dev.outbox = [.hostRead [0xF4, 1, 0xD0, 7, 0, 0, 0, 0]])) = true ∧
    holdsAfter (exec (.hostMemoryRead (.bar0 0x40008) 4 false) s) (fun t =>
      decide (t.dev.outbox = [.hostRead [0xFF, 0xFF, 0xFF, 0xFF]])) = true ∧
    holdsAfter (exec (.hostMemoryWrite (.far 5) [7] false) s) (fun t => hostFarByte t.dev (farBase + 5) == 7) = true ∧
    holdsAfter (exec (.hostMemoryWrite (.bar2 at8) [1, 2] false) s) (fun t => l2Byte t.dev at8 == 1 && l2Byte t.dev (at8 + 1) == 2) = true ∧
    holdsAfter (exec (.hostMemoryWrite (.bar2 at8) [1, 2] false) z) (fun t => l2Byte t.dev at8 == 0xAB) = true ∧
    holdsAfter (exec .stopInterface s) (fun t => decide (t.dev.iface = .unlocked)) = true := by decide +kernel

/-! ### Events of the Seam, of the links and of the machine -/

/-- A Seam node of rank `r` in a domain of 7 ranks of degree 2, in a state, whose A is 6 and whose LAID is 4. -/
def node (r : Nat) (st : SeamState) (f : Seam → Seam) : State :=
  { placed with dev := { placed.dev with seam := f { placed.dev.seam with
      cfg := BitVec.ofNat 64 (2 ^ 63 + 2 ^ 60 + 6 * 2 ^ 28 + r), state := st, aid := 6, lAid := 4, lOut := 1 } } }

/-- A message of a rank for A. -/
def msg (r outcome : Nat) : SeamMsg := { aid := 6, rank := r, count := 1, flags := 0, frank := 0, outcome, next := 8 }

/-- Rank 1 of the domain: its children are 3 and 4 and its parent is 0. Rank 6 is a leaf with parent 2. A vote, a decision that
releases a TWAIT, an opening, the vote timer of a domain of one rank, and the last decision timer. -/
theorem test_seam_messages :
    let c : Collect := { count := 1, flags := 0, frank := 0, own := true, kids := [] }
    let o := node 1 .opened id
    let solo := node 0 .voted fun m => { m with cfg := 0x8000000000000000, collect := some c }
    let w := node 6 .voted fun m => { m with collect := some c, sent := true }
    let tw : State := { w with core := { w.core with xwait := .twait 5 6 } }
    let n := node 6 .waitnext id
    seamKids o.dev.seam = [3, 4] ∧ seamRuns o.dev = true ∧ seamRuns solo.dev = true ∧ seamRuns w.dev = true ∧ o.dev.seam.sent = false ∧
    (collectOf o.dev.seam).flags = 0 ∧ (collectOf o.dev.seam).own = false ∧ seamNear n.dev.seam 2 = true ∧
    holdsAfter (exec (.vote (msg 3 0)) o) (fun t => t.dev.seam.collect.any fun c => c.count == 1 && c.kids == [3]) = true ∧
    holdsAfter (exec .seamVoteTimer solo) (fun t => t.dev.seam.lAid == 6 && t.dev.seam.lOut == 2) = true ∧
    holdsAfter (exec (.decision (msg 2 2)) tw) (fun t => decide (t.dev.seam.state = .idle) && t.dev.seam.lOut == 2 &&
      t.dev.seam.aid == 8 && t.core.pc == 0x400004 && xget t 5 == 0x20006) = true ∧
    holdsAfter (exec (.opening (msg 2 0)) n) (fun t => decide (t.dev.seam.state = .idle) && t.dev.seam.aid == 8) = true ∧
    (w.dev.seam.queries < 4 ∧ w.dev.seam.state = .voted) ∧
    holdsAfter (exec .decisionTimeout (w.onDev fun d => putSeam d { d.seam with queries := 4 }))
      (fun t => decide (t.dev.seam.state = .indoubt)) = true := by decide +kernel

/-- The writes of SEAMCFG, SEAMRES and PLEATCFG, and the passes of a controller. -/
theorem test_seam_registers :
    let p (f : Pleat → Pleat) (s : State) : State := s.onDev fun d => pleatSet d 2 (f (pleatAt d 2))
    let due := p (fun q => { q with en := true, passDue := true }) (node 0 .opened id)
    let busy := p (fun q => { q with en := true, busy := true }) placed
    let on := p (fun q => { q with en := true, began := 9 }) (node 0 .idle id)
    let res : Word := BitVec.ofNat 64 (2 ^ 63 + 2 * 2 ^ 61 + 6)
    barred placed.dev false = false ∧ seamEn placed.dev = false ∧ (pleatAt placed.dev 2).en = false ∧
    (0x8000000010000000 : Word).getLsbD 63 = true ∧ fld (0x8000000010000000 : Nat) 0 12 ≤ fld (0x8000000010000000 : Nat) 28 12 ∧
    holdsAfter (exec (.seamcfgWrite 0x8000000010000000 false) placed) (fun t => decide (t.dev.seam.state = .idle) && t.dev.seam.aid == 2) = true ∧
    holdsAfter (exec (.seamres res false) (node 1 .indoubt id)) (fun t => decide (t.dev.seam.state = .idle) && t.dev.seam.lOut == 2) = true ∧
    holdsAfter (exec (.pleatcfgWrite 2 0x8000000001000000 false) placed) (fun t => (pleatAt t.dev 2).busy && (pleatAt t.dev 2).nframes == 1) = true ∧
    due.dev.pleats.toList.any (·.passDue) = true ∧ (pleatAt busy.dev 2).busy = true ∧ (pleatAt on.dev 2).en = true ∧ (pleatAt on.dev 2).busy = false ∧
    holdsAfter (exec .localAbortPassEnd due) (fun t => decide (t.dev.seam.state = .disabled)) = true ∧
    holdsAfter (exec (.pleatInitDone 2) busy) (fun t => !(pleatAt t.dev 2).busy) = true ∧
    holdsAfter (exec (.pleatScrubPass 2) on) (fun t => (pleatAt t.dev 2).began == 6) = true := by decide +kernel

/-- A TWAIT in doubt, and a TBEGIN that the scrubber holds. -/
theorem test_seam_waits :
    let x (w : XWait) (s : State) : State := { s with core := { s.core with xwait := w, twaitLate := true } }
    let held := (x .tbegin (node 0 .idle id)).onDev fun d => pleatSet d 2 { pleatAt d 2 with en := true, began := 9 }
    holdsAfter (exec .twaitDeadline (x (.twait 5 6) (node 1 .indoubt id))) (fun t => t.core.task.isNone || t.core.handler) = true ∧
    scrubHold held.dev = true ∧ held.dev.seam.state = .idle ∧ held.core.xwait = .tbegin := by decide +kernel

/-- A port with three unacknowledged messages. -/
def port : Port :=
  { Port.init with up := true, keyed := true, expect := 7, unacked := [(1, .msix 1), (2, .msix 2), (3, .msix 3)], rxFlits := 2 ^ 32, txFlits := 2 ^ 32 }

/-- `placed` with port 4 as given, and a PEER page at 0x401000 whose home is a rank and whose pin ends at a time. -/
def linked (p : Port) (home pinEnd : Nat) : State :=
  let s := poke placed 0x400A00 64 (placePa + 0x6000 + home * 2 ^ 64 + 9 * 2 ^ 80 + pinEnd * 2 ^ 128)
  let s := s.onDev fun d => loadAsid (homeWrite (homeWrite d (placePa + 0x4008) (toBytesLE 8 (0x7F + 2 ^ 59))) 48 (toBytesLE 8 (placePa + 0x5A00))) 1
  { s with cycle := 2 ^ 40, dev := { s.dev with ports := s.dev.ports.set 4 p } }

/-- Flits in and out of sequence, replay, retraining, retired lanes, keys. -/
theorem test_ports :
    let s := linked port 0 0
    let m : LinkMsg := .query (msg 9 0)
    let bad := linked { port with replays := 8 } 0 0
    let down := linked { Port.init with lanes := [1, 2, 3, 4] } 0 0
    (portAt s.dev 4).isSome = true ∧ port.unacked.findIdx? (fun f => f.1 == 2) = some 1 ∧
    holdsAfter (exec (.flitReceive 4 7 true m) s) (fun t => (portAt t.dev 4).any fun p => p.expect == 8) = true ∧
    holdsAfter (exec (.flitReceive 4 8 true m) s) (fun t => decide (t.dev.outbox = [.nack 4 7])) = true ∧
    holdsAfter (exec (.flitReplay 4 2) s) (fun t => decide (t.dev.outbox = [.msix 2, .msix 3])) = true ∧
    holdsAfter (exec (.portRetrain 4 false) bad) (fun t => (portAt t.dev 4).any fun p => !p.up) = true ∧
    holdsAfter (exec (.portLinkUp 4) down) (fun t => (portAt t.dev 4).any fun p => p.up && p.keyed) = true ∧
    holdsAfter (exec (.laneRetired 4 5) down) (fun t => (portAt t.dev 4).any fun p => !p.up && p.lanes == [1, 2, 3, 4, 5]) = true ∧
    holdsAfter (exec (.keyUpdate 4 false) s) (fun t => (portAt t.dev 4).any fun p => p.rxFlits == 0 && p.rxKeys == 1) = true := by decide +kernel

/-- A PEER page at home elsewhere, whose bytes may be installed, and one at home whose pin has ended. -/
theorem test_shared_pages :
    let page (s : State) : Bool := match translate s.dev (accDev s.dev 1) .read 0x401000 with
      | .ok x => (sharedDesc s.dev 1 x).any fun d =>
        decide (homeOf d.2 ≠ ownRank s.dev → sharedFrame d.2 < 2 ^ 40) && (homeOf d.2 != ownRank s.dev || (pinEndOf d.2 != 0 && decide (pinEndOf d.2 ≤ s.timeNs)))
      | .error _ => false
    page (linked port 9 0) = true ∧ page (linked port 0 1000) = true ∧ ownRank (linked port 9 0).dev = 0 ∧
    holdsAfter (exec (.pinEnd 1 0x401000) (linked port 0 1000)) (fun t => (sysRead t.dev [] (placePa + 0x5A10) 8).map ofBytesLE == some 0) = true := by
  decide +kernel

/-- An access of a sender that no ASID accepts, and one that ASID 1 accepts from ASID 5. -/
theorem test_peer_access :
    let a : PAccess := .write 9 5 3 0x400800 [(7, 0xFF)]
    let s := placed.onDev fun d => loadAsid (homeWrite d 56 (toBytesLE 4 (2 ^ 15 + 5 * 2 ^ 16))) 1
    pairedAsid s.dev 5 = some 1 ∧ pairedAsid { s.dev with asidTab := [] } 5 = none ∧ accessBusy s.dev a = false ∧
    accessBusy { s.dev with asidTab := [] } a = false ∧ numberOf a = some 3 := by decide +kernel

/-- X in a fence of system scope, and L with a word in flight, wait for rank 9. -/
theorem test_silent_peer :
    let f : Flight := { Safety.flight .l quiet (.enop quiet) 0x400100 with kind := .peer, done := false, rank := 9, e := 2 }
    let s : State := { placed with core := { placed.core with xwait := .fence .system, l := { placed.core.l with flight := some f } },
                                   dev := { placed.dev with peerOut := [{ core := 0, unit := .s, rank := 9, fenced := true }] } }
    xPeer s = some 9 ∧ ownSeq s .l = true ∧ (seqOf s .l).cause = none ∧ (seqOf s .l).flushed = false ∧
    holdsAfter (exec (.peerTimeout (.seq .l)) s) (fun t => (seqOf t .l).cause.any fun c =>
      decide (c.cause = .peerTimeout) && c.info == linkInfo 9 2 && c.pc == 0x400100) = true ∧
    holdsAfter (exec (.peerLost 9) { s with core := { s.core with xwait := .none } }) (fun t => t.dev.lostRanks == [9] && (seqOf t .l).cause.isSome) = true := by decide +kernel

/-- Memory errors, self-tests, temperatures, reset and evictions. -/
theorem test_machine_events :
    let s : State := { placed with core := { placed.core with l1 := [(3, { va := 192, asid := 1, data := 0, dirty := 0 })] },
                                   dev := { placed.dev with l2 := [(300, 5)], farPort := [{ pa := farBase + 1, b := 9 }], badWords := [4] } }
    (1 : Nat) ∉ s.dev.badWords ∧ 4 ∈ s.dev.badWords ∧ s.dev.softWords = [] ∧ inMatrixWord (coreAt s 0) = false ∧ sealsHeld s.dev = false ∧ (0 : Nat) ∉ port.lanes ∧ (slook s.core.l1 3).isSome = true ∧
    windowOf s.dev (128 * 2) = none ∧ (300 : Nat) / 128 = 2 ∧
    holdsAfter (exec (.patrolScrub 1 .ok) s) (fun t => t.dev.badWords == [4]) = true ∧
    holdsAfter (exec (.selfTest (.dramRow 1 2 3) .spared) s) (fun t => sget 0 t.dev.spareRows (4096 + 2) == 1) = true ∧
    holdsAfter (exec (.thermal 110) s) (fun t => t.dev.throttle == 1) = true ∧
    holdsAfter (exec (.thermal 105) s) (fun t => t.dev.throttle == 0) = true ∧
    holdsAfter (exec .reset s) (fun t => t.dev.l2.isEmpty && t.dev.badWords == [4] && t.dev.fwstat == 0 && t.core.pc == 0) = true ∧
    holdsAfter (exec (.eviction false 2) s) (fun t => t.dev.l2.isEmpty && hbmByte t.dev 300 == 5) = true ∧
    holdsAfter (exec .farTierWriteForward s) (fun t => t.dev.farPort.isEmpty && farByte t.dev (farBase + 1) == 9) = true := by
  decide +kernel

/-! ### Steps -/

/-- The hypotheses of the statement on steps: the schedule names X and the bytes at PC decode; it names L, which runs. -/
theorem test_a_step_may_run :
    let s : State := { placed with sched := [.unit 0 .x] }
    let l := State.reset.withFetchWord 64 0
    s.core.gcore = 0 ∧ released s.dev = true ∧ s.core.task.any (fun k => !k.hold) = true ∧ s.core.saving = none ∧
    pendingUnit { tick s with sched := [], unit := .x } = none ∧
    (match fetchX { tick s with sched := [], unit := .x } with
      | .ok (_, bs) => (match decodeScalarBytes bs with | .ok (i, _) => decide (i = .add 0 0 0) | .error _ => false)
      | .error _ => false) = true ∧
    (seqOf l .l).running = true ∧ (seqOf l .l).cause = none ∧ (seqOf l .l).flight = none ∧ (seqOf l .l).flushed = false ∧
    s.core.residues = [] ∧ isWord (.refresh 0 0 0) = false ∧
    holdOf { tick l with sched := [], unit := .seq .l } .l = .run ∧
    (match fetchSeq { tick l with sched := [], unit := .seq .l } .l with
      | .ok (_, bs) => (match decodeEngineBytes bs with | .ok (i, _) => decide (i = .enop quiet) | .error _ => false)
      | .error _ => false) = true ∧ State.reset.sched = [] ∧ nextUnit State.reset.unit ≠ .seq (.e 48) := by decide +kernel

/-- One step runs a placed scalar word (ADDI x5, x0, 77) and a placed word of L (ISET). -/
theorem test_steps :
    holdsAfter (step (State.reset.withFetchWord 32 (encode (.addi 5 0 77)))) (fun t => xget t 5 == 77 && t.core.pc == 0x400004) = true ∧
    holdsAfter (step (State.reset.withFetchWord 64 (encode (.iset quiet 3 9)))) (fun t =>
      t.core.l.idx[3] == 9 && t.core.l.pc == 0x400008 && t.core.l.flight.isSome) = true := by decide +kernel

/-- The hypotheses of the invariants hold after reset. -/
theorem test_invariants_at_reset :
    Safety.zeroRegs State.reset = true ∧ Safety.memoryOk State.reset = true ∧ Safety.cachesOk State.reset := by
  refine ⟨by decide +kernel, by decide +kernel, ?_⟩
  simp [Safety.cachesOk, Safety.rising, State.reset, Dev.init, Machine.Core.init]

/-- The hypotheses of the round trip: a scalar and an engine instruction that are well formed. -/
theorem test_some_instructions_are_well_formed :
    (Instr.addi 5 0 77).wellFormed = true ∧ (Instr.addi 5 0 77).isScalar = true ∧
    (Instr.iset quiet 3 9).wellFormed = true ∧ (Instr.iset quiet 3 9).sync?.isSome = true := by decide +kernel

/-! ### The cases of statements in which a word waits or is refused -/

/-- `s` with an XFER of S to rank 9 that the peer has not reported as performed. -/
def owing (s : State) : State := s.onDev fun d => { d with peerOut := [{ core := 0, unit := .s, rank := 9 }] }

/-- X waits in an SWAIT for 2 of the count 2 of semaphore 5, which L also wants. -/
theorem test_a_claimed_count :
    let s := State.reset.withFetchWord 32 (encode (.swait 5 2))
    let c : Machine.Core := { semSet s.core 5 2 with xwait := .swait }
    let s : State := { s with core := c }
    let y : Sync := { quiet with wsem := 5, wthr := 2 }
    Safety.claimed s .l 5 = 2 ∧ issueTests s .l y = none ∧ issueWait s .l y = some (.sem 5 2) := by decide +kernel

/-- The retirement of a word past which another has issued. -/
theorem test_retirement_with_an_early_word :
    let f := Safety.flight .l quiet (.enop quiet) 0x400100
    let s : State := waitsAt .none fun q => { q with flight := some f, early := [{ f with pc := 0x400108 }] }
    mayRetire s .l f = true ∧ ownSeq s .l = true ∧
    holdsAfter (exec (.wordRetire .l) s) (fun t => t.core.l.flight.any (fun g => g.pc == 0x400108) && t.core.l.early.isEmpty) = true := by
  decide +kernel

/-- TEXIT and RSIG wait for an XFER that is not performed. -/
theorem test_waits_for_a_peer :
    accessesPending (flushL1 placed) = false ∧ accessesPending (flushL1 (owing placed)) = true ∧ exitPending (owing placed) = false ∧
    writesPending (owing (peered 0)) .s = true ∧
    holdsAfter (exec .texit (owing placed)) (fun t => decide (t.core.xwait = .texit)) = true ∧
    holdsAfter (exec (.rsig quiet 7 1 6) (owing (peered 0))) (fun t => semVal t.core 7 == 0 && t.core.s.flight.isNone) = true := by
  decide +kernel

/-- A QPOST without room waits with what it has read, and is accepted with it. -/
theorem test_qpost_waits :
    let full : State := { cached .c with core := { (cached .c).core with q := (cached .c).core.q.set 3 { RQueue.init with rsvd := 127 } } }
    holdsAfter (exec (.qpost quiet 4 1 2 3) full) (fun t =>
      (match t.core.c.wait with | .post _ _ => true | _ => false) &&
      let u : State := { t with core := { t.core with q := t.core.q.set 3 RQueue.init } }
      (postReady 4 1 2 3 u).isNone && holdsAfter (exec (.qpost quiet 4 1 2 3) u) fun v => v.dev.qposts.length == 1) = true := by
  decide +kernel

/-- NMADD on F32 in a region with DET[1] = 1. -/
theorem test_strict_nmadd :
    let s : State := { streams .s with core := { (streams .s).core with regionId := 2 ^ 33 } }
    let o : XOp := { f := false, ac := 0, d := 4, src := 3 }
    okB (moveDecode nopMove o s .s) = true ∧ okB (moveEarly nopMove o s .s) = true ∧ detStrict s = true ∧
    (match fetchDescs nopMove o s .s with | .ok (_, l) => decide ((endsOf o l).srcTy = .f32) | .error _ => false) = true ∧
    holdsAfter (exec (.nmaddEngine quiet o) s) (fun t => t.core.s.cause.any fun c => decide (c.cause = .priv)) = true := by
  decide +kernel

/-- Until a teardown has finished, the place of the ASID table stays guarded. -/
theorem test_teardown_guard :
    let s := atIface .unlocked fun d => { d with teardown := true }
    guarded 0x20000 = true ∧ ownStep 0x20000 = false ∧ barred s.dev false = false ∧
    holdsAfter (exec (.registerWrite 0x20000 0x100000 false) s) (fun t => t.dev.asidbase == s.dev.asidbase && t.dev.herrlog != 0) = true := by
  decide +kernel

/-- The dispatch of the work of region 0 to core 1, the lowest that can take it. -/
theorem test_lowest_core :
    holdsAfter (exec (.launchRecordRead 0) (queued (0x400200 + 2 ^ 64 * 0x400C00))) (fun t =>
      idleCore t 1 && (dispatchable t 1 0).isSome && (List.range 1).all fun g => !takesWork t g) = true := by decide +kernel

/-! ### More cases of the statements -/

/-- The frame of `trapReady` is the task's page, an ordinary page of HBM: x1 to x7 stand in it from byte 0x40 on (R367). -/
theorem test_trap_frame :
    let s : State := { trapReady with core := { trapReady.core with x := (trapReady.core.x.set 1 0x1122).set 7 0x99 } }
    let t := raiseFlags s { cause := .brk }
    (match translate t.dev (trapAcc t) .write (frameBase s.core.taskFrame + 0x40) with
      | .ok x => x.remote.isNone && x.attr == 0 && decide (x.pa + 56 ≤ farBase) && x.pa == placePa + 0x5040
      | .error _ => false) = true ∧
    holdsAfter (exec (.trap 7) s) (fun t => l2Byte t.dev (placePa + 0x5040) == 0x22 && l2Byte t.dev (placePa + 0x5041) == 0x11 &&
      l2Byte t.dev (placePa + 0x5070) == 0x99) = true := by decide +kernel

/-- FADD 1.5 + 2 in memory gives 3.5, and FMIN of 1.5 and a NaN the NaN 0x7FC00000 (R231). -/
theorem test_float_atomics :
    let s := (fun s => poke s 0x400800 4 0x3FC00000) (withX [(2, 0x400800), (3, 0x40000000), (4, 0x7F800001)])
    holdsAfter (exec (.amo .fadd 1 2 3 false) s) (fun t => xget t 1 == 0x3FC00000 && l2Byte t.dev (placePa + 0x5803) == 0x40 &&
      l2Byte t.dev (placePa + 0x5802) == 0x60) = true ∧
    holdsAfter (exec (.amo .fmin 1 2 4 false) s) (fun t => l2Byte t.dev (placePa + 0x5803) == 0x7F &&
      l2Byte t.dev (placePa + 0x5802) == 0xC0 && l2Byte t.dev (placePa + 0x5800) == 0) = true := by decide +kernel

/-- A near-memory operation of X on a PEER page whose home is rank 9: X sends it and waits. -/
theorem test_remote_near_memory :
    let l := linked port 9 0
    let s : State := { l with unit := .x, core := { l.core with x := (l.core.x.set 2 0x401000).set 3 7 }
                              dev := { l.dev with routes := [(9, 4)] } }
    (match translate s.dev (accOf s) .write 0x401000 with
      | .ok x => x.remote == some 9 && x.attr != 2 && decide (x.pa < farBase) | .error _ => false) = true ∧
    s.dev.reqs.isEmpty = true ∧ s.unit = .x ∧
    holdsAfter (exec (.nmadd 2 3 .i32) s) (fun t => decide (t.core.xwait = .access) && t.dev.reqs.length == 1 && t.core.pc == 0x400000) = true := by
  decide +kernel

/-- Another core with a task of ASID 1 whose masks admit other cores. -/
def neighbour (n : Nat) : State :=
  let c : Machine.Core := { placed.core with gcore := 2 }
  { withX [(3, 2), (4, 287), (5, 288)] with others := [(2, semSet c 9 n)] }

/-- SSIG to core 2 through x3 at the bound of its count and past it, to a core with no task, and to core 288 (R292). -/
theorem test_signal_to_another_core :
    (coreAt (neighbour 0) 2).task.isSome = true ∧ (coreAt (neighbour 0) 2).asid = (neighbour 0).core.asid ∧
    ((coreAt (neighbour 0) 2).semMask[9]).getLsbD 6 = true ∧ checking (neighbour 0) = false ∧ (coreAt (neighbour 0) 287).task = none ∧
    holdsAfter (exec (.ssig 3 9 1) (neighbour 65534)) (fun t => semVal (coreAt t 2) 9 == 65535 && (coreAt t 2).ev == 1 &&
      semVal t.core 9 == 0 && t.core.pc == 0x400004) = true ∧
    holdsAfter (exec (.ssig 3 9 1) (neighbour 65535)) (fun t => t.core.pc != 0x400004) = true ∧
    holdsAfter (exec (.ssig 4 9 1) (neighbour 0)) (fun t => t.core.pc != 0x400004) = true ∧
    (288 : Nat) ≤ (xget (neighbour 0) 5).toNat := by decide +kernel

/-- SVOTE that waits while its attempt is aborted locally goes on (R338, R354). -/
theorem test_a_vote_whose_attempt_is_over :
    let s : State := { seamed .disabled true with core := { (seamed .disabled true).core with xwait := .svote } }
    let off : State := s.onDev fun d => { d with seam := { d.seam with cfg := 0 } }
    inCheck off = false ∧ (xget off 1).toNat < 2 ^ 16 ∧ (xget off 2).toNat < 64 ∧ seamEn off.dev = false ∧
    holdsAfter (exec (.svote 1 2) off) (fun t => t.core.pc == 0x400004) = true := by decide +kernel

/-- The ESTOP of L retires: L starts its next command, or is idle; a copy engine's program ends (R49). -/
theorem test_estop_retirement :
    let f (u : SeqId) : Flight := { Safety.flight u quiet (.estop quiet) 0x400100 with estop := true }
    let one := waitsAt .none fun q => { q with running := true, flight := some (f .l), queue := [(0x400200, 7)] }
    let last := waitsAt .none fun q => { q with running := true, flight := some (f .l) }
    let ce := placed.onDev fun d =>
      { d with ce := d.ce.set 2 { d.ce[2] with prog := some 0, seq := { d.ce[2].seq with running := true, flight := some (f (.e 2)) } } }
    mayRetire one .l (f .l) = true ∧ (f .l).estop = true ∧ noUnit (.e 2) = false ∧ ownSeq ce (.e 2) = true ∧
    mayRetire ce (.e 2) (f (.e 2)) = true ∧ (seqOf ce (.e 2)).flushed = false ∧
    holdsAfter (exec (.wordRetire .l) one) (fun t => t.core.l.running && t.core.l.pc == 0x400200 && t.core.l.idx[0] == 7 &&
      t.core.l.queue.isEmpty && t.core.ev == 4) = true ∧
    holdsAfter (exec (.wordRetire .l) last) (fun t => !t.core.l.running && t.core.ev == 4) = true ∧
    holdsAfter (exec (.wordRetire (.e 2)) ce) (fun t => t.dev.ce[2].prog.isNone && t.core.ev == 8) = true := by decide +kernel

/-- A word that popped one vector of queue 5 retires; its ESTOP with a refused signal stops at itself (R27, R190). -/
theorem test_retirement_of_held_vectors_and_refused_signals :
    let f := Safety.flight .s quiet (.enop quiet) 0x400100
    let held : State := { placed with core := { placed.core with
      q := placed.core.q.set 5 { RQueue.init with held := 1 }
      s := { placed.core.s with running := true, flight := some { f with held := [(5, [{ data := 0, ue := none }])] } } } }
    let past : State := { semSet placed.core 9 65535 with l := { placed.core.l with
      running := true, pc := 0x400108, flight := some { Safety.flight .l quiet (.estop quiet) 0x400100 with estop := true, sinc := 1, ssem := 9 } } }
      |> fun c => { placed with core := c }
    holdsAfter (exec (.wordRetire .s) held) (fun t => t.core.q[5].held == 0) = true ∧
    semVal past.core 9 + 1 > 65535 ∧ (past.core.semMask[9]).getLsbD (sourceBit .l) = true ∧
    holdsAfter (exec (.wordRetire .l) past) (fun t => t.core.l.cause.any fun c =>
      decide (c.cause = .semOvf) && c.pc == 0x400100 && c.estop && c.info == 9) = true := by decide +kernel

/-- The fence of S marks the write of its path at the far-tier port and the held accesses; while one is marked, it does not retire;
nor does it while the core is saved. -/
theorem test_fence_marks :
    let w : FarW := { pa := farBase, b := 1, path := .s }
    let m : PMove := { asid := 1, va := 0x401000, peer := 5, desc := 0, rank := 9, pend := [.pin 9 5 0x401000] }
    let s : State := (streams .s).onDev fun d => { d with farPort := [w, { w with path := .l }], moves := [m] }
    let f := { Safety.flight .s quiet (.fencexEngine quiet .s .q .system) 0 with kind := .fence .s .system }
    let p := { f with kind := .fence .p .core }
    let t := markFence s (.seq .s) .s
    (t.dev.farPort.map fun w => w.fences.length) = [1, 0] ∧ mayRetire t .s f = false ∧
    mayRetire (t.onDev fun d => { d with farPort := d.farPort.tail }) .s f = true ∧
    mayRetire (markFence s (.seq .s) .p) .s p = false ∧ mayRetire ((markFence s (.seq .s) .p).onDev fun d => { d with moves := [] }) .s p = true ∧
    frozenFence { s with core := { s.core with saving := some .yield } } .s f = true := by decide +kernel

/-- A cause of L is delivered to X, whose handler and frame exist; a timed-out sequencer at rest. -/
theorem test_delivery_hypotheses :
    let s : State := { trapReady with core := { trapReady.core with l := { trapReady.core.l with cause := some { cause := .queueUnf } } } }
    takesCause s.core = true ∧ s.core.trapVec ≠ 0 ∧ ownSeq s .l = true ∧ noUnit .l = false ∧ s.core.saving = none ∧
    okB (vwrite s (trapAcc s) .x .l2 true (frameBase s.core.taskFrame + 0x40) (x17Bytes s.core)) = true ∧
    holdsAfter (exec (.trapDelivery .l) s) (fun t => t.core.handler && t.core.pc == 0x400100 && t.core.l.delivered) = true := by
  decide +kernel

/-- A pending append whose KAPP waits part-way is not written through; one that is whole is. -/
theorem test_open_appends :
    let a : Append := { stack := 0, pa := 0x6000000, len := 256, frame := 0x400001 }
    let s : State := { cached .s with core := { (cached .s).core with taskFrame := 0x400001, s := { (cached .s).core.s with
      resume := some { e := 3, issued := true } } } }
    appendOpen s a = true ∧ appendOpen s { a with whole := true } = false ∧ appendOpen s { a with frame := 9 } = false := by decide +kernel

/-- A copy engine with a post whose record lies on a PEER page at home at rank 9. -/
def asking : State :=
  let s := linked port 9 0
  { s with dev := { s.dev with routes := [(9, 4)], ce := s.dev.ce.set 2 { s.dev.ce[2] with posts := [{ core := 0, addr := 0x401000 }] } } }

/-- The record of a post is readable here, and at home elsewhere: the engine asks for it. -/
theorem test_post_elsewhere :
    (recordAwait (focus posted 0) 2 { core := 0, addr := 0x400800 }).isNone = true ∧
    (recordAwait (focus asking 0) 2 { core := 0, addr := 0x401000 }).isSome = true ∧
    recordBusy (focus asking 0) 2 { core := 0, addr := 0x401000 } = false ∧
    holdsAfter (exec (.copyEngineStart 2) asking) (fun t => t.dev.reqs.length == 1) = true := by decide +kernel

/-- `placed` whose task is to be saved, with no frame mapped. -/
def unframed : State := { placed with core := { placed.core with saving := some .yield, taskFrame := 0x800001 } }

/-- A task that is to be saved into a frame whose page is at home at rank 9. -/
def framedElsewhere : State :=
  let l := (linked port 9 0).onDev fun d => homeWrite d (placePa + 0x4000) (toBytesLE 8 (0x7F + 2 ^ 59))
  { l with core := { l.core with saving := some .yield, taskFrame := 0x400001 }, dev := { l.dev with routes := [(9, 4)] } }

/-- A context save whose frame is not mapped stops the launch; one whose frame is at home elsewhere is asked for. -/
theorem test_save_without_a_frame :
    saveReady unframed = true ∧ saveReady framedElsewhere = true ∧
    unframed.core.task.any (fun t => match saveTask unframed t .yield with | .error c => c.await.isNone | _ => false) = true ∧
    framedElsewhere.core.task.any (fun t => match saveTask framedElsewhere t .yield with | .error c => c.await.isSome | _ => false) = true ∧
    holdsAfter (exec .contextSave unframed) (fun t => t.core.task.isNone && t.dev.saved.isEmpty) = true ∧
    holdsAfter (exec .contextSave framedElsewhere) (fun t => t.core.saving.isSome && t.dev.reqs.length == 1) = true := by decide +kernel

/-- UNSEAL zeroes the bytes of the frame that it names and no other (R321). -/
theorem test_unseal_zeroes :
    let s := (poke placed 0x400800 4 0xAB).onDev fun d => { d with iface := .run }
    s.dev.softWords.isEmpty = true ∧ s.dev.badWords.isEmpty = true ∧ s.dev.badL2.isEmpty = true ∧
    holdsAfter (exec (.unsealFrames 0x4000000000004005 true) s) (fun t => l2Byte t.dev (placePa + 0x5800) == 0 && !frameSealed t.dev 0x4005) = true ∧
    holdsAfter (exec (.unsealFrames 0x4000000000004006 true) s) (fun t => l2Byte t.dev (placePa + 0x5800) == 0xAB) = true := by
  decide +kernel

/-- A TLBINVC with ALLVA reads the entry of its ASID as it ends, not before (R305, R312). -/
theorem test_invalidation_of_an_asid :
    let s := placed.onDev fun d => { loadAsid d 1 with tlbinvc := 0 }
    (BitVec.getLsbD (0x0000110000000000 : Word) 40 && !BitVec.getLsbD (0x0000110000000000 : Word) 41) = true ∧
    BitVec.extractLsb' 44 12 (0x0000110000000000 : Word) = 1 ∧
    holdsAfter (exec (.tlbInvalidate 0x0000110000000000) s) (fun t => t.dev.tlbinvc == 0x8000110000000000 &&
      (let u := t.onDev fun d => homeWrite d 56 (toBytesLE 4 (2 ^ 15 + 5 * 2 ^ 16))
       entOf (sget 0 u.dev.asidTab 1) == entOf (sget 0 s.dev.asidTab 1) && !usesDropped u &&
       holdsAfter (exec .tlbInvalidateDone u) fun v => sget 0 v.dev.asidTab 1 != sget 0 s.dev.asidTab 1)) = true := by decide +kernel

/-- PGDONE of a parked task, of a resident one of class C, and of a frame that nothing waits for (R316). -/
theorem test_pgdone :
    let s := placed
    let parked : State := s.onDev fun d => { d with saved := s.core.task.toList.map fun t =>
      { taskFrame := 0x400C01, task := { t with pagePending := true }, parked := true, joined := false, qids := [], seqs := [], ces := []
        dlv := none, marks := [], txn := none, txnDead := false, regionId := 0, asid := 1, sealBit := false } }
    let here : State := { s with
      core := { s.core with taskFrame := 0x400C01, task := s.core.task.map fun t => { t with pagePending := true, pgSem := 7 } }
      dev := { s.dev with launches := s.dev.launches.map fun l => { l with cls := 2 } } }
    barred s.dev false = false ∧
    holdsAfter (exec (.pgdone 0x400C01 false) parked) (fun t => t.dev.ready.length == 1 && (savedOf t.dev 0x400C01).any fun a => !a.parked) = true ∧
    holdsAfter (exec (.pgdone 0x400C01 false) here) (fun t => t.core.task.any (fun k => !k.pagePending) && semVal t.core 7 == 1) = true ∧
    holdsAfter (exec (.pgdone 0x400C01 false) s) (fun t => t.dev.herrlog != 0) = true := by decide +kernel

/-- A key exchange uses a leaf, and none when the last is used; a frame whose seal bit can be read. -/
theorem test_key_exchange :
    let none_ := placed.onDev fun d => { d with spdmLeaf := 2 ^ 15 }
    sealUnread placed.dev (placePa / 4096 + 5) = false ∧
    holdsAfter (exec (.spdmRequest .keyExchange) placed) (fun t => t.dev.spdmLeaf == 1 && t.dev.outbox.length == 1) = true ∧
    holdsAfter (exec (.spdmRequest .keyExchange) none_) (fun t => t.dev.spdmLeaf == 2 ^ 15 && !t.dev.outbox.isEmpty) = true := by
  decide +kernel

/-- `node` with the frame of the task's page and the next one as the region of their stack: the block at 0x400800 was written by an
attempt, with SEL = 0; its slots begin with 11 and 22. -/
def slotted (st : SeamState) (y : BitVec 16) (out : PleatOutcome) : State :=
  let s := poke (poke (node 6 st id) 0x400800 1 11) 0x401800 1 22
  let k := stackOf (placePa + 0x5800)
  s.onDev fun d => pleatSet d k { pleatAt d k with
    en := true, nframes := 1, first := frameIn (placePa + 0x5800), blocks := [(8, (false, y))], window := [(y.toNat % 4096, out)] }

/-- A block of A = 6 reads its tentative slot inside A, its committed one outside, and from a committed decision on the tentative
one (R333, R336). -/
theorem test_slots_and_decision :
    let s := slotted .voted 6 .aborted
    let at8 := placePa + 0x5800
    isPrimary s.dev at8 = true ∧ blockMeta s.dev at8 = (false, 6) ∧ (8 - 6 : BitVec 16).toNat % 4096 ≠ 0 ∧
    seamRuns s.dev = true ∧ seamNear s.dev.seam 2 = true ∧
    pleatByte s.dev [6] at8 = 22 ∧ pleatByte s.dev [] at8 = 11 ∧
    holdsAfter (exec (.decision (msg 2 1)) s) (fun t => pleatByte t.dev [] at8 == 22 && decide (outcomeOf (pleatAt t.dev (stackOf at8)) 6 = .committed)) = true ∧
    holdsAfter (exec (.decision (msg 2 2)) s) (fun t => pleatByte t.dev [] at8 == 11) = true := by decide +kernel

/-- The scrub pass gives a block of the committed attempt 2, which lives no more, the slot that it reads, and the AID LAID + 1 = 5. -/
theorem test_scrub_of_a_block :
    let s := slotted .idle 2 .committed
    let at8 := placePa + 0x5800
    let k := stackOf at8
    (pleatAt s.dev k).badMeta = [] ∧ outcomeOf (pleatAt s.dev k) (s.dev.seam.lAid + 1) ≠ .committed ∧
    (attemptLive s.dev = true → (2 : BitVec 16) ≠ s.dev.seam.aid ∧ (2 : BitVec 16) ≠ s.dev.seam.aid + 1) ∧
    pleatByte s.dev [] at8 = 22 ∧
    holdsAfter (exec (.pleatScrubPass k) s) (fun t => blockMeta t.dev at8 == (true, 5) && pleatByte t.dev [] at8 == 22 &&
      pleatByte t.dev [6] at8 == 22) = true := by decide +kernel

/-- Four queries unanswered put the rank in doubt, and the TWAIT of its task traps. -/
theorem test_twait_in_doubt :
    let s : State := { node 6 .voted fun m => { m with sent := true, queries := 4 } with
      core := { trapReady.core with xwait := .twait 5 6 } }
    s.dev.seam.sent = true ∧ s.others = [] ∧ s.core.saving = none ∧
    holdsAfter (exec .decisionTimeout s) (fun t => decide (t.dev.seam.state = .indoubt) && t.core.handler && t.core.trapInfo == 6) = true := by
  decide +kernel

/-- `placed` where ASID 1 accepts ASID 5 of a peer. -/
def paired : State := { placed.onDev (fun d => loadAsid (homeWrite d 56 (toBytesLE 4 (2 ^ 15 + 5 * 2 ^ 16))) 1) with dev :=
  { (placed.onDev fun d => loadAsid (homeWrite d 56 (toBytesLE 4 (2 ^ 15 + 5 * 2 ^ 16))) 1).dev with routes := [(9, 4)] } }

/-- A peer's read, write, atomic and near-memory operation at its place, and its signal (R226, R306). -/
theorem test_performed_peer_accesses :
    let s := poke paired 0x400800 4 7
    let at8 := placePa + 0x5800
    localAsid s.dev (.read 9 5 3 0x400800 4) = some 1 ∧ accessBusy s.dev (.read 9 5 3 0x400800 4) = false ∧
    (match translate s.dev (peerAcc s.dev 1) .both 0x400800 with
      | .ok x => x.remote.isNone && (movingDesc s.dev 1 x).isNone && okB (asDevice s fun v => vread v (peerAcc s.dev 1) .l2 0x400800 4)
      | .error _ => false) = true ∧
    holdsAfter (exec (.pAccessReceive (.write 9 5 3 0x400800 [(5, 0xFF), (6, 0)])) s) (fun t => l2Byte t.dev at8 == 5 && l2Byte t.dev (at8 + 1) == 0) = true ∧
    holdsAfter (exec (.pAccessReceive (.atomic 9 5 3 0x400800 4 (.amo .add 2))) s) (fun t => l2Byte t.dev at8 == 9) = true ∧
    holdsAfter (exec (.pAccessReceive (.nop 9 5 3 0x400800 0 false 4)) s) (fun t => l2Byte t.dev at8 == 11) = true ∧
    (coreAt s 0).task.isSome = true ∧ (coreAt s 0).asid = 1 ∧
    holdsAfter (exec (.pAccessReceive (.signal 9 5 0 7 2)) s) (fun t => semVal t.core 7 == 2) = true ∧
    holdsAfter (exec (.pAccessReceive (.read 9 5 3 0x500000 4)) s) (fun t => t.dev.outbox.length + (t.dev.ports.toList.map (·.waiting.length)).sum == 1) = true := by
  decide +kernel

/-- ASID 5 of rank 9 accepted here, with a PEER page at home at a rank whose partner is 9, and given install times and pin. -/
def shared (home pinEnd : Nat) : State :=
  (linked port home pinEnd).onDev fun d => { loadAsid (homeWrite d 56 (toBytesLE 4 (2 ^ 15 + 5 * 2 ^ 16))) 1 with routes := [(9, 4)] }

/-- After a partner's write the page moves; an access to it waits for the move; a partner's pin counts (R319). A frame
that takes a page. -/
theorem test_page_moves_and_pins :
    let s := shared 0 0
    (match translate s.dev (peerAcc s.dev 1) .write 0x401000 with
      | .ok x => x.remote.isNone && bit x.leaf 59 && (sharedDesc s.dev 1 x).any fun d =>
          partnerOf d.2 == 9 && pinEndOf d.2 == 0 && (moveOf s.dev d.1).isNone && recentInstalls s d.2 == 0
      | .error _ => false) = true ∧
    (let r := linked port 9 0
     r.dev.rwins.isEmpty && !isPrimary r.dev (placePa + 0x5A00) && decide (placePa + 0x5A00 + 64 ≤ placePa + 0x6000)) = true ∧
    holdsAfter (exec (.pAccessReceive (.pin 9 5 0x401000)) s) (fun t =>
      (sysRead t.dev [] (placePa + 0x5A0C) 4).map ofBytesLE == some 1) = true := by decide +kernel

/-- A page whose move is under way, and one whose home is elsewhere: the access waits, or goes there. -/
theorem test_access_to_a_moving_page :
    let m : PMove := { asid := 1, va := 0x401000, peer := 5, desc := placePa + 0x5A00, rank := 9, pend := [] }
    let s := (shared 0 0).onDev fun d => { d with moves := [m] }
    let r : PAccess := .read 9 5 3 0x401000 4
    holdsAfter (exec (.pAccessReceive r) s) (fun t => t.dev.moves.map (·.pend.length) == [1]) = true ∧
    (match translate (shared 7 0).dev (peerAcc (shared 7 0).dev 1) .read 0x401000 with | .ok x => x.remote == some 7 | .error _ => false) = true ∧
    (cancelMoves (s.onDev fun d => { d with moves := [{ m with pend := [r] }] }) 9).dev.moves.isEmpty = true ∧
    (s.dev.moves.all fun w => w.rank != 8) = true := by decide +kernel

/-- Retraining that succeeds, keys that advance for sending, a sequencer at rest that waits for its page's partner. -/
theorem test_ports_again :
    let bad := linked { port with replays := 8 } 0 0
    let m : PMove := { asid := 1, va := 0x401000, peer := 5, desc := 0, rank := 9, pend := [] }
    let w := (waitsAt .none fun q => { q with wait := .uncounted, resume := some { e := 4, issued := true } }).onDev fun d => { d with moves := [m] }
    holdsAfter (exec (.portRetrain 4 true) bad) (fun t => (portAt t.dev 4).any fun p => p.up && p.replays == 0) = true ∧
    holdsAfter (exec (.keyUpdate 4 true) (linked port 0 0)) (fun t => (portAt t.dev 4).any fun p => p.txFlits == 0 && p.txKeys == 1) = true ∧
    seqPeer w .l = some (9, 4) ∧ (seqOf w .l).flight.isNone = true ∧
    holdsAfter (exec (.peerTimeout (.seq .l)) w) (fun t => t.dev.moves.isEmpty && (seqOf t .l).cause.any fun c =>
      decide (c.cause = .peerTimeout) && c.info == linkInfo 9 4) = true := by decide +kernel

/-- A scrub that corrects a word, and one that finds an uncorrectable error: the row is demoted (R376, R378). -/
theorem test_scrub_errors :
    let s := placed.onDev fun d => { d with softWords := [7] }
    s.dev.softWords.Nodup ∧ slook s.dev.l2 (32 * 9) = none ∧
    holdsAfter (exec (.patrolScrub 7 .ok) s) (fun t => t.dev.softWords.isEmpty && t.dev.badWords.isEmpty && !t.dev.retention.isEmpty) = true ∧
    holdsAfter (exec (.patrolScrub 9 .uncorrectable) s) (fun t => t.dev.badWords.contains 9 && t.dev.softWords == [7]) = true := by
  decide +kernel

/-- Self-tests with a lasting fault: a cuff unit, an L2 way, an array of a core, a lane, a unit of a core (R379). -/
theorem test_lasting_faults :
    retiresFirst placed 0 (.seq .c) = false ∧ retiresFirst placed 0 .x = false ∧ Safety.rising placed.others ∧
    (placed.core.task.isSome && placed.core.saving.isNone) = true ∧
    holdsAfter (exec (.selfTest (.cuffUnit 2 3) .noSpare) placed) (fun t => t.dev.cuffOut.contains (4096 * 2 + 3)) = true ∧
    holdsAfter (exec (.selfTest (.sram 0 8 0) .noSpare) placed) (fun t => t.dev.sramOut.length == 1 && !(coreAt t 0).retired) = true ∧
    holdsAfter (exec (.selfTest (.sram 0 9 0) .noSpare) placed) (fun t => (coreAt t 0).retired) = true ∧
    holdsAfter (exec (.selfTest (.lane 4 7) .noSpare) (linked port 0 0)) (fun t => (portAt t.dev 4).any fun p => p.lanes == [7] && p.up) = true ∧
    holdsAfter (exec (.selfTest (.residue 0 (.seq .c)) .noSpare) placed) (fun t => (coreAt t 0).retired) = true := by
  refine ⟨by decide +kernel, by decide +kernel, by simp only [Safety.rising]; decide +kernel, by decide +kernel, by decide +kernel,
    by decide +kernel, by decide +kernel, by decide +kernel, by decide +kernel⟩

/-- Above 115 °C, without power and after a firmware fault every launch is stopped (R381). -/
theorem test_machine_stops :
    holdsAfter (exec (.thermal 120) placed) (fun t => t.dev.launches.isEmpty && t.dev.throttle == 1) = true ∧
    holdsAfter (exec .power placed) (fun t => t.dev.launches.isEmpty && t.dev.powerLost && !released t.dev && t.core.task.isNone) = true ∧
    holdsAfter (exec .firmware placed) (fun t => t.dev.launches.isEmpty && t.dev.fwstat == 0 && !released t.dev) = true := by
  decide +kernel

/-- The eviction of an L1 line with one dirty byte: the byte reaches its home. -/
theorem test_eviction_of_a_dirty_line :
    let s : State := { placed with core := { placed.core with l1 := [((placePa + 0x5800) / 64,
      { va := 0x400800, asid := 1, data := 0x1122, dirty := 1 })] } }
    Safety.rising s.core.l1 ∧ Safety.rising s.dev.l2 ∧ Safety.seen s (placePa + 0x5800) = 0x22 ∧
    holdsAfter (exec (.eviction true ((placePa + 0x5800) / 64)) s) (fun t => t.core.l1.isEmpty && l2Byte t.dev (placePa + 0x5800) == 0x22 &&
      l2Byte t.dev (placePa + 0x5801) == 0) = true := by
  refine ⟨by simp only [Safety.rising]; decide +kernel, by simp only [Safety.rising]; decide +kernel, by decide +kernel, by decide +kernel⟩

/-- The round of an empty schedule: nothing is ready in a reset machine; a pending append is. -/
theorem test_device_turns :
    let s : State := { State.reset with unit := .seq (.e 47) }
    let a : State := (cached .s).onDev fun d => { d with appends := [{ stack := 0, pa := 0x6000000, len := 256, whole := true }] }
    nextUnit s.unit = .seq (.e 48) ∧ (readyEvent { tick s with unit := .seq (.e 48) }).isNone = true ∧
    (readyEvent a).any (fun r => holdsAfter (runReady a r) fun t => t.dev.appends.isEmpty) = true := by decide +kernel

/-- Four words at the PC of C that make a fused group, and the word at the PC alone (R178). -/
theorem test_a_group_at_the_pc :
    let s : State := { State.reset.withFetchWord 64 0 with unit := .seq .c }
    let w : List Instr := [.vredmax quiet { ty := .f32, vd := 2, va := 1, pg := 0 }, .vsub quiet { ty := .f32, vd := 3, va := 1, vb := 2, pg := 0 },
      .vexp quiet { ty := .f32, vd := 4, va := 3, pg := 0 }, .vredsum quiet { ty := .f32, vd := 5, va := 4, pg := 0 }]
    let t : State := poke (poke { s with core := { s.core with c := { s.core.c with pc := 0x400000, running := true } } } 0x400000 16
      (encode w[0] + 2 ^ 64 * encode w[1])) 0x400010 16 (encode w[2] + 2 ^ 64 * encode w[3])
    (match fusedAt t w[0] with | .ok (some o) => decide (o = { fusedF32 with sinc := 0, ssem := 0 }) | _ => false) = true ∧
    (match fusedAt { t with core := { t.core with c := { t.core.c with pc := 0x400008 } } } w[0] with | .ok none => true | _ => false) = true ∧
    (match fusedAt t w[1] with | .ok none => true | _ => false) = true := by decide +kernel

end Sys2Proof.Tests
end

/-! PROOFS. The scalar integer words of R125, R126 and R128: divisions with their trap on a zero divisor, and the immediate
words with their encodings. -/

namespace Sys2Proof.Machine

/-! ### Results in sequence -/

/-- A sequence of two steps succeeds exactly where both do. -/
theorem bind_eq_ok_iff {ε α β : Type} {x : Except ε α} {f : α → Except ε β} {b : β} :
    x >>= f = .ok b ↔ ∃ a, x = .ok a ∧ f a = .ok b := by
  cases x with
  | error e => constructor <;> rintro ⟨_, ⟨⟩, _⟩
  | ok a =>
    constructor
    · exact fun h => ⟨a, rfl, h⟩
    · rintro ⟨_, ⟨⟩, h⟩
      exact h

theorem map_eq_ok_iff {ε α β : Type} {x : Except ε α} {f : α → β} {b : β} :
    x.map f = .ok b ↔ ∃ a, x = .ok a ∧ f a = b := by
  cases x <;> simp [Except.map]

/-- What every round of a loop keeps, the loop keeps. -/
theorem foldlM_ok_induction {ε σ ι : Type} (P : σ → Prop) {f : σ → ι → Except ε σ}
    (step : ∀ s i t, f s i = .ok t → P s → P t) {l : List ι} {s t : σ} (h : l.foldlM f s = .ok t) (hs : P s) : P t := by
  induction l generalizing s with
  | nil => cases h; exact hs
  | cons i l ih =>
    rw [List.foldlM_cons, bind_eq_ok_iff] at h
    obtain ⟨r, hr, hl⟩ := h
    exact ih hl (step _ _ _ hr hs)

/-! ### What a write to memory leaves of the core

A write reaches the core in focus only through the digest of a checking run, which stands in its task (R358). -/

/-- The two states agree on the core in focus, up to its task. -/
def SameButTask (s t : State) : Prop := t.core = { s.core with task := t.core.task }

theorem sameButTask_of_core_eq {s t : State} (h : t.core = s.core) : SameButTask s t := by
  unfold SameButTask; rw [h]

theorem SameButTask.trans {s t u : State} (h : SameButTask s t) (k : SameButTask t u) : SameButTask s u := by
  unfold SameButTask at *; rw [k, h]

theorem digest_sameButTask (s : State) (u : UnitId) (va : Nat) (bs : List Byte) : SameButTask s (digest s u va bs) := by
  unfold digest
  split
  · exact sameButTask_of_core_eq rfl
  · split
    · exact sameButTask_of_core_eq rfl
    · split <;> rfl

theorem askHome_core {s : State} {a : Acc} {rank va : Nat} {w : Bool} {p : PAccess} {q : State × List Byte}
    (h : askHome s a rank va w p = .ok q) : q.1.core = s.core := by
  unfold askHome at h
  dsimp only at h
  split at h
  · cases h; rfl
  · cases h
  · cases h

theorem placeWrite_core (s : State) (a : Acc) (lvl : Lvl) (x : Xlat) (bs : List Byte) :
    (placeWrite s a lvl x bs).core = s.core := rfl

theorem correctSoft_core (s : State) (pa n : Nat) : (correctSoft s pa n).core = s.core := by simp [correctSoft]

theorem sysErr_ne_ok {α : Type} {d : Dev} {mset : List (BitVec 16)} {va pa n : Nat} {v : α} :
    sysErr d mset va pa n ≠ .ok v := by
  unfold sysErr
  split
  · split <;> nofun
  · split <;> nofun

theorem placeRead_core {s : State} {a : Acc} {lvl : Lvl} {x : Xlat} {va n : Nat} {q : State × List Byte}
    (h : placeRead s a lvl x va n = .ok q) : q.1.core = s.core := by
  unfold placeRead at h
  split at h
  · obtain ⟨r, hr, rfl⟩ := map_eq_ok_iff.mp h
    exact (askHome_core hr :)
  · dsimp only at h
    split at h
    · cases h; rfl
    · split at h
      · split at h
        · exact (sysErr_ne_ok h).elim
        · cases h; dsimp only; split <;> simp
      · split at h
        · exact (sysErr_ne_ok h).elim
        · cases h; dsimp only; split <;> split <;> simp [correctSoft_core]

theorem placeStore_core {s t : State} {a : Acc} {lvl : Lvl} {x : Xlat} {va : Nat} {bs : List (Byte × Byte)}
    (h : placeStore s a lvl x va bs = .ok t) : t.core = s.core := by
  unfold placeStore at h
  split at h
  · split at h
    · obtain ⟨q, hq, rfl⟩ := map_eq_ok_iff.mp h
      exact askHome_core hq
    · cases h; rfl
  · obtain ⟨_, -, h⟩ := bind_eq_ok_iff.mp h
    split at h
    · cases h
      exact placeWrite_core ..
    · obtain ⟨q, hq, h⟩ := bind_eq_ok_iff.mp h
      cases h
      exact (placeWrite_core ..).trans (placeRead_core hq)

theorem vwritePage_sameButTask {s t : State} {a : Acc} {u : UnitId} {lvl : Lvl} {dirty : Bool} {va : Nat}
    {bs : List (Byte × Byte)} (h : vwritePage s a u lvl dirty va bs = .ok t) : SameButTask s t := by
  unfold vwritePage at h
  obtain ⟨x, -, h⟩ := bind_eq_ok_iff.mp h
  have counted (s1 : State) (stored : s1.core = s.core) :
      SameButTask s (if x.attr == 1 then digest s1 u va (wroteBytes bs) else s1) := by
    refine (sameButTask_of_core_eq stored).trans ?_
    split
    · exact digest_sameButTask ..
    · exact sameButTask_of_core_eq rfl
  dsimp only at h
  split at h
  · obtain ⟨s1, hs1, h⟩ := bind_eq_ok_iff.mp h
    cases h
    refine counted s1 (foldlM_ok_induction (fun r => r.core = s.core) (fun r p r' hr' hr => ?_) hs1 (State_mark_core ..))
    obtain ⟨y, -, hr'⟩ := bind_eq_ok_iff.mp hr'
    exact (placeStore_core hr').trans hr
  · obtain ⟨s1, hs1, h⟩ := bind_eq_ok_iff.mp h
    cases h
    exact counted s1 ((placeStore_core hs1).trans (State_mark_core ..))

theorem vwriteMasked_sameButTask {s t : State} {a : Acc} {u : UnitId} {lvl : Lvl} {dirty : Bool} {va : Nat}
    {bs : List (Byte × Byte)} (h : vwriteMasked s a u lvl dirty va bs = .ok t) : SameButTask s t := by
  unfold vwriteMasked at h
  dsimp only at h
  split at h
  · exact vwritePage_sameButTask h
  · obtain ⟨x, -, h⟩ := bind_eq_ok_iff.mp h
    obtain ⟨_, -, h⟩ := bind_eq_ok_iff.mp h
    obtain ⟨s1, h1, h2⟩ := bind_eq_ok_iff.mp h
    exact (vwritePage_sameButTask h1).trans (vwritePage_sameButTask h2)

theorem vwrite_sameButTask {s t : State} {a : Acc} {u : UnitId} {lvl : Lvl} {dirty : Bool} {va : Nat} {bs : List Byte}
    (h : vwrite s a u lvl dirty va bs = .ok t) : SameButTask s t := vwriteMasked_sameButTask h

/-! ### The delivery of a cause of X (R367) -/

/-- Where X can take a cause, it enters its handler from a core that the frame write has left as it was, up to its task. -/
theorem trapX_enterHandler {s : State} {c : CauseRec} (h : Safety.mayTrap s c) :
    ∃ s1, SameButTask s s1 ∧ trapX s c = enterHandler s1 .x { c.bare with pc := s.core.pc } := by
  obtain ⟨handler, vec, s1, frame⟩ := h
  refine ⟨s1, (sameButTask_of_core_eq (raiseFlags_core s c)).trans (vwrite_sameButTask frame), ?_⟩
  have able : (s.core.handler || s.core.trapVec == 0) = false := by rw [handler, Bool.false_or]; exact beq_false_of_ne vec
  simp only [trapX, deliverCause, raiseFlags_core, able, Bool.false_eq_true, if_false, frame]

theorem enterHandler_core_x (s : State) (u : UnitId) (c : CauseRec) : (enterHandler s u c).core.x = s.core.x := by
  simp [enterHandler]

theorem enterHandler_core_pc (s : State) (u : UnitId) (c : CauseRec) : (enterHandler s u c).core.pc = s.core.trapVec := by
  simp [enterHandler]

theorem enterHandler_core_trapPc (s : State) (u : UnitId) (c : CauseRec) :
    (enterHandler s u c).core.trapPc = (trapPcAddr u c s.core.pc).1 := rfl

theorem enterHandler_core_trapCause (s : State) (u : UnitId) (c : CauseRec) :
    (enterHandler s u c).core.trapCause = trapCauseWord u c := rfl

/-- ARITH.INT_DIVZERO where X can take it: no register changes, and the trap registers name the cause and the word. -/
theorem trapX_intDivzero {s : State} (h : Safety.mayTrap s { cause := .intDivzero }) :
    let t := trapX s { cause := .intDivzero }
    t.core.x = s.core.x ∧ t.core.trapCause = 0x085 ∧ t.core.trapPc = s.core.pc ∧ t.core.pc = s.core.trapVec := by
  obtain ⟨s1, same, trap⟩ := trapX_enterHandler h
  rw [SameButTask] at same
  intro t
  simp only [t, trap, enterHandler_core_x, enterHandler_core_pc, enterHandler_core_trapPc, enterHandler_core_trapCause]
  have code : trapCauseWord .x { cause := .intDivzero, pc := s.core.pc } = 0x085 := by
    simp [trapCauseWord, causeCode, causeClass, causeCD, unitCode]
  refine ⟨by rw [same], code, ?_, by rw [same]⟩
  rw [same]; rfl

/-! ### Divisions (R125) -/

theorem writeX_eq (d : BitVec 5) (v : Word) (s : State) : writeX d v s = .next (Safety.wroteX s d v) :=
  congrArg Host.Outcome.next (advance_xset s d v)

theorem divOp_of_ne_zero {s : State} {b : BitVec 5} (h : xget s b ≠ 0) (d a : BitVec 5) (f : Word → Word → Word) :
    divOp d a b f s = .next (Safety.wroteX s d (f (xget s a) (xget s b))) :=
  (if_neg h).trans (writeX_eq ..)

theorem divOp_of_eq_zero {s : State} {b : BitVec 5} (h : xget s b = 0) (d a : BitVec 5) (f : Word → Word → Word) :
    divOp d a b f s = .next (trapX s { cause := .intDivzero }) := if_pos h

theorem sdiv_eq_ofInt_tdiv (x y : Word) : x.sdiv y = BitVec.ofInt 64 (x.toInt.tdiv y.toInt) :=
  BitVec.eq_of_toInt_eq (by rw [BitVec.toInt_sdiv, BitVec.toInt_ofInt])

theorem srem_eq_ofInt_tmod (x y : Word) : x.srem y = BitVec.ofInt 64 (x.toInt.tmod y.toInt) := by
  rw [← BitVec.toInt_srem, BitVec.ofInt_toInt]

theorem udiv_eq_ofNat_div (x y : Word) : x / y = BitVec.ofNat 64 (x.toNat / y.toNat) := by
  rw [← BitVec.toNat_udiv, BitVec.ofNat_toNat, BitVec.setWidth_eq]

theorem umod_eq_ofNat_mod (x y : Word) : x % y = BitVec.ofNat 64 (x.toNat % y.toNat) := by
  rw [← BitVec.toNat_umod, BitVec.ofNat_toNat, BitVec.setWidth_eq]

/-- Settles O2: a divisor other than 0 gives the quotient or remainder, -2^63 by -1 among them; a divisor of 0 traps, and the
frame write of the delivery leaves the registers alone. -/
theorem divisionWords : Obligations.DivisionWords := by
  intro s d a b x y
  refine ⟨fun hy => ⟨?_, ?_, ?_, ?_⟩, fun hx hy => ?_, fun hy => ⟨?_, ?_, ?_, ?_, trapX_intDivzero⟩⟩
  · exact sdiv_eq_ofInt_tdiv x y ▸ divOp_of_ne_zero hy d a BitVec.sdiv
  · exact udiv_eq_ofNat_div x y ▸ divOp_of_ne_zero hy d a (· / ·)
  · exact srem_eq_ofInt_tmod x y ▸ divOp_of_ne_zero hy d a BitVec.srem
  · exact umod_eq_ofNat_mod x y ▸ divOp_of_ne_zero hy d a (· % ·)
  · have hne : y ≠ 0 := by rw [hy]; decide
    have quotient : x.sdiv y = BitVec.intMin 64 := by rw [hx, hy]; decide
    have remainder : x.srem y = 0 := by rw [hx, hy]; decide
    exact ⟨quotient ▸ divOp_of_ne_zero hne d a BitVec.sdiv, remainder ▸ divOp_of_ne_zero hne d a BitVec.srem⟩
  · exact divOp_of_eq_zero hy d a BitVec.sdiv
  · exact divOp_of_eq_zero hy d a (· / ·)
  · exact divOp_of_eq_zero hy d a BitVec.srem
  · exact divOp_of_eq_zero hy d a (· % ·)

/-! ### Results of the immediate words (R126, R127, R128) -/

section
variable (s : State) (d a : BitVec 5) (imm : BitVec 16) (sh : BitVec 6) (far : BitVec 21)

theorem exec_addi : exec (.addi d a imm) s = .next (Safety.wroteX s d (xget s a + BitVec.ofInt 64 imm.toInt)) :=
  writeX_eq ..

theorem exec_andi : exec (.andi d a imm) s = .next (Safety.wroteX s d (xget s a &&& BitVec.ofNat 64 imm.toNat)) := by
  rw [BitVec.ofNat_toNat]; exact writeX_eq ..

theorem exec_ori : exec (.ori d a imm) s = .next (Safety.wroteX s d (xget s a ||| BitVec.ofNat 64 imm.toNat)) := by
  rw [BitVec.ofNat_toNat]; exact writeX_eq ..

theorem exec_xori : exec (.xori d a imm) s = .next (Safety.wroteX s d (xget s a ^^^ BitVec.ofNat 64 imm.toNat)) := by
  rw [BitVec.ofNat_toNat]; exact writeX_eq ..

theorem boolWord_slt (x y : Word) : boolWord (x.slt y) = if x.toInt < y.toInt then 1 else 0 := by
  simp only [boolWord, BitVec.slt_iff_toInt_lt]

theorem exec_slti :
    exec (.slti d a imm) s = .next (Safety.wroteX s d (if (xget s a).toInt < imm.toInt then 1 else 0)) := by
  have wide : (imm.signExtend 64).toInt = imm.toInt := BitVec.toInt_signExtend_of_le (by decide)
  rw [← wide, ← boolWord_slt]
  exact writeX_eq ..

theorem exec_slli : exec (.slli d a sh) s = .next (Safety.wroteX s d (xget s a <<< sh.toNat)) := writeX_eq ..

theorem exec_srli : exec (.srli d a sh) s = .next (Safety.wroteX s d (xget s a >>> sh.toNat)) := writeX_eq ..

theorem sshiftRight_eq_ofInt_div (x : Word) (n : Nat) : x.sshiftRight n = BitVec.ofInt 64 (x.toInt / 2 ^ n) := by
  rw [BitVec.sshiftRight_eq, Int.shiftRight_eq_div_pow, Nat.cast_pow, Nat.cast_ofNat]

theorem exec_srai :
    exec (.srai d a sh) s = .next (Safety.wroteX s d (BitVec.ofInt 64 ((xget s a).toInt / 2 ^ sh.toNat))) := by
  rw [← sshiftRight_eq_ofInt_div]; exact writeX_eq ..

theorem exec_adpc :
    exec (.adpc d far) s = .next (Safety.wroteX s d (s.core.pc + BitVec.ofInt 64 (4 * far.toInt))) := by
  rw [BitVec.ofInt_mul]; exact writeX_eq ..

theorem signExtend_shiftLeft_eq_ofInt : far.signExtend 64 <<< 16 = BitVec.ofInt 64 (far.toInt * 2 ^ 16) := by
  rw [BitVec.ofInt_mul, BitVec.shiftLeft_eq_mul_twoPow]; rfl

theorem exec_lih : exec (.lih d far) s = .next (Safety.wroteX s d (BitVec.ofInt 64 (far.toInt * 2 ^ 16))) := by
  rw [← signExtend_shiftLeft_eq_ofInt]; exact writeX_eq ..

end

/-! ### Encodings of the immediate words -/

theorem bf_eq_iff {n lo w : Nat} {x : BitVec n} : bf n lo w = x ↔ fld w lo n = x.toNat := by
  rw [← BitVec.toNat_inj, bf, BitVec.toNat_ofNat, fld]

section
variable (op : Nat) (d a : BitVec 5) (imm : BitVec 16) (far : BitVec 21)

/-- A scalar word with two registers and a 16-bit immediate. -/
def immWord : Nat := op * 2 ^ 26 + d.toNat * 2 ^ 21 + a.toNat * 2 ^ 16 + imm.toNat

/-- A scalar word with one register and a 21-bit immediate. -/
def farWord : Nat := op * 2 ^ 26 + d.toNat * 2 ^ 21 + far.toNat

variable {op}

theorem immWord_fields (h : op < 64) :
    fld (immWord op d a imm) 26 6 = op ∧ bf 5 21 (immWord op d a imm) = d ∧ bf 5 16 (immWord op d a imm) = a ∧
      bf 16 0 (immWord op d a imm) = imm := by
  have hd := d.isLt
  have ha := a.isLt
  have himm := imm.isLt
  simp only [bf_eq_iff, fld, immWord]
  omega

theorem farWord_fields (h : op < 64) :
    fld (farWord op d far) 26 6 = op ∧ bf 5 21 (farWord op d far) = d ∧ bf 21 0 (farWord op d far) = far := by
  have hd := d.isLt
  have hfar := far.isLt
  simp only [bf_eq_iff, fld, farWord]
  omega

theorem decodeScalar_immWord :
    decodeScalar (immWord 1 d a imm) = .ok (.addi d a imm) ∧ decodeScalar (immWord 2 d a imm) = .ok (.andi d a imm) ∧
    decodeScalar (immWord 3 d a imm) = .ok (.ori d a imm) ∧ decodeScalar (immWord 4 d a imm) = .ok (.xori d a imm) ∧
    decodeScalar (immWord 5 d a imm) = .ok (.slti d a imm) := by
  simp [decodeScalar, immWord_fields]

theorem decodeScalar_farWord :
    decodeScalar (farWord 7 d far) = .ok (.adpc d far) ∧ decodeScalar (farWord 10 d far) = .ok (.lih d far) := by
  simp [decodeScalar, farWord_fields]

end

/-! ### LIH and ORI load a value of 37 bits (R128) -/

theorem xget_wroteX_same (s : State) {d : BitVec 5} (v : Word) (h : d ≠ 0) : xget (Safety.wroteX s d v) d = v := by
  rw [← advance_xset]
  exact (xget_xset s d d v).trans (if_pos ⟨rfl, h⟩)

/-- The low half-word of a word that LIH has shifted is free for ORI. -/
theorem shiftLeft_or_eq_add (x : Word) (lo : BitVec 16) : x <<< 16 ||| lo.setWidth 64 = x <<< 16 + lo.setWidth 64 := by
  rw [BitVec.add_eq_or_of_and_eq_zero]
  ext i hi
  by_cases h : i < 16
  · simp [h]
  · have beyond : lo.getLsbD i = false := BitVec.getLsbD_of_ge lo i (by omega)
    simp [h, beyond]

/-- The upper 21 bits of a value of 37 bits. -/
def upperHalf (v : Int) : BitVec 21 := BitVec.ofInt 21 (v / 2 ^ 16)

/-- The lower 16 bits of a value. -/
def lowerHalf (v : Int) : BitVec 16 := BitVec.ofInt 16 (v % 2 ^ 16)

theorem upperHalf_toInt {v : Int} (lower : -2 ^ 36 ≤ v) (upper : v < 2 ^ 36) : (upperHalf v).toInt = v / 2 ^ 16 :=
  BitVec.toInt_ofInt_eq_self (by decide) (by omega) (by omega)

theorem lowerHalf_toNat (v : Int) : ((lowerHalf v).toNat : Int) = v % 2 ^ 16 := by
  rw [lowerHalf, BitVec.toNat_ofInt]; omega

theorem halves_eq_ofInt {v : Int} (lower : -2 ^ 36 ≤ v) (upper : v < 2 ^ 36) :
    BitVec.ofInt 64 ((upperHalf v).toInt * 2 ^ 16) ||| BitVec.ofNat 64 (lowerHalf v).toNat = BitVec.ofInt 64 v := by
  have whole : (upperHalf v).toInt * 2 ^ 16 + (lowerHalf v).toNat = v := by
    rw [upperHalf_toInt lower upper, lowerHalf_toNat]; omega
  calc BitVec.ofInt 64 ((upperHalf v).toInt * 2 ^ 16) ||| BitVec.ofNat 64 (lowerHalf v).toNat
      = BitVec.ofInt 64 ((upperHalf v).toInt * 2 ^ 16) + BitVec.ofNat 64 (lowerHalf v).toNat := by
        rw [← signExtend_shiftLeft_eq_ofInt, BitVec.ofNat_toNat, shiftLeft_or_eq_add]
    _ = BitVec.ofInt 64 ((upperHalf v).toInt * 2 ^ 16 + (lowerHalf v).toNat) := by
        rw [BitVec.ofInt_add, BitVec.ofInt_natCast]
    _ = BitVec.ofInt 64 v := by rw [whole]

/-- LIH and then ORI of the same register load any value of 37 bits. -/
theorem lih_ori_loads (s : State) {d : BitVec 5} (hd : d ≠ 0) {v : Int} (lower : -2 ^ 36 ≤ v) (upper : v < 2 ^ 36) :
    ∃ t u, exec (.lih d (upperHalf v)) s = .next t ∧ exec (.ori d d (lowerHalf v)) t = .next u ∧
      xget u d = BitVec.ofInt 64 v := by
  refine ⟨_, _, exec_lih s d (upperHalf v), exec_ori _ d d (lowerHalf v), ?_⟩
  rw [xget_wroteX_same _ _ hd, xget_wroteX_same _ _ hd, halves_eq_ofInt lower upper]

/-- Settles O3: each word writes its result and goes on, its fields decode, and LIH with ORI covers 37 bits. -/
theorem immediateWords : Obligations.ImmediateWords := by
  intro s d a imm sh far x
  obtain ⟨decAddi, decAndi, decOri, decXori, decSlti⟩ := decodeScalar_immWord d a imm
  obtain ⟨decAdpc, decLih⟩ := decodeScalar_farWord d far
  exact ⟨exec_addi s d a imm, exec_andi s d a imm, exec_ori s d a imm, exec_xori s d a imm, exec_slti s d a imm,
    exec_slli s d a sh, exec_srli s d a sh, exec_srai s d a sh, exec_adpc s d far, exec_lih s d far,
    ⟨decAddi, decAndi, decOri, decXori, decSlti, decAdpc, decLih⟩,
    fun hd v lower upper => ⟨upperHalf v, lowerHalf v, lih_ori_loads s hd lower upper⟩⟩

end Sys2Proof.Machine
